-- ==== Sys2Proof/Word.lean ====
section
/-! DEFINITION. Word.lean: the bit vectors of the device and lane masks (00_scope R5, R8, R10). -/

namespace Sys2Proof

abbrev Byte := BitVec 8
abbrev Word := BitVec 32
abbrev DWord := BitVec 64
/-- One bit per lane of a group (R10, R76). -/
abbrev Mask := BitVec 32
/-- A code address, 57 bits (R4, R87). -/
abbrev CAddr := BitVec 57
/-- An instruction count, 48 bits (R87, R222). -/
abbrev Count := BitVec 48
/-- A 16-bit cause code (R380). -/
abbrev Cause := BitVec 16

/-- The bits of a Boolean function of the lane number, lanes 0 to n − 1. -/
def maskUpTo (f : Nat → Bool) : Nat → Mask
  | 0 => 0
  | n + 1 => maskUpTo f n ||| (if f n then BitVec.twoPow 32 n else 0)

/-- The lane mask whose bit l is `f l`. -/
def maskOf (f : Nat → Bool) : Mask := maskUpTo f 32

/-- The lane numbers of a mask in ascending order (R186, R367). -/
def lanesOf (m : Mask) : List Nat := (List.range 32).filter (fun l => m.getLsbD l)

def fullMask : Mask := 0xFFFFFFFF#32

/-- A Bool as one bit. -/
def bit1 (b : Bool) : BitVec 1 := if b then 1#1 else 0#1

/-- Bits [hi:lo] of a natural number, as R9 writes x[hi:lo]. -/
def bitsOf (x hi lo : Nat) : Nat := x / 2 ^ lo % 2 ^ (hi + 1 - lo)

end Sys2Proof
end

