-- ==== Sys2Proof/Config.lean ====
section
/-! DEFINITION. Config.lean: what the manual leaves open, as constants without a body. Nothing in Lean can evaluate them,
so a statement proved of the model holds whatever they are (DESIGN CHOICE, log 7). -/

namespace Sys2Proof

/-- Which of the two FP32 values that bracket the exact value a faithful function returns (R145): `true` the one of
larger magnitude. A fixed function of the instruction (its OP) and of the input bits. Log 7. -/
opaque Config.faithfulUp : Nat → Word → Bool

/-- Which entry of a full set, or which line of a full L1, goes: a number that is taken modulo how many there are, of a
counter of the state (R179, R181, R203 give no order of replacement). Logs 7 and 17. -/
opaque Config.victim : Nat → Nat

/-- The bytes of an ECC word (R185 gives no size). Log 7. -/
opaque Config.eccBytes : Nat

/-- A duration in nanoseconds that only time decides (R360). The argument is a counter of the state. Log 7. -/
opaque Config.freeTime : Nat → DWord

/-- What the device keeps in WAITERS of a task record while records wait (R356). Log 7. -/
opaque Config.waitersWord : Nat → DWord

/-- Where an ERET of system mode outside every handler returns to: the state that Berm's own trap entry saved, which the
manual does not lay down (R401). Log 7. -/
opaque Config.trapReturn : Nat → BitVec 57

/-- The digests and the identity of the part (R434, R435): 0 and 1 Dike's and Berm's image, 2 the serial number. Log 7. -/
opaque Config.identity : Nat → BitVec 256

/-- The SM2 signature of Dike over the SM3 digest of a report (R435). Log 7. -/
opaque Config.sign : List Byte → BitVec 512

/-- The IANA number of the maker in the messages of R422, which names no value. Log 7. -/
opaque Config.enterprise : BitVec 32

/-- Whether the signed policy that Dike has accepted makes a structure due, by its uncorrected errors and by those corrected in
the present hour (R424). Log 7. -/
opaque Config.policyDue : Nat → Nat → Bool

/-- The content that a damaged word of a group's own state holds until it is restored (R253). Logs 7 and 18. -/
opaque Config.damagedWord : Nat → Word

end Sys2Proof
end

