-- ==== Sys2Proof/Machine/Cells.lean ====
section
/-! DEFINITION. Machine/Cells.lean: sparse storage in one canonical form: a list of (key, value) pairs with keys strictly
rising and no value equal to 0, which is what an unlisted key reads as. Memories, register files and tiles are kept so.
`Tbl` is the same for records, with nothing stored at an unlisted key. -/

namespace Sys2Proof.Machine

/-- Sparse storage of w-bit values; with w = 8 the pairs are `Host.Cell`s. -/
abbrev Cells (w : Nat) := List (Nat × BitVec w)

/-- What the storage holds at a key. -/
def Cells.get {w : Nat} : Cells w → Nat → BitVec w
  | [], _ => 0#w
  | (k, x) :: t, a => if a < k then 0#w else if a = k then x else Cells.get t a

/-- The storage with `v` at key `a`. A zero removes the entry, so the form stays canonical. -/
def Cells.set {w : Nat} : Cells w → Nat → BitVec w → Cells w
  | [], a, v => if v = 0#w then [] else [(a, v)]
  | (k, x) :: t, a, v =>
    if a < k then (if v = 0#w then (k, x) :: t else (a, v) :: (k, x) :: t)
    else if a = k then (if v = 0#w then t.dropWhile (fun c => c.1 ≤ a) else (a, v) :: t)
    else (k, x) :: Cells.set t a v

/-- The canonical form. -/
def Cells.wf {w : Nat} : Cells w → Bool
  | [] => true
  | [(_, x)] => x != 0#w
  | (k, x) :: (k', x') :: t => x != 0#w && decide (k < k') && Cells.wf ((k', x') :: t)

/-- Writes `f l` at `base + l` for the lanes below n that are set in the mask. -/
def Cells.setUpTo {w : Nat} (m : Cells w) (base : Nat) (mask : Mask) (f : Nat → BitVec w) : Nat → Cells w
  | 0 => m
  | n + 1 =>
    let m' := Cells.setUpTo m base mask f n
    if mask.getLsbD n then m'.set (base + n) (f n) else m'

/-- Writes `f l` at `base + l` for every lane of the mask (R68). -/
def Cells.setLanes {w : Nat} (m : Cells w) (base : Nat) (mask : Mask) (f : Nat → BitVec w) : Cells w :=
  m.setUpTo base mask f 32

/-- Writes `f i` at `base + i` for i below n. -/
def Cells.setRun {w : Nat} (m : Cells w) (base : Nat) (f : Nat → BitVec w) : Nat → Cells w
  | 0 => m
  | n + 1 => (Cells.setRun m base f n).set (base + n) (f n)

/-- The storage with every key from lo to hi − 1 back to 0. -/
def Cells.clear {w : Nat} : Cells w → Nat → Nat → Cells w
  | [], _, _ => []
  | (k, x) :: t, lo, hi =>
    if k < lo then (k, x) :: Cells.clear t lo hi else ((k, x) :: t).dropWhile (fun c => c.1 < hi)

/-- The n bytes from address a, little-endian (R5). -/
def Cells.readN (m : Cells 8) (a : Nat) : Nat → Nat
  | 0 => 0
  | n + 1 => (m.get a).toNat + 256 * Cells.readN m (a + 1) n

/-- Writes the low n bytes of x from address a, little-endian (R5). -/
def Cells.writeN (m : Cells 8) (a : Nat) : Nat → Nat → Cells 8
  | 0, _ => m
  | n + 1, x => (m.set a (BitVec.ofNat 8 x)).writeN (a + 1) n (x / 256)

/-- Records by key, keys strictly rising. -/
abbrev Tbl (α : Type) := List (Nat × α)

def Tbl.get {α : Type} : Tbl α → Nat → Option α
  | [], _ => none
  | (k, x) :: t, a => if a < k then none else if a = k then some x else Tbl.get t a

def Tbl.put {α : Type} : Tbl α → Nat → α → Tbl α
  | [], a, v => [(a, v)]
  | (k, x) :: t, a, v =>
    if a < k then (a, v) :: (k, x) :: t else if a = k then (a, v) :: t else (k, x) :: Tbl.put t a v

def Tbl.del {α : Type} : Tbl α → Nat → Tbl α
  | [], _ => []
  | (k, x) :: t, a =>
    if a < k then (k, x) :: t else if a = k then t.dropWhile (fun c => c.1 ≤ a) else (k, x) :: Tbl.del t a

/-- Applies f to the record at a key, if there is one. -/
def Tbl.upd {α : Type} (t : Tbl α) (a : Nat) (f : α → α) : Tbl α :=
  match t.get a with
  | some x => t.put a (f x)
  | none => t

def Tbl.wf {α : Type} : Tbl α → Bool
  | [] => true
  | [_] => true
  | (k, _) :: (k', x') :: t => decide (k < k') && Tbl.wf ((k', x') :: t)

/-- The lowest key from `from_` on, below `from_ + n`, at which nothing is stored. -/
def Tbl.freeFrom {α : Type} (t : Tbl α) (from_ : Nat) : Nat → Option Nat
  | 0 => none
  | n + 1 => if (t.get from_).isNone then some from_ else t.freeFrom (from_ + 1) n

end Sys2Proof.Machine
end

