-- ==== Sys2Proof/Syntax.lean ====
section
/-! DEFINITION. Syntax.lean: every row of spec/opcode_table.json as one constructor of `Instr`: the forms of the
instructions (02_encoding R43 to R55 and the chapters' entries), then the steps of the engines, of Berm and of the
device's outside (95_what_each_step_holds). Field values are decoded here into names; nothing later sees raw bits but
the emulation entry, whose operands are the raw parcels (R55). -/

namespace Sys2Proof

abbrev VReg := BitVec 8
abbrev KReg := BitVec 6
abbrev PReg := BitVec 6
/-- A tile field, bits [5:0] (R277). -/
abbrev TileReg := BitVec 6
abbrev Slot := BitVec 3

/-- The guard of a 64-bit or 96-bit form (R47). -/
structure Guard where
  p   : PReg
  neg : Bool
  deriving DecidableEq, Repr

/-- A source that is a lane register or, with AU or BU, a uniform register (R46, R93). -/
inductive Src where
  | v (n : VReg)
  | k (n : KReg)
  deriving DecidableEq, Repr

/-- An A operand: direct, uniform (AU) or indirect (AI: `v[k + off]`) (R46). -/
inductive ASrc where
  | v (n : VReg)
  | k (n : KReg)
  | ind (k : KReg) (off : VReg)
  deriving DecidableEq, Repr

/-- An A operand that AU may not name: direct or indirect lane register (R118, R168). -/
inductive LSrc where
  | v (n : VReg)
  | ind (k : KReg) (off : VReg)
  deriving DecidableEq, Repr

/-! Operand shapes. -/

/-- vD, vA. -/
structure L1 where
  g : Guard
  d : VReg
  a : ASrc
  deriving DecidableEq, Repr

/-- vD, vA, src in the 64-bit form. -/
structure L2 where
  g : Guard
  d : VReg
  a : ASrc
  b : Src
  deriving DecidableEq, Repr

/-- vD, vA, literal in the 96-bit form. -/
structure L2L where
  g   : Guard
  d   : VReg
  a   : ASrc
  lit : Word
  deriving DecidableEq, Repr

/-- vD, vA, src, vC: C names a register, so AI is reserved (R46). -/
structure L3 where
  g : Guard
  d : VReg
  a : Src
  b : Src
  c : VReg
  deriving DecidableEq, Repr

structure L3L where
  g   : Guard
  d   : VReg
  a   : Src
  lit : Word
  c   : VReg
  deriving DecidableEq, Repr

/-- A shift with its amount in B, or with .i in C[5:0] (R107). -/
inductive Shift where
  | src (o : L2)
  | imm (g : Guard) (d : VReg) (a : Src) (n : BitVec 6)
  deriving DecidableEq, Repr

/-- The amount of SHF: lane register C, or the immediate C[5:0] (R107). -/
inductive ShfAmt where
  | v (n : VReg)
  | imm (n : BitVec 6)
  deriving DecidableEq, Repr

/-- The amount of KSHL and KSHR (R123). -/
inductive KAmt where
  | k (n : KReg)
  | imm (n : BitVec 6)
  deriving DecidableEq, Repr

/-- pD, pA, pB. -/
structure P2 where
  g : Guard
  d : PReg
  a : PReg
  b : PReg
  deriving DecidableEq, Repr

/-- pD, vA, src, pC of the comparisons (R116). -/
structure SetP where
  g : Guard
  d : PReg
  a : Src
  b : Src
  c : PReg
  deriving DecidableEq, Repr

structure SetPL where
  g   : Guard
  d   : PReg
  a   : Src
  lit : Word
  c   : PReg
  deriving DecidableEq, Repr

/-- kD, kA, kB. -/
structure K2 where
  g : Guard
  d : KReg
  a : KReg
  b : KReg
  deriving DecidableEq, Repr

structure K2L where
  g   : Guard
  d   : KReg
  a   : KReg
  lit : Word
  deriving DecidableEq, Repr

/-! Modifiers. -/

inductive Cc where | eq | ne | lt | le | gt | ge
  deriving DecidableEq, Repr
inductive FCc where | eq | ne | lt | le | gt | ge | num | nan
  deriving DecidableEq, Repr
inductive Bop where | and | or | xor
  deriving DecidableEq, Repr
/-- Rounding mode (R139). -/
inductive Rm where | rn | rz | ru | rd
  deriving DecidableEq, Repr
/-- rm, .abs and .neg of A (R140). -/
structure FMod where
  rm  : Rm
  abs : Bool
  neg : Bool
  deriving DecidableEq, Repr
/-- .abs and .neg of A alone. -/
structure ANeg where
  abs : Bool
  neg : Bool
  deriving DecidableEq, Repr
inductive FFmt where | f32 | f16 | bf16
  deriving DecidableEq, Repr
/-- Modifiers of PKADD, PKMUL, PKFMA (R146). -/
structure PkMod where
  rm   : Rm
  bf16 : Bool
  neg  : Bool
  x    : Bool
  deriving DecidableEq, Repr
/-- Types of CVT (R150). -/
inductive CvtType where | i8 | i16 | i32 | i64 | z8 | z16 | z32 | z64 | f16 | bf16 | f32
  deriving DecidableEq, Repr
structure CvtMod where
  rm   : Rm
  sat  : Bool
  hs   : Bool
  hd   : Bool
  int_ : Bool
  deriving DecidableEq, Repr
/-- CVT8.to and CVT8.from (R154). -/
inductive Cvt8Op where
  | to (rm : Rm) (hd : Bool) (g : Guard) (d : VReg) (a : Src) (b : Src) (slot : Slot)
  | from_ (hs : Bool) (g : Guard) (d : VReg) (a : Src) (slot : Slot)
  deriving DecidableEq, Repr
/-- The native source codes of CVTX (R156). -/
inductive XSrc where | int4 | e3m2 | e2m3
  deriving DecidableEq, Repr
/-- The source of CVTMX: FP32, or BF16 from the low or the high half (R158). -/
inductive MxSrc where | f32 | bf16 | bf16hs
  deriving DecidableEq, Repr
inductive PackMode where | lo | hi | lh
  deriving DecidableEq, Repr
inductive LgMode where | at_ | below | above | mirror
  deriving DecidableEq, Repr
/-- The segment widths 1 to 32 of LGET (R165). -/
inductive Seg where | s1 | s2 | s4 | s8 | s16 | s32
  deriving DecidableEq, Repr
/-- Operand b of LGET (R165). -/
inductive LgB where
  | src (b : Src)
  | imm (n : BitVec 5)
  deriving DecidableEq, Repr
/-- VOTE's kind with its destination (R168). -/
inductive VoteDst where
  | all (d : PReg)
  | any (d : PReg)
  | ballot (d : VReg)
  | ballotK (d : KReg)
  deriving DecidableEq, Repr
inductive RedOp where | add | min | max | and | or | xor
  deriving DecidableEq, Repr
/-- Destination of MFS (R120). -/
inductive MfsDst where
  | lane (d : VReg) (hi : Bool)
  | uni (d : KReg)
  deriving DecidableEq, Repr
inductive KmoviMode where | sx | hi | zx
  deriving DecidableEq, Repr

/-- Address spaces (R175). -/
inductive Space where | global | polder | cs | priv
  deriving DecidableEq, Repr
inductive Policy where | none | nl1 | stream | pcache
  deriving DecidableEq, Repr
/-- Access sizes (R189). -/
inductive Size where | b8 | b16 | b32 | b64 | b128 | i8 | i16 | i32
  deriving DecidableEq, Repr
structure MemMod where
  size   : Size
  space  : Space
  policy : Policy
  deriving DecidableEq, Repr
/-- SFA and SFB (R44). -/
structure SFlags where
  fa : Bool
  fb : Bool
  deriving DecidableEq, Repr
/-- base + index + scaled displacement in C (R188). -/
structure Addr where
  base : Src
  idx  : Src
  disp : BitVec 8
  deriving DecidableEq, Repr
/-- base + index + literal displacement of the 96-bit form (R188). -/
structure AddrL where
  base : Src
  idx  : Src
  lit  : Word
  deriving DecidableEq, Repr
inductive Scope where | group | team | cluster | die | device | system
  deriving DecidableEq, Repr
inductive FenceKind where | acq | rel | full
  deriving DecidableEq, Repr
inductive AOrder where | relaxed | acq | rel | ar
  deriving DecidableEq, Repr
/-- Atomic operations; .z belongs to min and max (R193). -/
inductive AOp where | add | sub | and | or | xor | min | minz | max | maxz | exch | incw | decw
  deriving DecidableEq, Repr
/-- Spaces an atomic may name (R193). -/
inductive ASpace where | global | polder | cs
  deriving DecidableEq, Repr
structure AMod where
  w64   : Bool
  space : ASpace
  scope : Scope
  order : AOrder
  deriving DecidableEq, Repr
/-- Global or polder (R196). -/
inductive GSpace where | global | polder
  deriving DecidableEq, Repr

inductive Grade where | off | mark | step
  deriving DecidableEq, Repr
inductive Query where | used | room | floor | mark | stash
  deriving DecidableEq, Repr

/-- ACCMOV's modes (R303). -/
inductive AccMode where
  | cc (d a : TileReg)
  | rd (q : BitVec 2) (d : VReg) (a : TileReg)
  | wr (q : BitVec 2) (d : TileReg) (a : VReg)
  deriving DecidableEq, Repr
inductive SatMask where
  | k (a : KReg)
  | imm (m : Byte)
  deriving DecidableEq, Repr

/-- Spaces, scope and flags of a copy, its event register (R330). -/
structure CpyMod where
  ss    : ASpace
  ds    : ASpace
  scope : Scope
  fl    : SFlags
  g     : Guard
  a     : KReg
  ke    : KReg
  deriving DecidableEq, Repr
inductive TileMode where | open_ | held | neg | req
  deriving DecidableEq, Repr
inductive SurrOut where
  | finish
  | summary (a b : KReg)
  | refuse
  deriving DecidableEq, Repr
/-- Binding of a record (R361). -/
inductive Bind where | team | cluster | grid
  deriving DecidableEq, Repr

/-! Operands of the device's own steps. -/

/-- Page sizes (R4). -/
inductive PageSize where | k4 | k64 | m2 | g1
  deriving DecidableEq, Repr
/-- What a page names: global memory, the polder (tile × 2^18 + offset) or nothing Berm will map (R176, R183). -/
inductive PTarget where
  | global (pa : Nat)
  | tile (i : Nat)
  | refused
  deriving DecidableEq, Repr
/-- One page of a context's table (R183). `movedFrom` is the old home's page while a migration is not yet seen (R187). -/
structure Page where
  va        : Nat
  size      : PageSize
  target    : PTarget
  user      : Bool
  writable  : Bool
  movedFrom : Option Nat
  deriving DecidableEq, Repr
/-- What an L1 fill evicts when a set is full (R203): a line of the L1, a region of the directory, a block's filter entry
as (block, line). -/
structure Evict where
  l1Line    : Option Nat
  region    : Option Nat
  filterRow : Option (Nat × Nat)
  deriving DecidableEq, Repr
/-- Where an error lies: an uncorrectable one found in a group's own state (R253), in a spilled 128-byte line of its stack, where
the next read finds it (R255, R263), in the state of a conflict stream of its context (R373), in a byte of global memory, as its
polder-cache slice holds it, or of the polder, in a byte of its team's core store (R185), in a line of an L1, in the directory and
filters under a core (R423); a poisoned byte that a CXL read returns (R427); or one that its structure has corrected, which is
only counted (R423). -/
inductive Damage where
  | vreg (n lane : Nat)
  | kreg (n : Nat)
  | pred (n : Nat)
  | tile (n : Nat)
  | history
  | line (n : Nat)
  | stream (n : Nat)
  | word (polder : Bool) (addr : Nat)
  | store (off : Nat)
  | l1 (core line : Nat)
  | tracks (core : Nat)
  | cxl (addr : Nat)
  | corrected (core part : Nat)
  deriving DecidableEq, Repr
/-- The engines that acknowledge a pre-emption (R394). -/
inductive Engine where | lane | matrix | memory | copy | task | batcher | history
  deriving DecidableEq, Repr
/-- A message frame (R429). -/
structure Frame where
  dst   : Nat
  src   : Nat
  block : Nat
  sctx  : Nat
  seq   : Nat
  sgrid : Nat
  data  : List Word
  deriving DecidableEq, Repr
/-- What Berm sets when it creates a context (R178, R183, R236, R306, R344, R353, R384, R411). -/
structure CtxParams where
  ctx        : Nat
  /-- The spillway per group; none for the default of R4. -/
  spill      : Option Nat
  hbase      : Nat
  /-- The whole pool in records, reserve and free part together (R344). -/
  pool       : Nat
  /-- The watermarks; none for the defaults of R346. -/
  poolHigh   : Option Nat
  poolLow    : Option Nat
  tiles      : List (Nat × Nat)
  pages      : List Page
  cores      : List Nat
  rings      : List Nat
  faultCap   : Nat
  /-- Where the fault queue's ring lies in Berm's memory, by physical address (R384). -/
  faultRing  : Nat
  /-- Where the spillways and the handler save areas lie, by physical address (R236, R388). -/
  spillAt    : Nat
  frameArea  : Nat
  debugRight : Bool
  privBase   : Nat
  deriving DecidableEq, Repr
/-- A decoder of the CXL ports: a range of physical addresses, the ports that share it, the granularity (R427). -/
structure Decoder where
  base  : Nat
  len   : Nat
  ports : List Nat
  gran  : Nat
  deriving DecidableEq, Repr
/-- A row of the route table: messages to a device whose control block lies in a range take one link (R430). -/
structure Route where
  dst  : Nat
  lo   : Nat
  len  : Nat
  link : Nat
  deriving DecidableEq, Repr
/-- What the boot of R434 finds: whether each image verifies, Berm's division d / 64 per die (R178), the pages of Berm's image,
where its groups and the debug monitor start in it (R22, R410), what Berm sets at the ports (R427, R430). -/
structure BootParams where
  slot0    : Bool
  slot1    : Bool
  berm     : Bool
  split    : List Nat
  pages    : List Page
  entry    : CAddr
  monitor  : CAddr
  decoders : List Decoder
  routes   : List Route
  deriving DecidableEq, Repr
/-- A request through a request ring: a launch record's address (R29), or the debug right of R411. -/
inductive Request where
  | launch (rec : DWord)
  | debug
  deriving DecidableEq, Repr
/-- What the host writes in a mailbox page beside the commands: EVT_HEAD, or a command's entry with the code that no command has
(R412, R413). -/
inductive HostWrite where
  | head (n : Word)
  | entry (code : Nat) (seq : Word) (loc : DWord)
  deriving DecidableEq, Repr
/-- Berm's request to the collectors: the context, and where the save area lies (R394). -/
structure Preemption where
  ctx  : Nat
  area : Nat
  deriving DecidableEq, Repr
/-- An engine's slices on one die (R394). -/
structure Slice where
  die    : Nat
  engine : Engine
  deriving DecidableEq, Repr
/-- What the entry of a command that is about no one group holds beside its arguments: its sequence number and a locator, of which
bit 15 must be clear (R413, R414). -/
structure CmdHead where
  seq : Word
  loc : DWord
  deriving DecidableEq, Repr

/-- How a core dump is taken: the length of its buffer, and whether the context is cut for it or pre-empted (R419). -/
structure DumpAsk where
  len : Nat
  cut : Bool
  deriving DecidableEq, Repr
/-- A read of a held dump: where, and the length that the controller sets (R422). -/
structure DumpRead where
  offset : Nat
  limit  : Nat
  deriving DecidableEq, Repr
/-- A register behind a BAR (R426). -/
structure RegAddr where
  bar    : Nat
  offset : Nat
  deriving DecidableEq, Repr
/-- A die that passes 95 degrees, upwards or downwards (R438). -/
inductive DieTemp where
  | above (die : Nat)
  | below (die : Nat)
  deriving DecidableEq, Repr
/-- The links that can retrain (R423). -/
inductive Link where
  | cxl (n : Nat)
  | host
  | storage
  | thohel (n : Nat)
  deriving DecidableEq, Repr

/-- One constructor per row of spec/opcode_table.json. The first part is the instruction set; `isEvent` tells the rest. -/
inductive Instr where
  -- row 0 (R100 to R106)
  | iadd (z sat : Bool) (o : L2)
  | iaddL96 (z sat : Bool) (o : L2L)
  | isub (z sat : Bool) (o : L2)
  | isubL96 (z sat : Bool) (o : L2L)
  | ineg (sat : Bool) (o : L1)
  | iadd3 (o : L3)
  | iadd64 (z sat : Bool) (o : L2)
  | isub64 (z sat : Bool) (o : L2)
  | imul (o : L2)
  | imulL96 (o : L2L)
  | imulhi (z : Bool) (o : L2)
  | imad (o : L3)
  | imadL96 (o : L3L)
  | imadhi (z : Bool) (o : L3)
  | imin (z : Bool) (o : L2)
  | iminL96 (z : Bool) (o : L2L)
  | imax (z : Bool) (o : L2)
  | imaxL96 (z : Bool) (o : L2L)
  | iabs (sat : Bool) (o : L1)
  | idiv (z : Bool) (o : L2)
  | irem (z : Bool) (o : L2)
  | addS (d a : VReg)
  | subS (d a : VReg)
  | xorS (d a : VReg)
  | rotlS (d a : VReg)
  | negS (d : VReg)
  -- row 1 (R107 to R110)
  | shl (o : Shift)
  | shr (o : Shift)
  | sar (o : Shift)
  | rotl (o : Shift)
  | rotr (o : Shift)
  | shf (r : Bool) (g : Guard) (d : VReg) (hi lo : Src) (amt : ShfAmt)
  | popc (o : L1)
  | clz (o : L1)
  | brev (o : L1)
  | bfe (sx : Bool) (o : L2)
  | bfi (o : L3)
  -- row 2 (R111 to R115)
  | and (o : L2)
  | andL96 (o : L2L)
  | or (o : L2)
  | orL96 (o : L2L)
  | xor (o : L2)
  | xorL96 (o : L2L)
  | not (d a : VReg)
  | notW64 (o : L1)
  | tril (g : Guard) (d : VReg) (a b : Src) (c : VReg) (table : Byte)
  | pand (na nb : Bool) (o : P2)
  | por (na nb : Bool) (o : P2)
  | pxor (na nb : Bool) (o : P2)
  | pnot (g : Guard) (d a : PReg)
  | ptov (g : Guard) (d : VReg) (a : PReg) (n : BitVec 8)
  | vtop (g : Guard) (d : PReg) (a : Src) (n : BitVec 8)
  -- row 3 (R116 to R123)
  | isetp (cc : Cc) (z : Bool) (bop : Bop) (o : SetP)
  | isetpL96 (cc : Cc) (z : Bool) (bop : Bop) (o : SetPL)
  | fsetp (cc : FCc) (unord : Bool) (bop : Bop) (o : SetP)
  | fsetpL96 (cc : FCc) (unord : Bool) (bop : Bop) (o : SetPL)
  | ksetp (cc : Cc) (z : Bool) (bop : Bop) (g : Guard) (d : PReg) (a b : KReg) (c : PReg)
  | ksetpL96 (cc : Cc) (z : Bool) (bop : Bop) (g : Guard) (d : PReg) (a : KReg) (lit : Word) (c : PReg)
  | sel (nc : Bool) (g : Guard) (d : VReg) (a b : Src) (c : PReg)
  | mov (d a : VReg)
  | movW64 (g : Guard) (d : VReg) (a : LSrc)
  | movi (g : Guard) (d : VReg) (lit : Word)
  | movk (hi : Bool) (g : Guard) (d : VReg) (a : KReg)
  | swap (d a : VReg)
  | swapW64 (g : Guard) (d : VReg) (a : LSrc)
  | mfs (g : Guard) (d : MfsDst) (sr : BitVec 8)
  | mts (g : Guard) (sr : BitVec 8) (a : KReg)
  | kmov (g : Guard) (d a : KReg)
  | kmovi (g : Guard) (d : KReg) (m : KmoviMode) (lit : Word)
  | kadd (o : K2)
  | kaddL96 (o : K2L)
  | ksub (o : K2)
  | ksubL96 (o : K2L)
  | kmul (o : K2)
  | kmulL96 (o : K2L)
  | kshl (g : Guard) (d a : KReg) (n : KAmt)
  | kshr (g : Guard) (d a : KReg) (n : KAmt)
  | kand (o : K2)
  | kandL96 (o : K2L)
  | kor (o : K2)
  | korL96 (o : K2L)
  | kxor (o : K2)
  | kxorL96 (o : K2L)
  -- row 8 (R124 to R132)
  | bra (g : Guard) (off : Word)
  | bru (g : Guard) (off : Word)
  | brx (g : Guard) (t : Src)
  | call (g : Guard) (d : VReg) (off : Word)
  | calli (g : Guard) (d : VReg) (t : Src)
  | ret (a : VReg)
  | exit
  | conv
  | rdcf (g : Guard) (d : KReg)
  -- row 4 (R140 to R145)
  | fadd (m : FMod) (o : L2)
  | faddL96 (m : FMod) (o : L2L)
  | fsub (m : FMod) (o : L2)
  | fsubL96 (m : FMod) (o : L2L)
  | fmul (m : FMod) (o : L2)
  | fmulL96 (m : FMod) (o : L2L)
  | ffma (m : FMod) (o : L3)
  | ffmaL96 (m : FMod) (o : L3L)
  | fmin (m : ANeg) (o : L2)
  | fmax (m : ANeg) (o : L2)
  | fclass (fmt : FFmt) (hs : Bool) (o : L1)
  | frcp (m : FMod) (o : L1)
  | frsq (m : ANeg) (o : L1)
  | fsqrt (m : FMod) (o : L1)
  | fexp2 (m : ANeg) (o : L1)
  | flog2 (m : ANeg) (o : L1)
  | fsin (m : ANeg) (o : L1)
  | fcos (m : ANeg) (o : L1)
  -- row 5 (R146, R147)
  | pkadd (m : PkMod) (o : L2)
  | pkaddL96 (m : PkMod) (o : L2L)
  | pkmul (m : PkMod) (o : L2)
  | pkmulL96 (m : PkMod) (o : L2L)
  | pkfma (m : PkMod) (o : L3)
  | pkfmaL96 (m : PkMod) (o : L3L)
  | pkmin (bf16 neg x : Bool) (o : L2)
  | pkmax (bf16 neg x : Bool) (o : L2)
  -- row 6 (R148 to R161)
  | cvt (m : CvtMod) (dst src : CvtType) (g : Guard) (d : VReg) (a : Src)
  | cvts (bf16 sat hd : Bool) (o : L2)
  | cvt8 (o : Cvt8Op)
  | cvtx (code : XSrc) (e5m2 hs : Bool) (o : L1)
  | cvtmx (src : MxSrc) (g : Guard) (d : VReg) (ks : KReg) (a : VReg) (n : BitVec 3)
  | pack (m : PackMode) (o : L2)
  | unpack (b16 z : Bool) (g : Guard) (d : VReg) (a : Src) (n : BitVec 2)
  -- row 7 (R165 to R174)
  | lget (m : LgMode) (seg : Seg) (g : Guard) (d a : VReg) (b : LgB) (pc : Option PReg)
  | perm (b8 : Bool) (g : Guard) (d a : VReg) (b : Src) (pc : Option PReg)
  | vote (dst : VoteDst) (na : Bool) (g : Guard) (a : PReg)
  | redux (op : RedOp) (z : Bool) (g : Guard) (d : KReg) (a : LSrc)
  | scan (exc : Bool) (g : Guard) (d : VReg) (a : LSrc) (kc : Option KReg)
  | match_ (w64 : Bool) (g : Guard) (d a : VReg) (pc : Option PReg)
  | isect (g : Guard) (d : VReg) (kc : KReg) (a b : VReg)
  -- rows A and B (R188 to R199)
  | ld (m : MemMod) (g : Guard) (d : VReg) (ad : Addr)
  | ldL96 (m : MemMod) (g : Guard) (d : VReg) (ad : AddrL)
  | st (m : MemMod) (fl : SFlags) (g : Guard) (d : VReg) (ad : Addr)
  | stL96 (m : MemMod) (fl : SFlags) (g : Guard) (d : VReg) (ad : AddrL)
  | kld (m : MemMod) (g : Guard) (d a b : KReg) (disp : BitVec 8)
  | kldL96 (m : MemMod) (g : Guard) (d a b : KReg) (lit : Word)
  | ldx (m : MemMod) (g : Guard) (d : VReg) (ad : Addr)
  | stx (m : MemMod) (fl : SFlags) (g : Guard) (d : VReg) (ad : Addr)
  | xchg (m : MemMod) (g : Guard) (d : VReg) (ad : Addr)
  | pref (pc : Bool) (space : GSpace) (fl : SFlags) (g : Guard) (ad : Addr)
  | fence (kind : FenceKind) (scope : Scope) (g : Guard)
  | atom (op : AOp) (m : AMod) (g : Guard) (d : VReg) (a b : Src)
  | atomcas (m : AMod) (g : Guard) (d : VReg) (a b : Src)
  | red (op : AOp) (m : AMod) (fl : SFlags) (g : Guard) (a b : Src)
  | redL96 (op : AOp) (m : AMod) (fl : SFlags) (g : Guard) (a : Src) (lit : Word)
  | enq (space : GSpace) (scope : Scope) (g : Guard) (pc : PReg) (a : KReg) (d : VReg)
  | deq (space : GSpace) (scope : Scope) (g : Guard) (pc : PReg) (a : KReg) (d : VReg)
  -- row 9 (R258 to R263)
  | commit
  | mark
  | reverse (g : Guard) (d : PReg) (a b : KReg)
  | grade (g : Guard) (gr : Grade)
  | hstash (g : Guard) (a : KReg)
  | hquery (q : Query) (g : Guard) (d a : KReg)
  -- row C (R294 to R305)
  | mma (small : Option (BitVec 2)) (set_ : Bool) (g : Guard) (d : TileReg) (a b : VReg) (fa fb : Slot)
  | mmas (set_ : Bool) (g : Guard) (d : TileReg) (a b : VReg) (fa fb : Slot)
  | mmax (set_ : Bool) (g : Guard) (d : TileReg) (a b : VReg) (fa fb : Slot)
  | accz (g : Guard) (d : TileReg) (n : BitVec 3)
  | accld (space : ASpace) (g : Guard) (d : TileReg) (a b : KReg) (slot : Slot)
  | accst (rm : Rm) (space : ASpace) (fl : SFlags) (g : Guard) (d : TileReg) (a b : KReg) (slot : Slot)
  | accmov (g : Guard) (m : AccMode)
  | satrd (g : Guard) (d : KReg)
  | satclr (g : Guard) (m : SatMask)
  -- row D (R306 to R334)
  | cpy (m : CpyMod)
  | cpyL96 (m : CpyMod) (len : Word)
  | cpym (m : CpyMod) (km : KReg)
  | cpyg (m : CpyMod) (km : KReg)
  | seal (g : Guard) (a b : KReg)
  | unseal (g : Guard) (a : KReg)
  | drop (g : Guard) (a : KReg)
  | tileget (m : TileMode) (g : Guard) (d a b c : KReg)
  | tileput (g : Guard) (a : KReg)
  | surrender (o : SurrOut) (g : Guard)
  -- row E (R361, R362, R374, R375)
  | spawn (bind : Bind) (g : Guard) (d : PReg) (a : KReg) (b : VReg) (n : BitVec 5)
  | spawnL96 (bind : Bind) (g : Guard) (d : PReg) (off : Word) (b : VReg) (n : BitVec 5)
  | evnew (g : Guard) (d : KReg)
  | evfree (g : Guard) (d a : KReg)
  | evsig (scope : Scope) (g : Guard) (a : KReg)
  | evwait (cnt : Bool) (bind : Bind) (g : Guard) (a : KReg) (b : VReg) (n : BitVec 5)
  | cntdec (space : GSpace) (g : Guard) (d : PReg) (a : Src)
  | bar
  | grow (g : Guard) (d : PReg) (n : BitVec 4)
  | yield_
  | gridl (g : Guard) (d a b : KReg)
  | hintnext
  | waitpred
  | send (fl : SFlags) (g : Guard) (d : VReg) (a b : KReg) (c : PReg)
  | cbopen (s : BitVec 3) (g : Guard) (d : KReg)
  | cbpush (s : BitVec 3) (n : BitVec 2) (g : Guard) (d : PReg) (a b : VReg)
  | cbpull (s : BitVec 3) (g : Guard) (d : VReg) (b : KReg) (c : PReg)
  | cbdone (s : BitVec 3) (g : Guard) (d a : KReg)
  | cbflush (s : BitVec 3) (close : Bool) (g : Guard) (d : KReg)
  -- row F (R399 to R406)
  | trap (g : Guard) (d a : KReg) (code : Byte)
  | eret
  | eretSkip
  | emuret
  | emuretRetry
  | bkpt (tag : Byte)
  | nop
  | nopW (g : Guard)
  | nopL (g : Guard) (lit : Word)
  | mfg (g : Guard) (d a b : KReg)
  | mtg (g : Guard) (d a b : KReg)
  | revg (g : Guard) (d a b c : KReg)
  | launch (g : Guard) (d a b c : KReg)
  -- steps of the lane engine
  | emulationEntry (cause : Cause) (p0 p1 p2 : Word)
  | clauseStart (gid : Nat)
  | convComplete (gid : Nat)
  | barComplete (team : Nat)
  | growGrant (core quad : Nat)
  | growFail (core : Nat)
  | groupHalt (gid : Nat)
  -- steps of the memory port, the matrix engine, the copy engine and the tiles
  | loadReturn (id : Nat)
  | storePerformed (id : Nat)
  | atomicReturn (id : Nat)
  | atomicMovedReissue (id : Nat)
  | prefetchComplete (id : Nat)
  | wcbDrainTimer (core line : Nat)
  | l1MissFill (core line : Nat) (ev : Evict)
  | invalidation (core line : Nat)
  | sweepComplete (id : Nat)
  | matrixResult (core : Nat)
  | copyComplete (id : Nat)
  | copyResume (id : Nat)
  | copyAbort (id done : Nat) (cause : Cause)
  | surrenderEntry (tile : Nat)
  | surrenderOverrun (gid : Nat)
  -- steps of the history engine and the task engine; pre-emption; peer messages
  | reverseWalkStep (gid : Nat)
  | teamResident (grid team core : Nat)
  | clusterStart (grid cluster : Nat) (cores : List Nat)
  | binTimerExpiry (core bin : Nat)
  | binLaunch (core bin : Nat)
  | spawnRateExpiry (gid : Nat)
  | teamEnd (team : Nat)
  | gridEnd (grid : Nat)
  | historyRefill (gid : Nat) (damaged : Bool)
  | preemptAck (ctx : Nat) (x : Slice)
  | thohelFrameRx (f : Frame)
  | peerHeldEnqueue (idx : Nat)
  | thohelAck (dst seq : Nat)
  | messageReturn (dst seq : Nat)
  -- steps that Berm, the host, the debug host, the links and the management side make
  | pageServiceDone (ctx rec : Nat) (page : Page)
  | preemptRequest (r : Preemption)
  | rangeLockReplay (ctx rec : Nat)
  | rollback (gid : Nat) (dmg : Damage)
  | faultReplay (ctx rec : Nat)
  | faultContinue (ctx rec : Nat) (reply : DWord)
  | removeGrid (grid : Nat) (status : Word)
  | removeContext (ctx : Nat)
  | handlerTableReplace (grid : Nat) (emuh surr auxh : DWord)
  | poolExtend (ctx pages : Nat)
  | doorbell (ctx ring : Nat) (req : Request)
  | contextRestore (ctx : Nat) (place : List (Nat × Nat))
  | linkRetrain (l : Link)
  | cxlLinkFail (port : Nat) (remap : Bool) (ds : List Decoder)
  | attach (ctx : Nat) (cmd : CmdHead)
  | detach (ctx : Nat) (cmd : CmdHead)
  | halt (ctx : Nat) (seq : Word) (loc : DWord)
  | resume (ctx : Nat) (seq : Word) (loc : DWord)
  | step (ctx : Nat) (seq : Word) (loc : DWord)
  | rewind (ctx : Nat) (seq : Word) (loc target info : DWord)
  | read (ctx : Nat) (seq : Word) (loc sel : DWord)
  | write (ctx : Nat) (seq : Word) (loc sel val : DWord)
  | readmem (ctx : Nat) (seq : Word) (loc addr len space : DWord)
  | writemem (ctx : Nat) (seq : Word) (loc addr data mode : DWord)
  | dump (ctx : Nat) (cmd : CmdHead) (buf len : DWord)
  | evtHead (ctx : Nat) (w : HostWrite)
  | debugRevoke (ctx : Nat)
  | coreDump (ctx : Nat) (how : DumpAsk) (cause : Cause)
  | dumpWriteFault (offset err : Nat) (rewritten linkLost : Bool)
  | mctpDumpRead (r : DumpRead)
  | dumpflt
  | registerWrite (r : RegAddr) (val : DWord)
  | attestationRequest (nonce : List Byte)
  | powerLimitSet (watts : Nat)
  | fieldHourRollover
  | coreRetire (core : Nat)
  | coreDisable (core : Nat)
  | thermalThrottle (d : DieTemp)
  | thermalCritical (die : Nat)
  | thermalNormal
  | deviceReset (b : BootParams)
  | contextCreation (c : CtxParams)
  | pageMigration (ctx va newPa : Nat)
  deriving DecidableEq, Repr

end Sys2Proof
end

