-- ==== Sys2Proof/Machine/State.lean ====
section
/-! DEFINITION. Machine/State.lean: the device's state as plain data: groups with their splits, history and handler frames
(03_group_state, 09_history, 17_traps_emulation), teams, grids and contexts (14_task_engine), cores and memories
(06_memory_port, 07_memory_order), tiles, locks, seals and copies (12_polder_copy), streams (15_conflict_batcher), the
debug monitor and the management side (19_debug_host). `State.reset` is the device after DEVICE_RESET's power-on. -/

namespace Sys2Proof.Machine

/-- The ordering codes (R1). -/
inductive Part where | gxv256M | gxv256P | gxv240M
  deriving DecidableEq, Repr

/-- Where a byte lives: global memory by physical address, the polder by tile × 2^18 + offset, a team's core store, a
group's matrix scratch (R175, R306, R392). -/
inductive Place where
  | glob (pa : Nat)
  | pol (i : Nat)
  | cs (team off : Nat)
  | scr (gid off : Nat)
  deriving DecidableEq, Repr

/-- A format slot (R273). -/
structure FSlot where
  elem   : Byte
  scale  : Byte
  satp   : Byte
  nanp   : Byte
  tscale : Word
  rest   : DWord
  deriving DecidableEq, Repr

/-- A launch record (R341). `junk` tells whether a byte or bit that must be zero is not. -/
structure LaunchRec where
  entry    : DWord
  clusters : Nat
  cw       : Nat
  ch       : Nat
  groups   : Nat
  lanes    : Nat
  regs     : Nat
  accs     : Nat
  carve    : Nat
  grade    : Nat
  hbuf     : Nat
  succ     : Nat
  spill    : Nat
  cstore   : Nat
  priv     : Nat
  bint     : Nat
  slots    : List FSlot
  emuh     : DWord
  surr     : DWord
  auxh     : DWord
  ltr      : DWord
  preset   : List DWord
  junk     : Bool
  deriving DecidableEq, Repr

/-! History (R223, R229, R230). -/

/-- Split state as a MARKREC and the commit snapshot hold it (R223, R233). -/
inductive Wait where
  | ready
  | conv (at_ : CAddr)
  | bar (at_ : CAddr)
  | grow
  | sweep (id : Nat)
  | revg (gid : Nat)
  | parked (rec : Nat)
  deriving DecidableEq, Repr

/-- A clause in flight: its header, flags, YIELD, and the instructions left (R38, R39). -/
structure Clause where
  hdr  : CAddr
  fa   : Option Nat
  fb   : Option Nat
  left : Nat
  yld  : Bool
  deriving DecidableEq, Repr

/-- A split (R76). `mid` holds its clause when it resumes inside one (R245, R384, R416). -/
structure Split where
  pc    : CAddr
  mask  : Mask
  cfrPc : CAddr
  cfrIc : Count
  wait  : Wait
  mid   : Option Clause
  deriving DecidableEq, Repr

/-- An entry of the overflow path stack (R78). -/
structure Path where
  pc   : CAddr
  mask : Mask
  deriving DecidableEq, Repr

structure Snapshot where
  splits : Tbl Split
  parked : List Path
  regs   : Nat
  deriving DecidableEq, Repr

/-- The touched bitmap (R223). -/
structure Touched where
  v   : BitVec 256
  k   : BitVec 64
  p   : BitVec 64
  acc : BitVec 48
  sat : Bool
  arm : Bool
  deriving DecidableEq, Repr

/-- One lane's word in a MEMW entry: the lane, the address, the old value (R230). -/
structure MemPre where
  lane : Nat
  addr : DWord
  old  : DWord
  deriving DecidableEq, Repr

/-- The kinds of history entries with their payloads (R230). -/
inductive HKind where
  | vreg (n : Nat) (mask : Mask) (vals : List Word)
  | pred (n : Nat) (bits : Mask)
  | kreg (n : Nat) (val : DWord)
  | memw (mask : Mask) (size : Size) (space : Space) (pre : List MemPre) (pending : Option Nat)
  | cf (pc : CAddr) (ic : Count)
  | weave (split count : Nat)
  | split (new parent : Nat) (mask : Mask) (target : CAddr)
  | merge (kept removed : Nat) (keptMask remMask : Mask) (keptPc remPc : CAddr) (remCfrPc : CAddr) (remCfrIc : Count)
  | acc (tile : Nat) (vals : Cells 32)
  | flags (sat arm : Byte) (hasSat hasArm : Bool) (busy : Nat)
  | emuframe (addr : CAddr) (ic : Count) (close counted retry : Bool) (depth : Nat)
  | markrec (pos : Count) (issuer : Nat) (snap : Snapshot) (touched : Touched)
  | stash (val : DWord)
  | growrec (old new : Nat)
  | parkrec (unpark : Bool) (split : Nat) (mask : Mask) (pc : CAddr)
  deriving DecidableEq, Repr

/-- A history entry: the low half of its count, the split, the kind (R229). -/
structure HEntry where
  ic    : Word
  split : Nat
  kind  : HKind
  deriving DecidableEq, Repr

/-- A reversal in progress (R223). -/
structure Rev where
  target  : Count
  land    : Count
  rounded : Bool
  info    : Option DWord
  marked  : Bool
  s       : Nat
  pos     : Tbl CAddr
  dst     : Option PReg
  revg    : Option (Nat × KReg)
  /-- The debug command that ordered it: context, sequence, locator (R414). -/
  dbg     : Option (Nat × Word × DWord)
  rollback : Bool
  /-- The damaged words that no pre-image has overwritten yet (R253). -/
  dmg     : List Damage
  /-- Open frames of abandoned handlers that the walk takes off first (R395). -/
  unwind  : Nat
  fault   : Option Nat
  /-- Ordered by another party, and not begun: what R240 names is still to come (R405). -/
  waiting : Bool
  deriving DecidableEq, Repr

/-- The history state of a group (R223, R228, R234). The stack is newest first and is kept as entries (DESIGN CHOICE,
log 41); `winLo` is the lowest address of the on-chip window. -/
structure Hist where
  stack     : List HEntry
  winLo     : Nat
  snap      : Snapshot
  snapDue   : Bool
  committed : Bool
  touched   : Touched
  switchCnt : Nat
  rev       : Option Rev
  /-- Where history-full handlers have returned to: the split, the address, whether a boundary's entries trapped (R238). -/
  fullRet   : List (Nat × CAddr × Bool)
  /-- Where the lowest MEMW entry of an atomic lies that is not complete: no spill passes it (R195). -/
  hold      : Option Nat
  /-- A spill has met a damaged line, and the history is still to be discarded (R255). -/
  spoilt    : Bool
  /-- The lines of the stack, by address, that hold an uncorrectable error nobody has read yet (R255, R263). -/
  bad       : List Nat
  deriving DecidableEq, Repr

/-! Handler mode (R385). -/

inductive HandlerKind where | emulation | surrender | saturation | historyFull | stackLimit
  deriving DecidableEq, Repr

/-- A handler frame with the window of its handler (R70, R386, R388). -/
structure HFrame where
  kind      : HandlerKind
  entry     : CAddr
  split     : Nat
  at_       : CAddr
  parcels   : Nat
  whole     : Bool
  aside     : Tbl Split
  parkedAside : List Path
  clauseAside : Option Clause
  winV      : Cells 32
  winW      : Cells 64
  winP      : Cells 32
  lanes     : Mask
  used      : Nat
  budget    : Nat
  tile      : Nat
  w4        : DWord
  frameOpen : Bool
  committed : Bool
  /-- The split that had started the group's previous clause, its row of clauses, and whether that clause gave up its turn (R90,
  R232). -/
  started   : Nat
  row       : Nat
  yielded   : Bool
  deriving DecidableEq, Repr

inductive Mode where | user | system | monitor
  deriving DecidableEq, Repr

/-- A resident group (R67, R76, R87). -/
structure Group where
  ctx       : Nat
  grid      : Nat
  team      : Nat
  core      : Nat
  slot      : Nat
  mode      : Mode
  v         : Cells 32
  k         : Cells 64
  p         : Cells 32
  flags     : Cells 8
  ic        : Count
  cmark     : Count
  dir       : Bool
  grade     : Grade
  hsp       : CAddr
  hbase     : CAddr
  hlim      : CAddr
  hbuf      : Nat
  rvinfo    : DWord
  sat       : Byte
  satarm    : Byte
  launched  : Mask
  groupNo   : Nat
  teamNo    : Nat
  clusterNo : Nat
  gridNo    : Nat
  stepBit   : Bool
  privbase  : CAddr
  privlim   : Nat
  regs      : Nat
  window    : Bool
  /-- The window's lane registers and w0 to w7 while no handler runs (R70, R386). -/
  winV      : Cells 32
  winW      : Cells 64
  splits    : Tbl Split
  parked    : List Path
  cur       : Nat
  lastStart : Nat
  inARow    : Nat
  yielded   : Bool
  clause    : Option Clause
  hist      : Hist
  frames    : List HFrame
  scratch   : Cells 8
  drops     : List (Nat × Nat)
  halted    : Bool
  haltReq   : Bool
  stopped   : Bool
  lastSplit : Nat
  barCount  : Nat
  /-- The budgets granted to splits whose GROW has waited and not gone on yet, by split, and the budget that they stand on, which
  holds when there are any (R72, R75). -/
  grants    : Tbl Nat
  growOld   : Nat
  /-- The largest budget above it that a GROW has found granted to another split, and so relies on (R72). -/
  relied    : Nat
  growFail  : Option Nat
  spawnHold : Bool
  /-- Aborted copies whose 0x0607 falls due at the next boundary: the state that each saves (R329, R335). -/
  abortDue  : List (List DWord)
  /-- The split that a halt has stopped inside its clause: a released group goes on with it (R416). -/
  resume    : Option Nat
  deriving DecidableEq, Repr

/-! Teams, grids, records. -/

/-- A continuation or spawn record (R347). `writer` is the team of the group that wrote it (R349); `stamp` orders the entries
into bins (R35, R350). -/
structure Rec where
  grid   : Nat
  pc     : CAddr
  bind   : Bind
  base   : Nat
  budget : Nat
  lane   : Nat
  place  : Nat
  vals   : List Word
  writer : Nat
  stamp  : Nat
  deriving DecidableEq, Repr

/-- A spawn bin of a core (R349). Records oldest first. -/
structure Bin where
  grid    : Nat
  pc      : CAddr
  bind    : Bind
  place   : Nat
  recs    : List Rec
  expired : Bool
  deriving DecidableEq, Repr

structure Team where
  ctx     : Nat
  grid    : Nat
  teamNo  : Nat
  cluster : Nat
  core    : Nat
  cs      : Cells 8
  csSize  : Nat
  acc     : Cells 32
  accs    : Nat
  bars    : Nat
  routine : Option Nat
  deriving DecidableEq, Repr

structure Grid where
  ctx      : Nat
  gridNo   : Nat
  lrec     : LaunchRec
  join     : Option DWord
  pred     : Option Nat
  parent   : Option Nat
  emuh     : DWord
  surr     : DWord
  aux      : List DWord
  /-- Whether the launch allotted the handler window (R27, R393). -/
  window   : Bool
  hinted   : List Nat
  started  : List Nat
  ended    : List Nat
  /-- The cores reserved for the cluster that waits (R28). -/
  reserved : List Nat
  ltrHead  : Nat
  /-- The status with which Berm has removed the grid, whose records are still to be written (R357, R360, R398). -/
  killed   : Option Nat
  deriving DecidableEq, Repr

/-! Faults and the debug side of a context. -/

/-- A fault record (R384), with what Replay and Continue need. -/
structure FaultRec where
  cause   : Cause
  depth   : Nat
  split   : Nat
  precise : Bool
  dir     : Bool
  kind    : Option HandlerKind
  lanes   : Mask
  addr    : CAddr
  ic      : Count
  locator : DWord
  gridNo  : Nat
  teamNo  : Nat
  detA    : DWord
  detB    : DWord
  reply   : DWord
  gid     : Nat
  parcels : Nat
  replyTo : Option KReg
  /-- What the split waited for when the fault parked it. -/
  was     : Wait
  /-- How many records had been appended before it, which gives its slot of the ring. -/
  slot    : Nat
  /-- The state that the cause's table says is saved with the record (R335, R363). -/
  saved   : List DWord
  deriving DecidableEq, Repr

/-- An event or reply of the debug mailbox (R413). -/
structure DbgEvent where
  code   : Nat
  status : Nat
  seq    : Word
  v0     : DWord
  v1     : DWord
  loc    : DWord
  ic     : Count
  addr   : CAddr
  cause  : Cause
  deriving DecidableEq, Repr

/-- A debug session of a context (R411, R412). `monitor` is the key of the monitor's group (R410). -/
structure Debug where
  right    : Bool
  attached : Bool
  monitor  : Nat
  cmdHead  : Word
  evtTail  : Word
  evtHead  : Word
  ring     : Tbl DbgEvent
  held     : List DbgEvent
  deriving DecidableEq, Repr

/-! Events, streams. -/

structure Event where
  fired    : Bool
  overflow : Bool
  waiters  : List Rec
  deriving DecidableEq, Repr

inductive StreamState where | free | open_ | closing
  deriving DecidableEq, Repr

structure Batch where
  number  : Word
  members : List Word
  bodies  : List Word
  deriving DecidableEq, Repr

/-- A conflict stream (R364, R366). Open batches oldest first; the closed queue from its head. -/
structure Stream where
  state       : StreamState
  core        : Nat
  openBatches : List Batch
  closed      : List Batch
  outstanding : List Word
  counter     : Word
  deriving DecidableEq, Repr

/-- The record pool (R344 to R346): its whole size at creation, of which `free0` is the free part and the rest the reserve;
`size` is the free part with its extensions. -/
structure Pool where
  whole  : Nat
  free0  : Nat
  size   : Nat
  high   : Nat
  low    : Nat
  depth  : Bool
  rateT  : Nat
  ready  : List Rec
  deriving DecidableEq, Repr

/-- What a pre-emption has saved (R352, R396): the groups and teams as they stood, the bins with the core that held them. -/
structure Image where
  groups : Tbl Group
  teams  : Tbl Team
  bins   : List (Nat × Bin)
  deriving DecidableEq, Repr

/-- A task record's wait list (R356): its place, the word that stands in WAITERS while records wait, the records. -/
structure TaskWait where
  place : Place
  word  : DWord
  recs  : List Rec
  deriving DecidableEq, Repr

/-- A wait of WAITPRED records (R362). -/
structure PredWait where
  grid : Nat
  recs : List Rec
  deriving DecidableEq, Repr

/-- A context. `ringLast` holds the key of the grid launched last through ring r at r, and of the child launched last by
the grid with key g at 2^16 + g (R358). `spill` is the spillway per group in bytes. Queues and rings are kept as
data, not as bytes of Berm's pages (DESIGN CHOICE, log 42). -/
structure Ctx where
  pages     : List Page
  cores     : List Nat
  rings     : List Nat
  ringLast  : Tbl Nat
  spill     : Nat
  nextBase  : Nat
  /-- Where the spillways and the handler save areas lie, by physical address (R236, R388). -/
  spillAt   : Nat
  frameArea : Nat
  faults    : Tbl FaultRec
  faultCap  : Nat
  /-- Where the ring of the fault queue lies, and how many records have been appended to it (R384). -/
  faultRing : Nat
  faultTail : Nat
  faultHold : Tbl FaultRec
  faultLog  : List FaultRec
  pool      : Pool
  events    : Tbl Event
  taskWaits : List TaskWait
  predWaits : List PredWait
  poolWaits : List Nat
  streams   : Tbl Stream
  dbg       : Debug
  /-- The acknowledgements that the collectors have, by die (R394). -/
  preempt   : Option (List Slice)
  /-- The save area that Berm named last (R394, R396). -/
  save      : Option Nat
  image     : Option Image
  privNext  : Nat
  deriving DecidableEq, Repr

/-! Cores, memory port, copy engine. -/

/-- A byte held in a write-combining line: its value, the group that wrote it last, every group that wrote it (R206). -/
structure WByte where
  val     : Byte
  last    : Nat
  writers : List Nat
  deriving DecidableEq, Repr

structure WLine where
  line  : Nat
  bytes : Tbl WByte
  deriving DecidableEq, Repr

/-- An L1 line: it agrees with the home but for the bytes listed as stale (R204). A private line, which no store of another
party invalidates, may hold dirty bytes beside (`Core.dirty`; R177, R181). `low` is the lowest replacement priority, of a line
that a .stream load has brought in (R181). -/
structure L1Line where
  line  : Nat
  priv  : Bool
  low   : Bool
  stale : Tbl Byte
  deriving DecidableEq, Repr

/-- A matrix operation accepted and not finished: the values for its tile elements (R278, R296). -/
structure MatOp where
  gid  : Nat
  team : Nat
  tile : Nat
  vals : List (Nat × Word)
  sat  : Bool
  deriving DecidableEq, Repr

structure Core where
  wcb    : List WLine
  l1     : List L1Line
  dirty  : Tbl Byte
  fills  : List Nat
  /-- The fills that .stream loads have asked for. -/
  lowFills : List Nat
  invals : List Nat
  mq     : List MatOp
  carve  : Option Nat
  bins   : Tbl Bin
  deriving DecidableEq, Repr

/-- A resolved lane register: the group's own, the handler's window, or the depth-1 window saved at depth 2 (R386, R388). -/
inductive Loc where
  | own (n : Nat)
  | win (n : Nat)
  | saved (n : Nat)
  deriving DecidableEq, Repr

structure LaneWrite where
  loc  : Loc
  lane : Nat
  val  : Word
  deriving DecidableEq, Repr

/-- A lane of an atomic that was answered moved: its address, its operand, and what a compare and swap writes (R187). -/
structure MovedLane where
  lane : Nat
  addr : DWord
  y    : Nat
  new  : Nat
  deriving DecidableEq, Repr

/-- An atomic that waits for its re-issue, with the operands of its issue; no operation is a compare and swap (R187). -/
structure MovedAtomic where
  m     : AMod
  op    : Option AOp
  lanes : List MovedLane
  dst   : List Loc
  deriving DecidableEq, Repr

/-- Work the memory port has issued and not finished. `lanes` are the lanes of Exec: a split's scoreboard holds the results
of the instructions that it issued, and those of the lanes that are its own (R76, R86). -/
inductive Pending where
  | load (gid split : Nat) (lanes : Mask) (vw : List LaneWrite) (kw : List (Nat × DWord))
  | kload (gid split : Nat) (lanes : Mask) (kw : List (Nat × DWord))
  | atomic (gid split : Nat) (lanes : Mask) (vw : List LaneWrite) (fl : List Nat)
  | moved (gid split : Nat) (x : MovedAtomic) (fl : List Nat)
  | store (gid : Nat) (fl : List Nat)
  | pref (gid : Nat) (fl : List Nat)
  deriving DecidableEq, Repr

inductive TileState where | free | open_ | held | negotiated
  deriving DecidableEq, Repr

/-- A routine word as R311 lays it out. -/
structure Routine where
  addr   : CAddr
  budget : Nat
  limit  : Nat
  deriving DecidableEq, Repr

/-- A queued request for a tile (R312, R315). -/
structure TileReq where
  team    : Nat
  gid     : Nat
  routine : Routine
  mailbox : Nat
  event   : Nat
  deriving DecidableEq, Repr

structure TileRec where
  ctx      : Nat
  va       : Nat
  state    : TileState
  team     : Nat
  gid      : Nat
  gen      : Byte
  routine  : Routine
  refusals : Nat
  queue    : List TileReq
  running  : Option Nat
  deriving DecidableEq, Repr

structure SealRec where
  tile    : Nat
  off     : Nat
  len     : Nat
  count   : Nat
  closing : Bool
  waiters : List Rec
  deriving DecidableEq, Repr

/-- One side of a copy as the descriptor names it (R325, R326): a space, a base and a layout. -/
inductive Layout where
  | row (pitch : Nat)
  | blocked (bc : Nat)
  | frag (kind : Nat)
  | raw
  deriving DecidableEq, Repr

/-- A byte range a copy reads or writes through a base: global virtual, tile, or a team's core store. -/
inductive Base where
  | va (a : Nat)
  | tile (t off : Nat)
  | cs (team off : Nat)
  deriving DecidableEq, Repr

/-- An entry of the range-lock table (R323): a range, and whether it is a destination. -/
structure PlaceRange where
  base : Base
  len  : Nat
  dst  : Bool
  deriving DecidableEq, Repr

/-- A copy in flight (R328). `pairs` are its (source, destination) bases: one for CPY, one per team for CPYM and CPYG;
`rows` and `cols` count the source's elements of `esize` bits; `done` counts the elements written. -/
structure Copy where
  gid      : Nat
  ctx      : Nat
  team     : Nat
  grid     : Nat
  core     : Nat
  user     : Bool
  pairs    : List (Base × Base)
  rows     : Nat
  cols     : Nat
  srcL     : Layout
  dstL     : Layout
  esize    : Nat
  trans    : Bool
  fill     : Bool
  flags    : List Nat
  event    : Nat
  scope    : Scope
  /-- The cluster of the team that issued it, whose scope may outlive the team (R212, R439). -/
  cluster  : Nat
  locks    : List PlaceRange
  /-- K(A) to K(A+3) as they stood at issue, which an abort saves (R335). -/
  desc     : List DWord
  paused   : Bool
  done     : Nat
  deriving DecidableEq, Repr

/-- A sweep of every memory port (R208, R314) and what its completion does: a release, by TILEPUT or without a routine
(`summary`, then); a handover that ends a routine, by SURRENDER with its summary or by its budget (R319, R322). -/
inductive Sweep where
  | seal (gid : Nat)
  | release (gid tile : Nat) (summary : Option (Nat × Nat))
  | handover (gid tile : Nat) (summary : Nat × Nat) (overrun : Bool)
  | register (copy : Nat)
  deriving DecidableEq, Repr

/-! Messages. -/

/-- A message that its peer has not acknowledged: its group and context, its flags, its core, its SEND (R359, R362). -/
structure Sent where
  frame : Frame
  gid   : Nat
  ctx   : Nat
  flags : List Nat
  core  : Nat
  batch : Nat
  deriving DecidableEq, Repr

/-- A message that waits at this device for a slot of its queue (R359). -/
structure Held where
  frame : Frame
  deriving DecidableEq, Repr

/-- What the device has put on its Thohel links: a frame with the link it takes, the acknowledgement of a sequence number to its
source, or the return of a message that this device cannot accept (R359, R429, R430). -/
inductive Wire where
  | frame (link : Nat) (bytes : List Byte)
  | ack (dst seq : Nat)
  | back (dst seq : Nat)
  deriving DecidableEq, Repr

/-! Management. -/

structure MgmtRec where
  kind   : Nat
  port   : Nat
  ctx    : Nat
  detail : DWord
  deriving DecidableEq, Repr

/-- The management side (R432 to R438): `reports` are the attestation reports made, each with its signature (R435); `mctp` is
the last message that carried a dump's bytes (R422); `booting` holds while a reset's boot goes on (R434); `hot` from a die's
entry into the critical state until every die has cooled (R438). -/
structure Mgmt where
  spares   : List Nat
  split    : List Nat
  retired  : Nat
  replReq  : Bool
  dumpHeld : Bool
  dumpFlt  : Bool
  therm    : List Nat
  stage    : Nat
  reason   : Nat
  mailbox  : Tbl MgmtRec
  mbIndex  : Nat
  power    : Nat
  enabled  : List DWord
  reports  : List (List Byte × BitVec 512)
  mctp     : List Byte
  booting  : Bool
  /-- Where the debug monitor starts in Berm's image (R410). -/
  monitor  : CAddr
  hot      : Bool
  deriving DecidableEq, Repr

/-- Field records (R423). Keys: 16 × core + structure for ECC counts, the core or link number elsewhere; a retired core's own
records stay under the number 512 + n, the n-th to be retired. -/
structure Field where
  corrected   : Tbl Nat
  uncorrected : Tbl Nat
  hour        : Tbl Nat
  buckets     : Tbl Nat
  rollbacks   : Tbl Nat
  defaults    : Tbl Nat
  discards    : Tbl Nat
  retrains    : Tbl Nat
  thermal     : Tbl Nat
  /-- The structures that an hour which is over has made due (R424). -/
  pastDue     : List Nat
  deriving DecidableEq, Repr

/-- A core dump (R419 to R422): the sizes of the items of its sections after the header, their bytes, the length of the
buffer, and where its writing stopped. -/
structure Dump where
  ctx     : Nat
  cause   : Cause
  buf     : Nat
  limit   : Nat
  stop    : Nat
  sizes   : List (List Nat)
  bytes   : List Byte
  faulted : Bool
  side    : Bool
  deriving DecidableEq, Repr

/-- Why a step can stop with a fault. -/
inductive Fault where
  /-- Raised by every instruction of the set (not by the engines' steps): no group is at its issue point, so no
  instruction can be issuing. Safe: no step of the device executes an instruction without an issuing group. -/
  | noIssuer
  deriving DecidableEq, Repr

/-- Why a step has no meaning. -/
inductive Refusal where
  /-- Raised by the arm of an instruction that has no meaning yet. Safe: nothing is claimed of such a step. -/
  | notModelled (mnemonic : String)
  deriving DecidableEq, Repr

/-- A GROW that waits: its quadrant (core × 4 + quadrant), group, split and the budget asked (R72). -/
structure GrowReq where
  quad  : Nat
  gid   : Nat
  split : Nat
  want  : Nat
  deriving DecidableEq, Repr

/-- The state of the device. -/
structure State where
  part    : Part
  mem     : Cells 8
  polder  : Cells 8
  poison  : List Place
  /-- The CXL ports whose links have failed, and the decoders (R427). -/
  failed  : List Nat
  decoders : List Decoder
  tiles   : Tbl TileRec
  seals   : Tbl SealRec
  copies  : Tbl Copy
  sweeps  : Tbl Sweep
  cores   : Tbl Core
  /-- The lines of the polder caches; each lists the bytes that are not written back yet as CXL memory holds them (R179). -/
  pcache  : Tbl (Tbl Byte)
  homeDir : Tbl Nat
  filters : Tbl Nat
  pend    : Tbl Pending
  ctxs    : Tbl Ctx
  grids   : Tbl Grid
  teams   : Tbl Team
  groups  : Tbl Group
  growQ   : List GrowReq
  sent    : List Sent
  rxHeld  : List Held
  rxSeq   : List (Nat × Nat)
  txSeq   : Tbl Nat
  /-- The route table (R430), and what has gone out on the links. -/
  routes  : List Route
  wire    : List Wire
  mgmt    : Mgmt
  field   : Field
  dump    : Option Dump
  /-- The dumps that Dike keeps for side-band reading, each with the offsets read (R421, R422). -/
  heldDumps : List (Dump × List Nat)
  /-- The mailboxes of contexts that have been removed: their pages stay for the host to read (R412, R418). -/
  goneDbg   : Tbl Debug
  hostBuf : Cells 8
  deviceNo : Nat
  /-- The round-robin pointers of the quadrants (core × 4 + quadrant): a core slot number (R89). -/
  ptrs    : Tbl Nat
  /-- The model's own fields (DESIGN CHOICE, log 4): the quadrant served last, the group whose turn it is, the steps that come
  from outside, the engines' work in the order in which it is done, the timers, the next unused key, the counter of free values.
  -/
  quad    : Nat
  cur     : Nat
  inputs  : List Instr
  engine  : List Instr
  timers  : List Instr
  nextId  : Nat
  fresh   : Nat
  /-- Clauses started since a timer ran out. -/
  ticks   : Nat
  deriving DecidableEq, Repr

def Touched.none : Touched := ⟨0, 0, 0, 0, false, false⟩

/-- The compute cores of a die that a part enables: 64, or 60, of which the manual does not say which (R1; DESIGN CHOICE, log
49: the four highest are the disabled ones). -/
def Part.mask : Part → DWord
  | .gxv256M => 0xFFFFFFFFFFFFFFFF#64
  | .gxv256P => 0xFFFFFFFFFFFFFFFF#64
  | .gxv240M => 0x0FFFFFFFFFFFFFFF#64

def Mgmt.reset : Mgmt :=
  { spares := [2, 2, 2, 2], split := [0, 0, 0, 0], retired := 0, replReq := false, dumpHeld := false, dumpFlt := false,
    therm := [0, 0, 0, 0], stage := 1, reason := 0, mailbox := [], mbIndex := 0, power := 2200,
    enabled := [0xFFFFFFFFFFFFFFFF, 0xFFFFFFFFFFFFFFFF, 0xFFFFFFFFFFFFFFFF, 0xFFFFFFFFFFFFFFFF], reports := [], mctp := [],
    booting := false, monitor := 0#57, hot := false }

def Field.reset : Field := ⟨[], [], [], [], [], [], [], [], [], []⟩

/-- The machine of one ordering code right after reset: no context, no group, boot stage 1 (R432, R434). Logs 1 to 4 name every
value the manual does not give (DESIGN CHOICE). -/
def State.resetOf (p : Part) : State :=
  { part := p, mem := [], polder := [], poison := [], failed := [], decoders := [], tiles := [], seals := [], copies := [],
    sweeps := [], cores := [], pcache := [], homeDir := [], filters := [], pend := [], ctxs := [], grids := [], teams := [], groups := [],
    growQ := [], sent := [], rxHeld := [], rxSeq := [], txSeq := [], routes := [], wire := [],
    mgmt := { Mgmt.reset with enabled := [p.mask, p.mask, p.mask, p.mask] }, field := Field.reset,
    dump := none, heldDumps := [], goneDbg := [], hostBuf := [], deviceNo := 0, ptrs := [], quad := 0, cur := 0, inputs := [], engine := [], timers := [],
    nextId := 1, fresh := 0,
    ticks := 0 }

/-- The machine right after reset: a GXV-256M. -/
def State.reset : State := State.resetOf .gxv256M

/-- The enabled cores of a die (R3): no part enables more than it is sold with (R1, R425). -/
def State.enabledMask (s : State) (die : Nat) : DWord := s.mgmt.enabled.getD die 0#64 &&& s.part.mask

def Core.empty : Core :=
  { wcb := [], l1 := [], dirty := [], fills := [], lowFills := [], invals := [], mq := [], carve := none, bins := [] }

end Sys2Proof.Machine
end

