-- ==== Sys2Proof/Machine/Ops.lean ====
section
/-! DEFINITION. Machine/Ops.lean: the named operations over a group's registers, its history stack, fault records and
handler mode, that every meaning is written with (03_group_state R67 to R70, 09_history R224 to R238, 17_traps R383 to
R391), and the fetch of code parcels (02_encoding R36). -/

namespace Sys2Proof.Machine

/-! Bit helpers. -/

def w64 (n : Nat) : DWord := BitVec.ofNat 64 n
def w32 (n : Nat) : Word := BitVec.ofNat 32 n

/-- The pair value whose low half is `lo` (R97). -/
def joinW (lo hi : Word) : DWord := hi ++ lo
def loW (x : DWord) : Word := x.extractLsb' 0 32
def hiW (x : DWord) : Word := x.extractLsb' 32 32
def sext64 (x : Word) : DWord := x.signExtend 64
def zext64 (x : Word) : DWord := x.setWidth 64

/-- The code address of a 64-bit value: bits [56:0] (R124). -/
def toCAddr (x : DWord) : CAddr := x.setWidth 57

def popCount (m : Mask) : Nat := (lanesOf m).length

/-- The lowest lane of a mask; 32 of an empty one. -/
def lowLane (m : Mask) : Nat := (lanesOf m).headD 32

/-- Bits [i + n − 1 : i] of a 64-bit value as a number. -/
def fld (x : DWord) (i n : Nat) : Nat := (x.extractLsb' i n).toNat

/-! Why an instruction does not retire. -/

inductive Stop where
  /-- A precise fault to Berm: cause, lanes, details A and B (R384). No lanes named: the lanes of Exec. -/
  | berm (cause : Cause) (lanes : Option Mask) (a b : DWord)
  /-- Emulation with an encoding cause found at issue (R55: 0x0005). -/
  | emu (cause : Cause)
  /-- Entry to a handler before the instruction: kind, cause, w1 (R385, R389). -/
  | handler (k : HandlerKind) (cause : Cause) (w1 : DWord)
  /-- The instruction waits at issue. -/
  | stall
  /-- The instruction waits, or ends, in a state of its own. -/
  | wait (s : State)
  deriving DecidableEq, Repr

abbrev Run (α : Type) := Except Stop α

/-- A precise fault on the lanes of Exec with no details. -/
def raise {α : Type} (c : Cause) : Run α := .error (.berm c none 0#64 0#64)
/-- A precise fault with detail A. -/
def raiseA {α : Type} (c : Cause) (a : DWord) : Run α := .error (.berm c none a 0#64)
/-- A precise fault on the lanes given. -/
def raiseL {α : Type} (c : Cause) (m : Mask) (a : DWord) : Run α := .error (.berm c (some m) a 0#64)

/-- Checks a condition, with the stop taken when it fails. -/
def need (b : Bool) (e : Stop) : Run Unit := if b then .ok () else .error e

/-! Registers of a group (R67, R68, R70, R386, R388). -/

def Group.inHandler (g : Group) : Bool := !g.frames.isEmpty
def Group.depth (g : Group) : Nat := g.frames.length
def Group.topKind (g : Group) : Option HandlerKind := g.frames.head?.map (·.kind)

def Group.rdV (g : Group) (l : Loc) (lane : Nat) : Word :=
  match l, g.frames with
  | .own n, _ => g.v.get (32 * n + lane)
  | .win n, f :: _ => f.winV.get (32 * n + lane)
  | .saved n, _ :: f :: _ => f.winV.get (32 * n + lane)
  | _, _ => 0#32

def HFrame.wrV (f : HFrame) (n : Nat) (m : Mask) (x : Nat → Word) : HFrame :=
  { f with winV := f.winV.setLanes (32 * n) m x }

/-- Writes the lanes of the mask (R68). -/
def Group.wrV (g : Group) (l : Loc) (m : Mask) (x : Nat → Word) : Group :=
  match l, g.frames with
  | .own n, _ => { g with v := g.v.setLanes (32 * n) m x }
  | .win n, f :: t => { g with frames := f.wrV n m x :: t }
  | .saved n, f :: f' :: t => { g with frames := f :: f'.wrV n m x :: t }
  | _, _ => g

/-- A uniform register; k0 reads zero; in handler mode 56 to 63 name the window (R68, R386). -/
def Group.rdK (g : Group) (n : Nat) : DWord :=
  if n = 0 then 0#64
  else match g.frames with
    | f :: _ => if 56 ≤ n then f.winW.get (n - 56) else g.k.get n
    | [] => g.k.get n

def Group.wrK (g : Group) (n : Nat) (x : DWord) : Group :=
  if n = 0 then g
  else match g.frames with
    | f :: t => if 56 ≤ n then { g with frames := { f with winW := f.winW.set (n - 56) x } :: t }
                else { g with k := g.k.set n x }
    | [] => { g with k := g.k.set n x }

/-- A predicate, one bit per lane; p63 reads true; in handler mode 56 to 62 name the window (R68, R386). -/
def Group.rdP (g : Group) (n : Nat) : Mask :=
  if n = 63 then fullMask
  else match g.frames with
    | f :: _ => if 56 ≤ n then f.winP.get (n - 56) else g.p.get n
    | [] => g.p.get n

/-- Writes the lanes of the mask. -/
def Group.wrP (g : Group) (n : Nat) (m bits : Mask) : Group :=
  if n = 63 then g
  else match g.frames with
    | f :: t =>
      if 56 ≤ n then
        { g with frames := { f with winP := f.winP.set (n - 56) ((f.winP.get (n - 56) &&& ~~~m) ||| (bits &&& m)) } :: t }
      else { g with p := g.p.set n ((g.p.get n &&& ~~~m) ||| (bits &&& m)) }
    | [] => { g with p := g.p.set n ((g.p.get n &&& ~~~m) ||| (bits &&& m)) }

/-- The guard over the lanes (R47). -/
def Group.guard (g : Group) (gd : Guard) : Mask := if gd.neg then ~~~(g.rdP gd.p.toNat) else g.rdP gd.p.toNat

/-- A lane register named by a direct field (R69, R70). -/
def Group.loc (g : Group) (n : Nat) : Run Loc :=
  if g.inHandler then (if n < 16 then .ok (.win n) else raise 0x0201#16)
  else if n < g.regs then .ok (.own n) else raise 0x0201#16

/-- A lane register named by an index, `v[k + off]` (R46, R69, R388). -/
def Group.locInd (g : Group) (k : KReg) (off : VReg) : Run Loc :=
  let i := (g.rdK k.toNat + off.setWidth 64).toNat
  if i < g.regs then .ok (.own i)
  else if g.depth = 2 ∧ 256 ≤ i ∧ i < 272 then .ok (.saved (i - 256))
  else raise 0x0201#16

/-- The pair `vn:vn+1` (R69). -/
def Group.locPair (g : Group) (n : Nat) : Run (Loc × Loc) := do
  let a ← g.loc n
  let b ← g.loc (n + 1)
  return (a, b)

/-! The history stack (R228 to R234). -/

/-- Bytes of an entry: payload and header (R228, R230). -/
def HKind.size : HKind → Nat
  | .vreg .. => 144
  | .pred .. => 16
  | .kreg .. => 24
  | .memw _ _ _ pre _ => 16 + 16 * pre.length
  | .cf .. => 24
  | .weave .. => 16
  | .split .. => 24
  | .merge .. => 56
  | .acc .. => 16400
  | .flags .. => 16
  | .emuframe .. => 24
  | .markrec .. => 344
  | .stash .. => 16
  | .growrec .. => 16
  | .parkrec .. => 24

/-- R231: the entries pushed at a clause boundary. The frames of handlers that do not count are among them. -/
def HKind.boundary : HKind → Bool
  | .weave .. => true
  | .merge .. => true
  | .parkrec unpark .. => unpark
  | .emuframe _ _ _ counted retry _ => !counted && !retry
  | _ => false

/-- The window after a push: it spills its oldest half at three quarters, or empties for a large entry (R234). -/
def spillLo (winLo hsp buf size : Nat) : Nat :=
  if buf / 2 < size then hsp
  else if hsp - winLo ≥ buf / 4 * 3 then (winLo + buf / 2) / 128 * 128
  else winLo

/-- A spill of the window up to an address, as far as no incomplete MEMW entry stands in its way (R195). A damaged line that it
reads is found, and the history is to be discarded (R255). -/
def Hist.spillTo (h : Hist) (lo : Nat) : Hist :=
  let lo := max h.winLo (h.hold.elim lo (min lo))
  { h with
    winLo := lo
    spoilt := h.spoilt || h.bad.any (fun l => decide (128 * l < lo) && decide (h.winLo < 128 * (l + 1))) }

/-- Pushes an entry as it stands. -/
def Group.push (g : Group) (k : HKind) (split : Nat) : Group :=
  let hsp := g.hsp + BitVec.ofNat 57 k.size
  { g with
    hsp := hsp
    hist := { g.hist with stack := ⟨g.ic.setWidth 32, split, k⟩ :: g.hist.stack }.spillTo
      (spillLo g.hist.winLo hsp.toNat (1024 * g.hbuf) k.size) }

/-- The MEMW entry that is pushed next is an atomic's: it is complete when its old values return (R195). -/
def Group.holdSpill (g : Group) : Group :=
  { g with hist := { g.hist with hold := g.hist.hold.or (some g.hsp.toNat) } }

/-- Every MEMW entry is complete: the spill that waited for one is made (R195, R234). -/
def Group.freeSpill (g : Group) : Group :=
  if g.hist.hold.isNone then g
  else { g with hist := { g.hist with hold := none }.spillTo (spillLo g.hist.winLo g.hsp.toNat (1024 * g.hbuf) 0) }

/-- The window holds more than the buffer, since a spill waits for a MEMW entry (R195, R234). -/
def Group.overfull (g : Group) : Bool := g.hist.hold.isSome && decide (g.hist.winLo + 1024 * g.hbuf < g.hsp.toNat)

/-- R238: while a history-full handler runs, the group records nothing. -/
def Group.quiet (g : Group) : Bool := g.frames.any (fun f => f.kind == .historyFull)

/-- The grade in which a push is made now. -/
def Group.recGrade (g : Group) : Grade := if g.quiet then .off else g.grade

/-- Pushes a control entry: STEP grade only (R224). -/
def Group.pushStep (g : Group) (k : HKind) : Group :=
  if g.recGrade = .step then g.push k g.cur else g

/-- Pushes an entry that MARK and STEP grade both hold (R224: MEMW, GROWREC, MARKREC, STASH). -/
def Group.pushBoth (g : Group) (k : HKind) : Group :=
  if g.recGrade = .off then g else g.push k g.cur

/-- The 32 lane values of a lane register of the group. -/
def Group.lanes (g : Group) (n : Nat) : List Word := (List.range 32).map (fun l => g.v.get (32 * n + l))

def Group.touch (g : Group) (f : Touched → Touched) : Group :=
  { g with hist := { g.hist with touched := f g.hist.touched } }

/-- Records a lane register before a write of the lanes of m (R224 to R226). `exact` says that the form is class X. -/
def Group.recV (g : Group) (l : Loc) (m : Mask) (exact_ : Bool) : Group :=
  match l with
  | .own n =>
    if m = 0#32 then g
    else match g.recGrade with
      | .off => g
      | .mark =>
        if g.hist.touched.v.getLsbD n then g
        else (g.push (.vreg n fullMask (g.lanes n)) g.cur).touch (fun t => { t with v := t.v ||| BitVec.twoPow 256 n })
      | .step => if exact_ && !g.inHandler then g else g.push (.vreg n m (g.lanes n)) g.cur
  | _ => g

/-- Records a uniform register (R96, R225). -/
def Group.recK (g : Group) (n : Nat) (exact_ : Bool) : Group :=
  if n = 0 || (g.inHandler && 56 ≤ n) then g
  else match g.recGrade with
    | .off => g
    | .mark =>
      if g.hist.touched.k.getLsbD n then g
      else (g.push (.kreg n (g.k.get n)) g.cur).touch (fun t => { t with k := t.k ||| BitVec.twoPow 64 n })
    | .step => if exact_ && !g.inHandler then g else g.push (.kreg n (g.k.get n)) g.cur

/-- Records a predicate before a write of the lanes of m (R96, R225). -/
def Group.recP (g : Group) (n : Nat) (m : Mask) (exact_ : Bool) : Group :=
  if m = 0#32 || n = 63 || (g.inHandler && 56 ≤ n) then g
  else match g.recGrade with
    | .off => g
    | .mark =>
      if g.hist.touched.p.getLsbD n then g
      else (g.push (.pred n (g.p.get n)) g.cur).touch (fun t => { t with p := t.p ||| BitVec.twoPow 64 n })
    | .step => if exact_ && !g.inHandler then g else g.push (.pred n (g.p.get n)) g.cur

/-- The busy flags, for the debug monitor (R230 FLAGS). -/
def Group.busy (g : Group) : Nat :=
  (List.range 12).foldl (fun a i => if g.flags.get i = 0#8 then a else a + 2 ^ i) 0

/-- Records %sat before a change of it (R98, R224). -/
def Group.recSat (g : Group) : Group :=
  match g.recGrade with
  | .off => g
  | .mark =>
    if g.hist.touched.sat then g
    else (g.push (.flags g.sat 0#8 true false g.busy) g.cur).touch (fun t => { t with sat := true })
  | .step => g.push (.flags g.sat 0#8 true false g.busy) g.cur

def Group.recArm (g : Group) : Group :=
  match g.recGrade with
  | .off => g
  | .mark =>
    if g.hist.touched.arm then g
    else (g.push (.flags 0#8 g.satarm false true g.busy) g.cur).touch (fun t => { t with arm := true })
  | .step => g.push (.flags 0#8 g.satarm false true g.busy) g.cur

/-- A recorded write of a lane register. -/
def Group.setV (g : Group) (l : Loc) (m : Mask) (x : Nat → Word) (exact_ : Bool) : Group :=
  (g.recV l m exact_).wrV l m x

/-- A recorded write of two lane registers, both recorded first, the lower one first (R97). -/
def Group.setV2 (g : Group) (l1 l2 : Loc) (m : Mask) (x1 x2 : Nat → Word) (exact_ : Bool) : Group :=
  (((g.recV l1 m exact_).recV l2 m exact_).wrV l1 m x1).wrV l2 m x2

/-- A recorded write of a uniform register, made once when Exec is not empty (R96). -/
def Group.setK (g : Group) (m : Mask) (n : Nat) (x : DWord) (exact_ : Bool) : Group :=
  if m = 0#32 then g else (g.recK n exact_).wrK n x

/-- A recorded write of the uniform registers n and n + 1. -/
def Group.setK2 (g : Group) (m : Mask) (n : Nat) (x y : DWord) : Group :=
  if m = 0#32 then g else (((g.recK n false).recK (n + 1) false).wrK n x).wrK (n + 1) y

/-- A recorded write of a predicate in the lanes of m. -/
def Group.setP (g : Group) (m : Mask) (n : Nat) (bits : Mask) (exact_ : Bool) : Group :=
  (g.recP n m exact_).wrP n m bits

/-! Split state. -/

/-- The budget before the grants that no split has gone on with yet. -/
def Group.baseRegs (g : Group) : Nat := if g.grants.isEmpty then g.regs else g.growOld

/-- The largest budget of a base and the grants given. -/
def largest (base : Nat) (gs : Tbl Nat) : Nat := gs.foldl (fun n x => max n x.2) base

/-- The group with the budget `base` and the grants given: %regs is the largest of them. -/
def Group.withGrants (g : Group) (base : Nat) (gs : Tbl Nat) : Group :=
  { g with regs := largest base gs, grants := gs, growOld := base, relied := if gs.isEmpty then 0 else g.relied }

/-- The split state. A budget granted to a GROW that has not gone on yet is not the group's, but where another's GROW has relied on
it (R72, R75). -/
def Group.snapshot (g : Group) : Snapshot :=
  { splits := g.splits, parked := g.parked, regs := if g.grants.isEmpty then g.regs else max g.growOld g.relied }

/-- The budgets granted to the splits named are given back: their GROW or CALLI has not gone on (R128). None is that another split's
GROW has relied on: a budget never shrinks (R72; DEDUCED, log 54). -/
def Group.revokeGrow (g : Group) (of : Nat → Bool) : Group :=
  let rest := g.grants.filter (fun x => !of x.1)
  if g.grants.isEmpty || decide (largest g.growOld rest < g.relied) then g else g.withGrants g.growOld rest

/-- A group's own splits and parked paths, whether or not a handler keeps them aside (R385). -/
def Group.baseSplits (g : Group) : Tbl Split := (g.frames.getLast?).elim g.splits (·.aside)
def Group.baseParked (g : Group) : List Path := (g.frames.getLast?).elim g.parked (·.parkedAside)

/-- The split state outside every handler. -/
def Group.baseSnapshot (g : Group) : Snapshot := { g.snapshot with splits := g.baseSplits, parked := g.baseParked }

/-- Changes every split, those kept aside by a handler among them (R385). -/
def Group.mapSplits (g : Group) (f : Nat → Split → Split) : Group :=
  { g with
    splits := g.splits.map (fun x => (x.1, f x.1 x.2))
    frames := g.frames.map (fun fr => { fr with aside := fr.aside.map (fun x => (x.1, f x.1 x.2)) }) }

/-- The splits that wait for one thing become ready. -/
def Group.wake (g : Group) (w : Wait) : Group := g.mapSplits (fun _ sp => if sp.wait = w then { sp with wait := .ready } else sp)

def Group.setSplit (g : Group) (n : Nat) (sp : Split) : Group := { g with splits := g.splits.put n sp }

/-! The device: cores, contexts, groups. -/

def State.core (s : State) (c : Nat) : Core := (s.cores.get c).getD Core.empty
def State.setCore (s : State) (c : Nat) (x : Core) : State := { s with cores := s.cores.put c x }
def State.setGroup (s : State) (i : Nat) (g : Group) : State := { s with groups := s.groups.put i g }
def State.updGroup (s : State) (i : Nat) (f : Group → Group) : State := { s with groups := s.groups.upd i f }
def State.updCtx (s : State) (i : Nat) (f : Ctx → Ctx) : State := { s with ctxs := s.ctxs.upd i f }
def State.updTeam (s : State) (i : Nat) (f : Team → Team) : State := { s with teams := s.teams.upd i f }
def State.updGrid (s : State) (i : Nat) (f : Grid → Grid) : State := { s with grids := s.grids.upd i f }

/-- The next unused key of the model, and the state with it used. -/
def State.newId (s : State) : Nat × State := (s.nextId, { s with nextId := s.nextId + 1 })

/-- Adds an engine's step to the end of the work in hand. -/
def State.post (s : State) (i : Instr) : State := { s with engine := s.engine ++ [i] }

/-- Adds a step of the field records' counter (R423), saturating. -/
def bump (t : Tbl Nat) (k : Nat) : Tbl Nat :=
  t.put k (min (2 ^ 32 - 1) ((t.get k).getD 0 + 1))

/-! Pages and code fetch (R36, R183). -/

def pageBytes : PageSize → Nat
  | .k4 => 2 ^ 12
  | .k64 => 2 ^ 16
  | .m2 => 2 ^ 21
  | .g1 => 2 ^ 30

/-- Whether a page names addresses that there are: physical addresses have 52 bits (R4). -/
def Page.sound (p : Page) : Bool :=
  match p.target with
  | .global pa => decide (pa + pageBytes p.size ≤ 2 ^ 52)
  | _ => true

/-- The page that holds a virtual address. -/
def Ctx.page (c : Ctx) (va : Nat) : Option Page :=
  c.pages.find? (fun p => decide (p.va ≤ va) && decide (va < p.va + pageBytes p.size))

/-- Whether an address lies in the context's spillways: one for each group slot of its cores. Berm maps their pages with system
access only, and they stay resident (R236; log 41). -/
def Ctx.inSpill (c : Ctx) (va : Nat) : Bool :=
  decide (c.nextBase ≤ va) && decide (va < c.nextBase + c.spill * (32 * c.cores.length))

/-- The page of the spillways that holds an address (R236). -/
def Ctx.spillPage (c : Ctx) (va : Nat) : Page :=
  let at_ := (va - c.nextBase) / 2 ^ 12 * 2 ^ 12
  { va := c.nextBase + at_, size := .k4, target := .global (c.spillAt + at_), user := false, writable := true, movedFrom := none }

/-- The page that holds a virtual address, those of the spillways among them. -/
def Ctx.pageAt (c : Ctx) (va : Nat) : Option Page := if c.inSpill va then some (c.spillPage va) else c.page va

/-- The byte's place under a page; `none` where Berm maps nothing. -/
def pagePlace (p : Page) (va : Nat) : Option Place :=
  match p.target with
  | .global pa => some (.glob (pa + (va - p.va)))
  | .tile i => some (.pol (i + (va - p.va)))
  | .refused => none

/-- A code parcel, little-endian; `none` when no page of the context holds it. -/
def State.parcel (s : State) (ctx : Nat) (a : CAddr) : Option Word := do
  let c ← s.ctxs.get ctx
  let p ← c.pageAt a.toNat
  match pagePlace p a.toNat with
  | some (.glob pa) => some (w32 (s.mem.readN pa 4))
  | some (.pol i) => some (w32 (s.polder.readN i 4))
  | _ => none

/-- The parcel for a record: zero where it cannot be read. -/
def State.rawParcel (s : State) (ctx : Nat) (a : CAddr) : Word := (s.parcel ctx a).getD 0#32

/-- The CXL port that serves a physical address under the decoders (R427). -/
def State.cxlPort (s : State) (pa : Nat) : Option Nat :=
  (s.decoders.find? (fun d => decide (d.base ≤ pa) && decide (pa < d.base + d.len))).map (fun d =>
    d.ports.getD ((pa - d.base) / d.gran % d.ports.length) 64)

/-- Whether the link of the port that serves an address has failed (R427). -/
def State.portDown (s : State) (pa : Nat) : Bool := (s.cxlPort pa).any (fun p => s.failed.contains p)

/-- Whether a byte lies in the `len` bytes from b. -/
def Place.within (p b : Place) (len : Nat) : Bool :=
  match p, b with
  | .glob a, .glob x => decide (x ≤ a) && decide (a < x + len)
  | .pol a, .pol x => decide (x ≤ a) && decide (a < x + len)
  | .cs t a, .cs u x => t == u && decide (x ≤ a) && decide (a < x + len)
  | .scr t a, .scr u x => t == u && decide (x ≤ a) && decide (a < x + len)
  | _, _ => false

/-- The bytes that a range names: a global range follows the context's pages. -/
def State.segs (s : State) (ctx : Nat) (r : PlaceRange) : List (Place × Nat) :=
  match r.base with
  | .va a => ((s.ctxs.get ctx).elim [] (·.pages)).filterMap (fun p =>
      let lo := max a p.va
      let hi := min (a + r.len) (p.va + pageBytes p.size)
      if lo < hi then (pagePlace p lo).map (fun x => (x, hi - lo)) else none)
  | .tile t off => [(.pol (t * 2 ^ 18 + off), r.len)]
  | .cs t off => [(.cs t off, r.len)]

/-- Whether a range holds the byte. -/
def State.inRange (s : State) (ctx : Nat) (r : PlaceRange) (p : Place) : Bool :=
  (s.segs ctx r).any (fun x => p.within x.1 x.2)

/-- Whether a copy's range lock covers the byte (R324). -/
def State.locked (s : State) (p : Place) : Bool :=
  s.copies.any (fun c => c.2.locks.any (fun r => s.inRange c.2.ctx r p))

/-- Whether the byte lies behind a CXL port whose link has failed (R427). -/
def State.cxlFailed (s : State) (p : Place) : Bool :=
  match p with
  | .glob a => s.portDown a
  | _ => false

/-- The key of Berm's own context, which no number of R344 is (DESIGN CHOICE, log 16). -/
def bermKey : Nat := 65536

/-- The page under which a context's code is fetched. Groups of Berm's own context are no users. -/
def State.codePage (s : State) (ctx : Nat) (a : CAddr) : Except Cause Page :=
  match (s.ctxs.get ctx).bind (fun c => c.pageAt a.toNat) with
  | none => .error 0x0302#16
  | some p => if p.target == .refused || (!p.user && ctx != bermKey) then .error 0x0303#16 else .ok p

/-- A parcel as a fetch reads it, or what stops the fetch: no page, a page that refuses the user (R183; DEDUCED, log 8), a port
whose link has failed (R427). -/
def State.fetchAt (s : State) (ctx : Nat) (a : CAddr) : Except Cause Word :=
  match s.codePage ctx a with
  | .error c => .error c
  | .ok p => match pagePlace p a.toNat with
    | some (.glob pa) => if s.portDown pa then .error 0x0307#16 else .ok (s.rawParcel ctx a)
    | _ => .ok (s.rawParcel ctx a)

/-- Whether an address is the address of a clause header (R38), or what stops its fetch. -/
def State.isHeader (s : State) (ctx : Nat) (a : CAddr) : Run Bool :=
  if a.toNat % 4 ≠ 0 then .ok false
  else match s.fetchAt ctx a with
    | .ok p => .ok (p.extractLsb' 0 2 == 3#2)
    | .error c => raiseA c (a.setWidth 64)

/-! Fault records (R384). -/

/-- The locator of a group (R399). -/
def Group.locator (g : Group) : DWord := w64 (g.core + 256 * g.slot + 65536 * g.ctx)

/-- Where record n of a context lies in the ring of its fault queue (R384). -/
def Ctx.ringAt (c : Ctx) (n : Nat) : Nat := c.faultRing + 64 * (n % c.faultCap)

/-- What is appended in a record's place: where the ring in Berm's memory cannot be written, a double fault against the context,
which no replay serves (R382; DEDUCED, log 50). -/
def State.ringed (s : State) (c : Ctx) (r : FaultRec) : FaultRec :=
  if c.faultCap ≠ 0 ∧ s.portDown (c.ringAt c.faultTail) then
    { r with cause := 0x0906#16, precise := false, slot := c.faultTail }
  else { r with slot := c.faultTail }

/-- The 64 bytes of a slot of the ring. -/
def ringBytes (a : Nat) : List Place := (List.range 64).map (fun i => .glob (a + i))

/-- Whether the ring can take another record: its next slot holds none that is still to be resolved (R384), and no range lock covers
it (R208; DESIGN CHOICE, log 51). -/
def State.ringOpen (s : State) (c : Ctx) : Bool :=
  decide (c.faults.length < c.faultCap) && !c.faults.any (fun f => f.2.slot % c.faultCap == c.faultTail % c.faultCap) &&
    !(ringBytes (c.ringAt c.faultTail)).any s.locked

/-- The kinds' codes in w7 and in fault records (R385). -/
def HandlerKind.code : HandlerKind → Nat
  | .emulation => 0
  | .surrender => 1
  | .saturation => 2
  | .historyFull => 3
  | .stackLimit => 4

/-- The 64 bytes of a record as one little-endian number (R384). -/
def FaultRec.num (r : FaultRec) : Nat :=
  r.cause.toNat +
  2 ^ 16 * (r.depth % 4 + 4 * (r.split % 4) + (if r.precise then 16 else 0) + (if r.dir then 32 else 0) +
    64 * (r.kind.elim 0 HandlerKind.code)) +
  2 ^ 32 * r.lanes.toNat + 2 ^ 64 * r.addr.toNat + 2 ^ 128 * r.ic.toNat + 2 ^ 192 * r.locator.toNat +
  2 ^ 256 * (r.gridNo % 2 ^ 32) + 2 ^ 288 * (r.teamNo % 2 ^ 32) + 2 ^ 320 * r.detA.toNat + 2 ^ 384 * r.detB.toNat +
  2 ^ 448 * r.reply.toNat

/-- A record enters the queue (R384). -/
def Ctx.pushFault (c : Ctx) (id : Nat) (r : FaultRec) : Ctx :=
  { c with faults := c.faults.put id r, faultLog := c.faultLog ++ [r], faultTail := c.faultTail + 1 }

/-- Memory with a record at the end of the ring of its fault queue, where the ring can be written (R382, R384). -/
def State.ringMem (s : State) (c : Ctx) (r : FaultRec) : Cells 8 :=
  if s.portDown (c.ringAt c.faultTail) then s.mem else s.mem.writeN (c.ringAt c.faultTail) 64 (FaultRec.num r)

/-- Appends a record to the context's fault queue. A full queue holds it (R384). Answers the record's key. -/
def State.appendFault (s : State) (ctx : Nat) (r : FaultRec) : Nat × State :=
  let (id, s) := s.newId
  let mem := (s.ctxs.get ctx).elim s.mem (fun c => if s.ringOpen c then s.ringMem c r else s.mem)
  (id, { s with mem := mem }.updCtx ctx (fun c =>
    if s.ringOpen c then c.pushFault id (s.ringed c r)
    else { c with faultHold := c.faultHold.put id r }))

/-- The oldest records that a full or barred ring holds back enter it, as far as it takes them (R384). -/
def State.refillRun (s : State) (ctx : Nat) : List (Nat × FaultRec) → State
  | [] => s
  | (id, r) :: t =>
    match s.ctxs.get ctx with
    | none => s
    | some c =>
      if s.ringOpen c then
        ({ s with mem := s.ringMem c r }.updCtx ctx (fun c => { c.pushFault id (s.ringed c r) with faultHold := t })).refillRun ctx t
      else s

def State.refillFaults (s : State) (ctx : Nat) : State :=
  s.refillRun ctx ((s.ctxs.get ctx).elim [] (·.faultHold))

/-- A fault against a context, with no group behind it (R329, R345, R359). -/
def State.ctxFault (s : State) (ctx gridNo teamNo : Nat) (cause : Cause) (a b : DWord) (saved : List DWord) : State :=
  (s.appendFault ctx
    { cause := cause, depth := 0, split := 0, precise := false, dir := false, kind := none, lanes := 0#32, addr := 0#57,
      ic := 0#48, locator := w64 (65536 * ctx), gridNo := gridNo, teamNo := teamNo, detA := a, detB := b, reply := 0#64,
      gid := 0, parcels := 0, replyTo := none, was := .ready, slot := 0, saved := saved }).2

/-- An engine's access behind a failed port raises 0x0307 against its context, and waits until Berm has remapped the range: the
record, unless one for the address is still to be resolved (R427; DESIGN CHOICE, log 51). -/
def State.portFault (s : State) (ctx gridNo : Nat) (ps : List Place) (a : DWord) : Option State :=
  let told (f : Nat × FaultRec) : Bool := f.2.cause == 0x0307#16 && f.2.gid == 0 && f.2.detA == a
  if ps.any s.cxlFailed && (s.ctxs.get ctx).any (fun c => !(c.faults ++ c.faultHold).any told) then
    some (s.ctxFault ctx gridNo 0 0x0307#16 a 0#64 [])
  else none

/-- The record of a cause that a group raises. `a` is the instruction's or the header's address. -/
def State.faultRec (s : State) (gid : Nat) (g : Group) (sn : Nat) (cause : Cause) (precise : Bool) (lanes : Mask)
    (a : CAddr) (detA detB : DWord) (parcels : Nat) (replyTo : Option KReg) : FaultRec :=
  { cause := cause, depth := g.depth, split := sn, precise := precise, dir := g.dir, kind := g.topKind, lanes := lanes,
    addr := a, ic := g.ic, locator := g.locator, gridNo := g.gridNo, teamNo := g.teamNo, detA := detA,
    detB := detB ||| (s.rawParcel g.ctx a).setWidth 64, reply := 0#64, gid := gid, parcels := parcels, replyTo := replyTo,
    was := (g.splits.get sn).elim .ready (·.wait), slot := 0, saved := [] }

/-- A precise fault of split sn: the split parks with its record, the clause in flight kept for its replay; in handler
mode, and for 0x0204, the whole group stops (R384). -/
def State.toBerm (s : State) (gid : Nat) (g : Group) (sn : Nat) (cause : Cause) (lanes : Mask) (a : CAddr)
    (detA detB : DWord) (parcels : Nat) (replyTo : Option KReg) : State :=
  let (id, s) := s.appendFault g.ctx (s.faultRec gid g sn cause true lanes a detA detB parcels replyTo)
  let g := { g with
    splits := g.splits.upd sn (fun sp =>
      { sp with wait := .parked id, mid := if g.cur = sn ∧ g.clause.isSome then g.clause else sp.mid })
    clause := if g.cur = sn then none else g.clause
    stopped := g.stopped || g.inHandler || cause == 0x0204#16 }
  s.setGroup gid g

/-- An imprecise fault against a group (R384), with what its cause saves. -/
def State.impreciseWith (s : State) (gid : Nat) (g : Group) (cause : Cause) (lanes : Mask) (detA : DWord)
    (saved : List DWord) : State :=
  let a := (g.splits.get g.cur).elim 0#57 (·.pc)
  (s.appendFault g.ctx { s.faultRec gid g g.cur cause false lanes a detA 0#64 0 none with saved := saved }).2

def State.imprecise (s : State) (gid : Nat) (g : Group) (cause : Cause) (lanes : Mask) (detA : DWord) : State :=
  s.impreciseWith gid g cause lanes detA []

/-! Commit of a group's own part (R251, R404). The waits, the drains and the pending drops are Commit.lean's. -/

/-- R251 steps 2 to 5 with %cmark := n: the stack empties, the snapshot falls due at the instruction's retirement. -/
def Group.commitAt (g : Group) (n : Count) : Group :=
  { g with
    hsp := g.hbase
    cmark := n
    frames := g.frames.map (fun f => { f with frameOpen := false, committed := true })
    hist := { g.hist with
      stack := [], winLo := g.hbase.toNat, bad := [], hold := none, spoilt := false, snapDue := true, committed := true, touched := Touched.none,
      switchCnt := 0 } }

/-- The commit that MTG makes for its target and the default action makes at a boundary: %cmark := %ic − 1 and the
snapshot taken at once; at %ic 0 only the stack is emptied (R237, R404). -/
def Group.commitBelow (g : Group) (snap : Snapshot) : Group :=
  let g' := g.commitAt (if g.ic = 0#48 then g.cmark else g.ic - 1#48)
  { g' with hist := { g'.hist with
      snap := snap, snapDue := false, committed := if g.ic = 0#48 then g.hist.committed else true } }

/-! Handler mode (R385 to R391). -/

/-- Whether the launch names a handler of the kind (R61, R237, R272, R177). -/
def Grid.handlerAt (g : Grid) : HandlerKind → DWord
  | .emulation => g.emuh
  | .surrender => g.surr
  | .saturation => g.aux.getD 0 0#64
  | .historyFull => g.aux.getD 1 0#64
  | .stackLimit => g.aux.getD 2 0#64

/-- What an entry carries besides the group: its kind, where it returns to and the window's contents (R385, R389). -/
structure Entry where
  kind    : HandlerKind
  pc      : CAddr
  /-- Address of the instruction or header that w4 names, and how many parcels the emulated instruction has. -/
  at_     : CAddr
  parcels : Nat
  whole   : Bool
  w       : List DWord
  exec_   : Mask
  lanes   : Mask
  budget  : Nat
  tile    : Nat
  deriving DecidableEq, Repr

/-- The window at entry: its lane registers keep what the last handler left (DEDUCED, log 47). The depth-2 handler sees the lane
registers of the depth-1 window (R388). -/
def Group.entryFrame (g : Group) (e : Entry) (opened : Bool) : HFrame :=
  let ws := (e.w ++ [0#64, 0#64, 0#64, 0#64]).take 4 ++
    [e.at_.setWidth 64, w64 (e.exec_.toNat + 2 ^ 32 * e.lanes.toNat), g.ic.setWidth 64,
     w64 (g.depth + 1 + 4 * g.cur + 16 * e.kind.code)]
  { kind := e.kind, entry := e.pc, split := g.cur, at_ := e.at_, parcels := e.parcels, whole := e.whole,
    aside := g.splits, parkedAside := g.parked, clauseAside := g.clause,
    winV := match g.frames with | f :: _ => f.winV | [] => g.winV,
    winW := Cells.setRun [] 0 (fun i => ws.getD i 0#64) 8,
    winP := Cells.set [] 0 e.exec_,
    lanes := e.lanes, used := 0, budget := e.budget, tile := e.tile, w4 := e.at_.setWidth 64, frameOpen := opened,
    committed := false, started := g.lastStart, row := g.inARow, yielded := g.yielded }

/-- The handler's one split: the lane set, %cfr = (0, 0) (R385). -/
def handlerSplit (e : Entry) : Split :=
  { pc := e.pc, mask := e.lanes, cfrPc := 0#57, cfrIc := 0#48, wait := .ready, mid := none }

/-- The open frame is pushed in STEP grade, but for a history-full handler (R249). -/
def Group.pushOpen (g : Group) (e : Entry) : Bool × Group :=
  if g.recGrade = .step ∧ e.kind ≠ .historyFull then
    (true, g.push (.emuframe e.at_ g.ic false (e.kind == .emulation) false (g.depth + 1)) g.cur)
  else (false, g)

/-- A push that had met a full history has been made: the return from the handler is no longer remembered (R238). -/
def Group.pushed (g : Group) (sn : Nat) (atBoundary : Bool) : Group :=
  { g with hist := { g.hist with fullRet := g.hist.fullRet.filter (fun (r : Nat × CAddr × Bool) =>
      r.1 != sn || r.2.2 != atBoundary) } }

/-- Entry to a handler of a group whose current split traps (R385). -/
def Group.enter (g : Group) (e : Entry) : Group :=
  let (opened, g1) := (if e.kind = .historyFull then g else g.pushed g.cur (e.parcels == 0)).pushOpen e
  { g1 with
    frames := g1.entryFrame e opened :: g1.frames
    splits := [(g1.cur, handlerSplit e)]
    parked := []
    clause := none }

/-- Leaves handler mode, the splits restored, the trapping split at `pc` with `mid` (R390): ready, since it was issuing, but for the
split under whose number a history-full handler came before a surrender entry, which waits on. The clauses of the handler are none
of the turns that R90 and R232 count. -/
def Group.leave (g : Group) (f : HFrame) (pc : CAddr) (mid : Option Clause) : Group :=
  { g with
    frames := g.frames.tail
    winV := if g.frames.length = 1 then f.winV else g.winV
    winW := if g.frames.length = 1 then f.winW else g.winW
    lastStart := f.started
    inARow := f.row
    yielded := f.yielded
    splits := f.aside.upd f.split (fun sp => { sp with
      pc := pc, wait := if f.kind = .historyFull then sp.wait else .ready, mid := mid })
    parked := f.parkedAside
    clause := none
    cur := f.split }

end Sys2Proof.Machine
end

