-- ==== Sys2Proof/Machine/Operands.lean ====
section
/-! DEFINITION. Machine/Operands.lean: the issuing instruction's surroundings and every operand form: direct, uniform and
indirect sources, pairs, literals, and the in-place test of R99 (02_encoding R46, 03_group_state R69, 04 R93, R96, R97). -/

namespace Sys2Proof.Machine

/-- The surroundings of an instruction at issue: the device, the group and its key, the issuing split with its number,
the clause in flight, Exec (R10), the instruction's length in parcels. -/
structure Iss where
  s   : State
  gid : Nat
  g   : Group
  sn  : Nat
  sp  : Split
  cl  : Clause
  ex  : Mask
  len : Nat
  deriving DecidableEq, Repr

/-- How an instruction's own part ends. -/
structure Fin where
  s     : State
  /-- Counts one for %ic when it retires outside handler mode (R220). -/
  count : Bool
  /-- Has committed, so that its own effects are recorded nowhere (R251). -/
  sealed : Bool
  /-- Has placed its split itself. -/
  jump  : Bool
  deriving DecidableEq, Repr

/-- The values of a source, by lane. -/
abbrev Vals := Nat → Word
abbrev Vals64 := Nat → DWord

def Iss.pc (c : Iss) : CAddr := c.sp.pc
/-- The address of the clause header or instruction after this instruction. -/
def Iss.nextPc (c : Iss) : CAddr := c.sp.pc + BitVec.ofNat 57 (4 * c.len)

/-- A lane register or the low half of a uniform register (R93). -/
def Group.src (g : Group) (x : Src) : Run Vals :=
  match x with
  | .v n => do
    let l ← g.loc n.toNat
    return g.rdV l
  | .k n => return fun _ => loW (g.rdK n.toNat)

def Group.asrc (g : Group) (x : ASrc) : Run Vals :=
  match x with
  | .v n => do
    let l ← g.loc n.toNat
    return g.rdV l
  | .k n => return fun _ => loW (g.rdK n.toNat)
  | .ind k off => do
    let l ← g.locInd k off
    return g.rdV l

/-- Where an A operand that AU may not name lies (R118, R168). -/
def Group.lloc (g : Group) (x : LSrc) : Run Loc :=
  match x with
  | .v n => g.loc n.toNat
  | .ind k off => g.locInd k off

/-- The pair value of two locations. -/
def Group.pairV (g : Group) (p : Loc × Loc) : Vals64 := fun l => joinW (g.rdV p.1 l) (g.rdV p.2 l)

/-- A pair, or the whole of a uniform register (R93). -/
def Group.src64 (g : Group) (x : Src) : Run Vals64 :=
  match x with
  | .v n => do
    let p ← g.locPair n.toNat
    return g.pairV p
  | .k n => return fun _ => g.rdK n.toNat

/-- The location after an indirect pair's lower register: the index must be even (R69). -/
def Group.locIndPair (g : Group) (k : KReg) (off : VReg) : Run (Loc × Loc) := do
  let a ← g.locInd k off
  if (g.rdK k.toNat + off.setWidth 64).toNat % 2 ≠ 0 then raise 0x0201#16
  else match a with
    | .own n => if n + 1 < g.regs then return (.own n, .own (n + 1)) else raise 0x0201#16
    | .saved n => return (.saved n, .saved (n + 1))
    | .win n => return (.win n, .win (n + 1))

def Group.asrc64 (g : Group) (x : ASrc) : Run Vals64 :=
  match x with
  | .v n => do
    let p ← g.locPair n.toNat
    return g.pairV p
  | .k n => return fun _ => g.rdK n.toNat
  | .ind k off => do
    let p ← g.locIndPair k off
    return g.pairV p

/-! In place (R99). -/

def inPlace2 (o : L2) : Bool := o.a == .v o.d && o.b != .v o.d
def inPlace1 (o : L1) : Bool := o.a == .v o.d
def inPlaceL (o : L2L) : Bool := o.a == .v o.d
def inPlaceK (o : K2) : Bool := o.a == o.d && o.b != o.d
def inPlaceKL (o : K2L) : Bool := o.a == o.d

/-! The operand shapes: a result per lane from the sources per lane, recorded and written in the lanes of Exec. Every
source is read before the destination is written (R12). -/

def Iss.lane1 (c : Iss) (o : L1) (f : Word → Word) (x : Bool) : Run Group := do
  let d ← c.g.loc o.d.toNat
  let a ← c.g.asrc o.a
  return c.g.setV d c.ex (fun l => f (a l)) x

def Iss.lane2 (c : Iss) (o : L2) (f : Word → Word → Word) (x : Bool) : Run Group := do
  let d ← c.g.loc o.d.toNat
  let a ← c.g.asrc o.a
  let b ← c.g.src o.b
  return c.g.setV d c.ex (fun l => f (a l) (b l)) x

def Iss.lane2l (c : Iss) (o : L2L) (f : Word → Word → Word) (x : Bool) : Run Group := do
  let d ← c.g.loc o.d.toNat
  let a ← c.g.asrc o.a
  return c.g.setV d c.ex (fun l => f (a l) o.lit) x

def Iss.lane3 (c : Iss) (o : L3) (f : Word → Word → Word → Word) : Run Group := do
  let d ← c.g.loc o.d.toNat
  let a ← c.g.src o.a
  let b ← c.g.src o.b
  let e ← c.g.loc o.c.toNat
  return c.g.setV d c.ex (fun l => f (a l) (b l) (c.g.rdV e l)) false

def Iss.lane3l (c : Iss) (o : L3L) (f : Word → Word → Word → Word) : Run Group := do
  let d ← c.g.loc o.d.toNat
  let a ← c.g.src o.a
  let e ← c.g.loc o.c.toNat
  return c.g.setV d c.ex (fun l => f (a l) o.lit (c.g.rdV e l)) false

/-- A pair form (R97). -/
def Iss.lane64 (c : Iss) (o : L2) (f : DWord → DWord → DWord) (x : Bool) : Run Group := do
  let d ← c.g.locPair o.d.toNat
  let a ← c.g.asrc64 o.a
  let b ← c.g.src64 o.b
  return c.g.setV2 d.1 d.2 c.ex (fun l => loW (f (a l) (b l))) (fun l => hiW (f (a l) (b l))) x

/-- The in-place short forms: D also a source (R106). -/
def Iss.short (c : Iss) (d a : VReg) (f : Word → Word → Word) : Run Group := do
  let ld ← c.g.loc d.toNat
  let la ← c.g.loc a.toNat
  return c.g.setV ld c.ex (fun l => f (c.g.rdV ld l) (c.g.rdV la l)) (d != a)

/-- A predicate result by lane (R96). -/
def Iss.pred (c : Iss) (d : PReg) (bits : Mask) (x : Bool) : Group := c.g.setP c.ex d.toNat bits x

/-- A uniform result, once for the group (R96). -/
def Iss.uni (c : Iss) (d : KReg) (v : DWord) (x : Bool) : Group := c.g.setK c.ex d.toNat v x

/-- The lanes of Exec in which a condition holds. -/
def Iss.where_ (c : Iss) (p : Nat → Bool) : Mask := maskOf p &&& c.ex

end Sys2Proof.Machine
end

