-- ==== Sys2Proof/Machine/Flags.lean ====
section
/-! DEFINITION. Machine/Flags.lean: the sticky saturation bits (R88, R98), the comparisons that set predicates (R116,
R117), and the completion flags (R42, R84). -/

namespace Sys2Proof.Machine

/-! %sat. -/

/-- The numbers of the saturation bits (R88). -/
def satInt8 : Nat := 0
def satInt32 : Nat := 1
def satF16 : Nat := 2
def satBf16 : Nat := 3
def satE4m3 : Nat := 4
def satE5m2 : Nat := 5
def satMxfp4 : Nat := 6
def satF32 : Nat := 7

/-- Sets bit i of %sat when `hit`, a FLAGS entry first when the bit was clear (R98). -/
def Group.satHit (g : Group) (i : Nat) (hit : Bool) : Group :=
  if hit && !g.sat.getLsbD i then { g.recSat with sat := g.sat ||| BitVec.twoPow 8 i } else g

/-- The limits of R98. -/
def satLimit (z : Bool) (w : Nat) (x : Int) : Int :=
  let lo : Int := if z then 0 else -(2 ^ (w - 1) : Int)
  let hi : Int := if z then 2 ^ w - 1 else 2 ^ (w - 1) - 1
  if x < lo then lo else if hi < x then hi else x

/-- An operand read as an integer: unsigned with .z (R101). -/
def intOf {w : Nat} (z : Bool) (x : BitVec w) : Int := if z then (x.toNat : Int) else x.toInt

/-- Whether some lane of Exec is limited. -/
def Iss.anyLane (c : Iss) (p : Nat → Bool) : Bool := (lanesOf c.ex).any p

/-- A result computed exactly, narrowed by wrapping or by the limit, with %sat[1] (R98, R101). -/
def Iss.satLane (c : Iss) (d : Loc) (z sat : Bool) (x : Nat → Int) (exact_ : Bool) : Group :=
  if sat then
    let hit := c.anyLane (fun l => satLimit z 32 (x l) != x l)
    (c.g.satHit satInt32 hit).setV d c.ex (fun l => BitVec.ofInt 32 (satLimit z 32 (x l))) false
  else c.g.setV d c.ex (fun l => BitVec.ofInt 32 (x l)) exact_

def Iss.satLane64 (c : Iss) (d : Loc × Loc) (z sat : Bool) (x : Nat → Int) (exact_ : Bool) : Group :=
  let w (l : Nat) : DWord := BitVec.ofInt 64 (if sat then satLimit z 64 (x l) else x l)
  let hit := sat && c.anyLane (fun l => satLimit z 64 (x l) != x l)
  (c.g.satHit satInt32 hit).setV2 d.1 d.2 c.ex (fun l => loW (w l)) (fun l => hiW (w l)) (exact_ && !sat)

/-! Comparisons. -/

/-- An integer comparison (R116, R117). -/
def ccHolds (cc : Cc) (a b : Int) : Bool :=
  match cc with
  | .eq => decide (a = b)
  | .ne => decide (a ≠ b)
  | .lt => decide (a < b)
  | .le => decide (a ≤ b)
  | .gt => decide (b < a)
  | .ge => decide (b ≤ a)

/-- The combination of a comparison with the combining predicate (R117). -/
def bopMask (b : Bop) (x y : Mask) : Mask :=
  match b with
  | .and => x &&& y
  | .or => x ||| y
  | .xor => x ^^^ y

/-- P(l, D) := comparison bop P(l, C) in Exec; class P (R117). -/
def Iss.setp (c : Iss) (d : PReg) (cmp : Mask) (bop : Bop) (pc : PReg) : Group :=
  c.pred d (bopMask bop cmp (c.g.rdP pc.toNat)) false

/-! Completion flags (R42, R84). -/

/-- The flags that SFA and SFB name under the clause's header. Where both name one flag, its count rises and falls by two (R42 does
not say; DESIGN CHOICE, log 52). -/
def Iss.flagsOf (c : Iss) (fl : SFlags) : List Nat :=
  (if fl.fa then c.cl.fa.toList else []) ++ (if fl.fb then c.cl.fb.toList else [])

/-- Raises the flags. A count at 63 makes the instruction wait (R84). -/
def Group.raiseFlags (g : Group) (fl : List Nat) : Run Group :=
  fl.foldlM (fun g i =>
    if (g.flags.get i).toNat < 63 then .ok { g with flags := g.flags.set i (g.flags.get i + 1#8) } else .error .stall) g

def Group.lowerFlags (g : Group) (fl : List Nat) : Group :=
  { g with flags := fl.foldl (fun t i => t.set i (t.get i - 1#8)) g.flags }

/-- Whether every flag of a WAIT mask is clear (R25, R85). -/
def Group.flagsClear (g : Group) (mask : BitVec 12) : Bool :=
  (List.range 12).all (fun i => !mask.getLsbD i || g.flags.get i == 0#8)

end Sys2Proof.Machine
end

