-- ==== Sys2Proof/Machine/Memory.lean ====
section
/-! DEFINITION. Machine/Memory.lean: the memory port: address spaces and translation with their faults in order
(06_memory_port R175 to R185, R190, R200), the points where loads and stores are performed (R181), L1 copies and their
invalidation (07_memory_order R201 to R204), the write-combining buffer (R206, R207). -/

namespace Sys2Proof.Machine

/-! Places. -/

def Place.add (p : Place) (n : Nat) : Place :=
  match p with
  | .glob a => .glob (a + n)
  | .pol a => .pol (a + n)
  | .cs t a => .cs t (a + n)
  | .scr g a => .scr g (a + n)

/-- The physical address of a global byte. -/
def Place.addr (p : Place) : Nat :=
  match p with
  | .glob a => a
  | _ => 0

/-- Whether two bytes lie in one ECC word (R185). -/
def Place.sameWord (p q : Place) : Bool :=
  match p, q with
  | .glob a, .glob b => a / Config.eccBytes == b / Config.eccBytes
  | .pol a, .pol b => a / Config.eccBytes == b / Config.eccBytes
  | .cs t a, .cs u b => t == u && a / Config.eccBytes == b / Config.eccBytes
  | _, _ => false

/-- Whether the byte's word is uncorrectable. -/
def State.bad (s : State) (p : Place) : Bool := s.poison.any (fun q => p.sameWord q)

/-- The tile of a polder byte (R306). -/
def tileOf (i : Nat) : Nat := i / 2 ^ 18

/-- Whether a team may access a tile (R184, R306). -/
def State.tileOpen (s : State) (team tile : Nat) : Bool :=
  match s.tiles.get tile with
  | some t => match t.state with
    | .free => false
    | .open_ => true
    | .held => t.team == team
    | .negotiated => t.team == team
  | none => false

/-- The writer of what the device's engines and Berm write: no core's L1 is its own. -/
def noCore : Nat := 1024

/-- Whether a core is one of the eight system cores, 256 to 263 (R20). -/
def isSystemCore (core : Nat) : Bool := decide (256 ≤ core)

def lineOf (pa : Nat) : Nat := pa / 128

/-- Whether a seal covers the byte (R184, R332). -/
def State.sealedAt (s : State) (p : Place) : Bool :=
  s.seals.any (fun x => p.within (.pol (x.2.tile * 2 ^ 18 + x.2.off)) x.2.len)

/-- Whether an engine may write the bytes: no range lock and no seal covers them, and none lies behind a failed port (R208, R209,
R427; DESIGN CHOICE, log 51: it waits, since no group is there to be parked). -/
def State.unbarred (s : State) (ps : List Place) : Bool := !ps.any (fun p => s.locked p || s.sealedAt p || s.cxlFailed p)

/-! Translation (R176, R183). -/

/-- What an access does to its bytes; `cached` is a load that an L1 copy serves where there is one (R181). -/
inductive Kind where | load | cached | store | atomic
  deriving DecidableEq, Repr

def Kind.writes : Kind → Bool
  | .load => false
  | .cached => false
  | _ => true

/-- A canonical address (R176). -/
def canonical (a : DWord) : Bool := a.extractLsb' 57 7 == (if a.getLsbD 56 then 0x7F#7 else 0#7)

/-- One byte's place by translation of a global or polder address, or the cause that stops it. -/
def State.translate (s : State) (ctx : Nat) (user write polder : Bool) (va : Nat) : Except Cause Place :=
  match (s.ctxs.get ctx).bind (fun c => c.pageAt va) with
  | none => .error 0x0302#16
  | some p =>
    if (write && !p.writable) || (user && !p.user) then .error 0x0303#16
    else match p.target with
      | .refused => .error 0x0303#16
      | .global pa => if polder then .error 0x030B#16 else .ok (.glob (pa + (va - p.va)))
      | .tile i => if polder then .ok (.pol (i + (va - p.va))) else .error 0x030B#16

/-- The causes of a translated byte: tile, range lock, seal (R184). -/
def State.placeCauses (s : State) (team : Nat) (k : Kind) (p : Place) : List Cause :=
  let tileOk : Bool := match p with
    | .pol i => s.tileOpen team (tileOf i)
    | _ => true
  (if tileOk then [] else [0x030C#16]) ++ (if s.locked p then [0x0305#16] else []) ++
    (if k.writes && s.sealedAt p then [0x0308#16] else [])

/-- The order in which an entry reports its causes (R188 LD, R191). -/
def causeOrder : List Cause :=
  [0x0304#16, 0x0306#16, 0x0301#16, 0x0303#16, 0x030B#16, 0x0302#16, 0x030C#16, 0x0305#16, 0x0308#16, 0x0307#16]

/-- The order of R200's table, for an instruction whose entry gives none: ENQ, DEQ and EVWAIT.cnt. -/
def tableOrder : List Cause :=
  [0x0301#16, 0x0302#16, 0x0303#16, 0x0304#16, 0x0305#16, 0x0306#16, 0x0307#16, 0x0308#16, 0x030A#16, 0x030B#16, 0x030C#16]

def firstIn (order cs : List Cause) : Option Cause := order.find? (fun c => cs.contains c)

def firstCause (cs : List Cause) : Option Cause := firstIn causeOrder cs

/-- A translated byte's first cause in the order of an entry, or its place. -/
def State.checkPlace (s : State) (team : Nat) (k : Kind) (p : Place) : Except Cause Place :=
  match firstCause (s.placeCauses team k p) with
  | some c => .error c
  | none => .ok p

/-- The causes and places of bytes, put together: the first cause in the entry's order, or every place. -/
def gather (l : List (Except Cause Place)) : Except Cause (List Place) :=
  match firstCause (l.filterMap (fun e => match e with | .error c => some c | .ok _ => none)) with
  | some c => .error c
  | none => .ok (l.filterMap (fun e => match e with | .error _ => none | .ok p => some p))

/-- The global bytes of an ECC word. -/
def wordBytes (pa : Nat) : List Nat := (List.range Config.eccBytes).map (fun i => pa / Config.eccBytes * Config.eccBytes + i)

/-- The buffered byte at an address (R206). -/
def State.wbyte (s : State) (core pa : Nat) : Option WByte :=
  (((s.core core).wcb.find? (fun w => w.line == lineOf pa))).bind (fun w => w.bytes.get pa)

/-- Whether a core's buffer holds every byte of the word, so that its drain writes the word whole (R185, R206). -/
def State.wordHeld (s : State) (core pa : Nat) : Bool := (wordBytes pa).all (fun a => (s.wbyte core a).isSome)

/-- Whether a core's L1 holds the byte's line: a private line, or a copy. -/
def State.inL1 (s : State) (core : Nat) (priv : Bool) (pa : Nat) : Bool :=
  (s.core core).l1.any (fun x => x.line == lineOf pa && x.priv == priv)

/-- Whether an access reads no byte of its home's word: a load of a byte that the group's own store left in the buffer or that an
L1 copy serves, an access to a private line that the L1 holds, one that drains the whole word first (R181, R185, R206). -/
def State.spared (s : State) (core gid : Nat) (sp : Space) (k : Kind) (p : Place) : Bool :=
  match p with
  | .glob pa =>
    if sp = .priv then ((s.core core).dirty.get pa).isSome || s.inL1 core true pa
    else match k, s.wbyte core pa with
      | .load, some w => w.last == gid || (w.writers.contains gid && s.wordHeld core pa)
      | .load, none => false
      | .cached, some w => w.last == gid || s.inL1 core false pa || (w.writers.contains gid && s.wordHeld core pa)
      | .cached, none => s.inL1 core false pa
      | _, _ => s.wordHeld core pa
  | _ => false

/-- R185: loads, atomics and partial stores consume an uncorrectable word. Each lane's access is judged alone, so that lanes of
one store which cover a word only together are partial stores of it (DESIGN CHOICE, log 53). -/
def State.consumes (s : State) (core gid : Nat) (sp : Space) (k : Kind) (ps : List Place) : Bool :=
  ps.any (fun p => (s.cxlFailed p || (s.bad p &&
    match k with
    | .store => decide ((ps.filter (fun q => p.sameWord q)).length < Config.eccBytes)
    | _ => true)) && !s.spared core gid sp k p)

/-- The places of one lane's access, or the cause that its address meets (R175 to R177, R183, R190). -/
def State.lanePlaces (s : State) (g : Group) (sp : Space) (k : Kind) (lane : Nat) (a : DWord) (n : Nat) :
    Except Cause (List Place) :=
  let user := g.mode == .user
  let bytes := List.range n
  match sp with
  | .priv =>
    if g.privlim * 4 < a.toNat + n then .error 0x0304#16
    else if a.toNat % n ≠ 0 then .error 0x0301#16
    else gather (bytes.map (fun i =>
      let o := a.toNat + i
      s.translate g.ctx user k.writes false (g.privbase.toNat + (o / 4 * 32 + lane) * 4 + o % 4)))
  | .cs =>
    if g.inHandler && decide (2 ^ 32 - 256 ≤ a.toNat) && decide (a.toNat + n ≤ 2 ^ 32) then
      if a.toNat % n ≠ 0 then .error 0x0301#16
      else .ok (bytes.map (fun i => .scr 0 (a.toNat - (2 ^ 32 - 256) + i)))
    else if ((s.teams.get g.team).elim 0 (·.csSize)) < a.toNat + n then .error 0x0306#16
    else if a.toNat % n ≠ 0 then .error 0x0301#16
    else .ok (bytes.map (fun i => .cs g.team (a.toNat + i)))
  | _ =>
    if a.toNat % n ≠ 0 then .error 0x0301#16
    else if !canonical a then .error 0x0303#16
    else gather (bytes.map (fun i =>
      s.translate g.ctx user k.writes (sp == .polder) ((a.setWidth 57).toNat + i)))

/-- The checks of one lane's access but for uncorrectable words: its places, or its first cause in the order of LD's entry. -/
def State.laneCheck (s : State) (g : Group) (sp : Space) (k : Kind) (lane : Nat) (a : DWord) (n : Nat) :
    Except Cause (List Place) :=
  (s.lanePlaces g sp k lane a n).bind (fun ps => match firstCause (ps.flatMap (s.placeCauses g.team k)) with
    | some c => .error c
    | none => .ok ps)

/-- One lane's access: its places, or its first cause in the order given, that of an uncorrectable word among them (R185). -/
def State.laneAccessIn (s : State) (order : List Cause) (gid : Nat) (g : Group) (sp : Space) (k : Kind) (lane : Nat) (a : DWord)
    (n : Nat) : Except Cause (List Place) :=
  (s.lanePlaces g sp k lane a n).bind (fun ps =>
    match firstIn order (ps.flatMap (s.placeCauses g.team k) ++ (if s.consumes g.core gid sp k ps then [0x0307#16] else [])) with
    | some c => .error c
    | none => .ok ps)

/-- One lane's access in the order of LD's entry, uncorrectable words last. -/
def State.laneAccess (s : State) (gid : Nat) (g : Group) (sp : Space) (k : Kind) (lane : Nat) (a : DWord) (n : Nat) :
    Except Cause (List Place) := s.laneAccessIn causeOrder gid g sp k lane a n

/-- A lane's resolved access. -/
structure Acc where
  lane   : Nat
  addr   : DWord
  places : List Place
  deriving DecidableEq, Repr

/-- The scratch of the issuing group stands in for the placeholder of `laneAccess` (R392). -/
def ownPlace (gid : Nat) (p : Place) : Place :=
  match p with
  | .scr _ o => .scr gid o
  | q => q

/-- Whether the group's launch names a handler of the kind and the group may enter it (R385). -/
def State.handlerFor (s : State) (g : Group) (k : HandlerKind) : Option CAddr :=
  if g.mode = .monitor then none
  else match s.grids.get g.grid with
    | some gr => if toCAddr (gr.handlerAt k) = 0#57 then none else some (toCAddr (gr.handlerAt k))
    | none => none

/-- Every lane's access, or the fault: the first cause in the order given, for the lowest lane that raised it (R200). -/
def Iss.accessIn (c : Iss) (order : List Cause) (sp : Space) (k : Kind) (lanes : Mask) (addr : Nat → DWord) (n : Nat) :
    Run (List Acc) :=
  let rs := (lanesOf lanes).map (fun l => (l, c.s.laneAccessIn order c.gid c.g sp k l (addr l) n))
  let causes := rs.filterMap (fun r => match r.2 with | .error e => some e | .ok _ => none)
  match firstIn order causes with
  | some e =>
    let m := maskOf (fun l => rs.any (fun r => r.1 == l && (match r.2 with | .error e' => e' == e | .ok _ => false)))
    let a := addr (lowLane m)
    if e = 0x0304#16 ∧ !c.g.inHandler ∧ (c.s.handlerFor c.g .stackLimit).isSome then .error (.handler .stackLimit e a)
    else raiseL e m a
  | none => .ok (rs.filterMap (fun r => match r.2 with
      | .ok ps => some ⟨r.1, addr r.1, ps.map (ownPlace c.gid)⟩
      | .error _ => none))

/-- The accesses of an instruction in the order of LD's entry (R188). -/
def Iss.access (c : Iss) (sp : Space) (k : Kind) (lanes : Mask) (addr : Nat → DWord) (n : Nat) : Run (List Acc) :=
  c.accessIn causeOrder sp k lanes addr n

/-! Homes and the polder cache (R179). -/

/-- The die and the slice of a physical address (R179): the slice stands under the mesh position. -/
def homeDie (pa : Nat) : Nat := pa / 2 ^ 9 % 4 ^^^ pa / 2 ^ 19 % 4
def homeSlice (pa : Nat) : Nat := pa / 2 ^ 11 % 64

/-- The sets of a slice's polder cache: what R178 leaves of 8 MiB, in 16 ways of 128 bytes. -/
def State.pcacheSets (s : State) (die : Nat) : Nat := 512 * (8 - s.mgmt.split.getD die 0)

/-- Whether two lines contend for one set of one slice. The index is the line's number within the slice (DESIGN CHOICE,
log 17). -/
def State.sameSet (s : State) (l m : Nat) : Bool :=
  let die := homeDie (128 * l)
  let at_ (x : Nat) : Nat := (4 * (x / 1024) + x % 4) % s.pcacheSets die
  homeDie (128 * m) == die && homeSlice (128 * m) == homeSlice (128 * l) && at_ m == at_ l

/-- One of the keys of a full set, and the state with the choice made. -/
def State.pickVictim (s : State) (keys : List Nat) : Nat × State :=
  (keys.getD (Config.victim s.fresh % keys.length) 0, { s with fresh := s.fresh + 1 })

/-- A line takes its place in the polder cache; the line that a full set gives up is written back (R179). -/
def State.cacheLine (s : State) (line : Nat) : State :=
  if (s.pcache.get line).isSome then s
  else
    let set := (s.pcache.map (·.1)).filter (s.sameSet line)
    let s := if set.length < 16 then s
      else
        let (v, s) := s.pickVictim set
        { s with pcache := s.pcache.del v }
    { s with pcache := s.pcache.put line [] }

/-- What CXL memory holds, behind the polder cache (R179). -/
def State.cxlByte (s : State) (pa : Nat) : Byte :=
  ((s.pcache.get (lineOf pa)).bind (fun old => old.get pa)).getD (s.mem.get pa)

/-- The polder caches write back the lines chosen (R179). -/
def State.writeLines (s : State) (which : Nat → Bool) : State :=
  { s with pcache := s.pcache.map (fun x => if which x.1 then (x.1, []) else x) }

/-- The polder caches write back everything they hold (R179, R212). -/
def State.writeHome (s : State) : State := { s with pcache := s.pcache.map (fun x => (x.1, [])) }

/-! L1 copies and invalidation (R201 to R204). -/

def blockOfCore (c : Nat) : Nat := 4 * (c / 64) + 2 * (c / 8 % 8 / 4) + c % 8 / 4
def filterKey (line block : Nat) : Nat := 16 * line + block

def hasBit (m i : Nat) : Bool := m / 2 ^ i % 2 == 1
def setBit (m i : Nat) : Nat := if hasBit m i then m else m + 2 ^ i
def clrBit (m i : Nat) : Nat := if hasBit m i then m - 2 ^ i else m

/-- The core's number in its block's filter mask. -/
def coreInBlock (c : Nat) : Nat := 4 * (c / 8 % 4) + c % 4

/-- The cores that the directory and the filters name for a line (R204). -/
def State.sharers (s : State) (line : Nat) : List Nat :=
  (List.range 256).filter (fun c =>
    hasBit ((s.homeDir.get (line / 4)).getD 0) (blockOfCore c) &&
    hasBit ((s.filters.get (filterKey line (blockOfCore c))).getD 0) (coreInBlock c))

/-- Sets the bits of a line and a core in the directory and in the filter (R203). -/
def State.setBits (s : State) (core line : Nat) : State :=
  let b := blockOfCore core
  { s with
    homeDir := s.homeDir.put (line / 4) (setBit ((s.homeDir.get (line / 4)).getD 0) b)
    filters := s.filters.put (filterKey line b) (setBit ((s.filters.get (filterKey line b)).getD 0) (coreInBlock core)) }

/-- Clears the tracking of a line in a core; the block's bit goes when it holds no line of the region (R204). -/
def State.untrack (s : State) (core line : Nat) : State :=
  let b := blockOfCore core
  let m := clrBit ((s.filters.get (filterKey line b)).getD 0) (coreInBlock core)
  let fs := if m = 0 then s.filters.del (filterKey line b) else s.filters.put (filterKey line b) m
  let region := line / 4
  let held := (List.range 4).any (fun i => (fs.get (filterKey (4 * region + i) b)).isSome)
  let d := (s.homeDir.get region).getD 0
  let d' := if held then d else clrBit d b
  { s with filters := fs, homeDir := if d' = 0 then s.homeDir.del region else s.homeDir.put region d' }

/-- Drops a core's copy of a line, its invalidation with it (R204). -/
def State.dropCopy (s : State) (core line : Nat) : State :=
  let c := s.core core
  (s.setCore core { c with
    l1 := c.l1.filter (fun x => x.line != line || x.priv)
    invals := c.invals.filter (· != line) }).untrack core line

/-- The cores to which a directory's and a filter's victim applies lose their copies (R203). -/
def State.dropAll (s : State) (line : Nat) (in_ : Nat → Bool) : State :=
  ((s.sharers line).filter in_).foldl (fun s c => s.dropCopy c line) s

/-- A directory entry goes, with every copy that it tracks (R203). -/
def State.dropRegion (s : State) (region : Nat) : State :=
  let s := (List.range 4).foldl (fun s i => s.dropAll (4 * region + i) (fun _ => true)) s
  { s with homeDir := s.homeDir.del region }

/-- A filter entry goes, with every copy that it tracks (R203). -/
def State.dropRow (s : State) (block line : Nat) : State :=
  let s := s.dropAll line (fun c => blockOfCore c == block)
  { s with filters := s.filters.del (filterKey line block) }

/-- Room in the region's directory set: 1,048,576 entries on the die in 16 ways (R202, R203). Index: DESIGN CHOICE, log 17. -/
def State.roomInDir (s : State) (region : Nat) : State :=
  let die := homeDie (512 * region)
  let set := (s.homeDir.map (·.1)).filter (fun r => homeDie (512 * r) == die && r / 4 % 65536 == region / 4 % 65536)
  if (s.homeDir.get region).isSome || set.length < 16 then s
  else
    let (v, s) := s.pickVictim set
    s.dropRegion v

/-- Room in the line's filter set: 32,768 entries of the block in 16 ways (R202, R203). Index: DESIGN CHOICE, log 17. -/
def State.roomInFilter (s : State) (block line : Nat) : State :=
  let set := (s.filters.map (·.1)).filter (fun k => k % 16 == block && k / 16 % 2048 == line % 2048)
  if (s.filters.get (filterKey line block)).isSome || set.length < 16 then s
  else
    let (v, s) := s.pickVictim set
    s.dropRow block (v / 16)

/-- Tracks a copy of the line in a core; a full set of the directory or of the filter gives up an entry first (R203). -/
def State.track (s : State) (core line : Nat) : State :=
  ((s.roomInDir (line / 4)).roomInFilter (blockOfCore core) line).setBits core line

/-- The invalidations under way to the cores given arrive: the stores behind them are performed with respect to what runs
there (R204). -/
def State.settleIn (s : State) (in_ : Nat → Bool) : State :=
  (s.cores.filter (fun c => in_ c.1)).foldl (fun s c => c.2.invals.foldl (fun s l => s.dropCopy c.1 l) s) s

/-- Every invalidation under way arrives (R204, R207). -/
def State.settle (s : State) : State := s.settleIn (fun _ => true)

/-- Marks a byte's old value in the copies of other cores and in private lines, and brings the writer's own copy up to
date. -/
def staleIn (writer pa : Nat) (old : Byte) (c : Nat × Core) : Nat × Core :=
  (c.1, { c.2 with l1 := c.2.l1.map (fun x =>
    if x.line = lineOf pa then
      { x with stale := if c.1 = writer && !x.priv then x.stale.del pa
                        else match x.stale.get pa with
                          | some _ => x.stale
                          | none => x.stale.put pa old }
    else x) })

/-- The home sends invalidations of a line to the cores named (R204). -/
def State.invalidate (s : State) (writer line : Nat) : State :=
  (s.sharers line).foldl (fun s c =>
    if c = writer || (s.core c).invals.contains line then s
    else (s.setCore c { s.core c with invals := (s.core c).invals ++ [line] }).post (.invalidation c line)) s

/-- Clears the uncorrectable words that the bytes cover whole (R185). -/
def State.scrub (s : State) (ps : List Place) : State :=
  { s with poison := s.poison.filter (fun q =>
      decide ((ps.filter (fun p => p.sameWord q)).length < Config.eccBytes)) }

/-- A byte performed at its home in global memory; the line is in the polder cache, and CXL memory keeps the old byte until
the line is written back (R179). -/
def State.homeByte (s : State) (writer pa : Nat) (b : Byte) : State :=
  let old := s.mem.get pa
  let s := s.cacheLine (lineOf pa)
  { s with
    mem := s.mem.set pa b
    cores := s.cores.map (staleIn writer pa old)
    pcache := s.pcache.upd (lineOf pa) (fun x => if (x.get pa).isSome then x else x.put pa old) }

/-- Bytes performed at their homes, then the invalidations of their lines (R204). -/
def State.homeWrite (s : State) (writer : Nat) (bs : List (Nat × Byte)) : State :=
  let s := bs.foldl (fun s b => s.homeByte writer b.1 b.2) s
  (((bs.map (fun b => lineOf b.1)).eraseDups).foldl (fun s l => s.invalidate writer l) s).scrub
    (bs.map (fun b => Place.glob b.1))

/-! The write-combining buffer (R206). -/

def Core.wline (c : Core) (line : Nat) : Option WLine := c.wcb.find? (fun w => w.line == line)

/-- Drains a line to its home. -/
def State.drainLine (s : State) (core line : Nat) : State :=
  match (s.core core).wline line with
  | none => s
  | some w =>
    let s : State := s.setCore core { s.core core with wcb := (s.core core).wcb.filter (fun x => x.line != line) }
    let s : State := { s with timers := s.timers.filter (fun i => i != Instr.wcbDrainTimer core line) }
    s.homeWrite core (w.bytes.map (fun b => (b.1, b.2.val)))

/-- Drains every line that holds a byte of the group (R207). -/
def State.drainGroup (s : State) (core gid : Nat) : State :=
  ((s.core core).wcb.filter (fun w => w.bytes.any (fun b => b.2.writers.contains gid))).foldl
    (fun s w => s.drainLine core w.line) s

def State.drainCore (s : State) (core : Nat) : State :=
  (s.core core).wcb.foldl (fun s w => s.drainLine core w.line) s

/-- The die of a core (R20). -/
def dieOf (core : Nat) : Nat := if core < 256 then core / 64 else (core - 256) / 2

/-- The cores on which a group's scope has parties (R212). -/
def State.inScope (s : State) (core gid : Nat) (sc : Scope) (c : Nat) : Bool :=
  match sc with
  | .group => c == core
  | .team => c == core
  | .cluster => c == core || (s.groups.get gid).elim false (fun g =>
      s.teams.any (fun t => t.2.core == c && t.2.grid == g.grid && t.2.cluster == g.clusterNo))
  | .die => dieOf c == dieOf core
  | .device => true
  | .system => true

/-- The stores performed so far are visible at the scope: their invalidations have reached its cores, and at system scope
CXL memory holds them (R204, R212). -/
def State.visible (s : State) (core gid : Nat) (sc : Scope) : State :=
  let s := s.settleIn (s.inScope core gid sc)
  if sc = .system then s.writeHome else s

/-- The stores performed in the lines given are visible at every scope: their invalidations have reached every core, and CXL memory
holds them (R204, R211, R212). -/
def State.publish (s : State) (lines : List Nat) : State :=
  ((s.cores.foldl (fun s c => (c.2.invals.filter (fun l => lines.contains l)).foldl (fun s l => s.dropCopy c.1 l) s) s).writeLines
    (fun l => lines.contains l))

/-- A release at a scope: the group's buffered stores drain and every store is visible there (R207, R213). -/
def State.release (s : State) (core gid : Nat) (sc : Scope) : State := (s.drainGroup core gid).visible core gid sc

/-- A byte enters the buffer: its line, or a free line, the oldest drained when none is free (R206 Entry; DESIGN CHOICE,
log 38). -/
def State.wcbByte (s : State) (core gid pa : Nat) (b : Byte) : State :=
  let line := lineOf pa
  let c := s.core core
  match c.wline line with
  | some w =>
    let ws := match w.bytes.get pa with
      | some o => if o.writers.contains gid then o.writers else o.writers ++ [gid]
      | none => [gid]
    s.setCore core { c with wcb := c.wcb.map (fun x =>
      if x.line = line then { x with bytes := x.bytes.put pa ⟨b, gid, ws⟩ } else x) }
  | none =>
    let s := if c.wcb.length < 4 then s
      else match c.wcb.head? with
        | some w => s.drainLine core w.line
        | none => s
    let c := s.core core
    let s := s.setCore core { c with wcb := c.wcb ++ [⟨line, [(pa, ⟨b, gid, [gid]⟩)]⟩] }
    { s with timers := s.timers ++ [.wcbDrainTimer core line] }

/-- Bytes enter the buffer; full lines drain, and every line entered when the store names a flag (R206 Drain). -/
def State.wcbWrite (s : State) (core gid : Nat) (flagged : Bool) (bs : List (Nat × Byte)) : State :=
  let s := bs.foldl (fun s b => s.wcbByte core gid b.1 b.2) s
  ((bs.map (fun b => lineOf b.1)).eraseDups).foldl (fun s l =>
    match (s.core core).wline l with
    | some w => if flagged || 128 ≤ w.bytes.length then s.drainLine core l else s
    | none => s) s

/-! Loads and stores at their points (R181). -/

/-- Drains the lines that a load needs under the forwarding rule: another group has written the byte since (R206). -/
def State.preLoad (s : State) (core gid : Nat) (ps : List Place) : State :=
  ps.foldl (fun s p =>
    match p with
    | .glob pa => match s.wbyte core pa with
      | some w => if w.writers.contains gid && w.last != gid then s.drainLine core (lineOf pa) else s
      | none => s
    | _ => s) s

/-- Drains the lines that hold a byte which a bypassing operation touches (R206 Bypassing stores). -/
def State.preBypass (s : State) (core : Nat) (ps : List Place) : State :=
  ps.foldl (fun s p =>
    match p with
    | .glob pa => if (s.wbyte core pa).isSome then s.drainLine core (lineOf pa) else s
    | _ => s) s

/-- A byte at its home. -/
def State.homeRead (s : State) (p : Place) : Byte :=
  match p with
  | .glob pa => s.mem.get pa
  | .pol i => s.polder.get i
  | .cs t o => (s.teams.get t).elim 0#8 (fun x => x.cs.get o)
  | .scr g o => (s.groups.get g).elim 0#8 (fun x => x.scratch.get o)

/-- What an L1 copy holds; the home's byte where there is no copy. -/
def State.l1Read (s : State) (core pa : Nat) : Byte :=
  match (s.core core).l1.find? (fun x => x.line == lineOf pa && !x.priv) with
  | some x => (x.stale.get pa).getD (s.mem.get pa)
  | none => s.mem.get pa

/-- A private byte: the L1's, dirty or not, else its home's (R177, R181). -/
def State.privRead (s : State) (core : Nat) (p : Place) : Byte :=
  match p with
  | .glob pa =>
    let clean := ((s.core core).l1.find? (fun x => x.line == lineOf pa && x.priv)).bind (fun x => x.stale.get pa)
    (((s.core core).dirty.get pa).or clean).getD (s.mem.get pa)
  | q => s.homeRead q

/-- A byte as a load of a group takes it (R181, R206). -/
def State.loadByte (s : State) (core gid : Nat) (sp : Space) (pol : Policy) (p : Place) : Byte :=
  match sp, p with
  | .priv, q => s.privRead core q
  | _, .glob pa =>
    match s.wbyte core pa with
    | some w => if w.last = gid then w.val
      else (if pol = .none ∨ pol = .stream then s.l1Read core pa else s.mem.get pa)
    | none => if pol = .none ∨ pol = .stream then s.l1Read core pa else s.mem.get pa
  | _, q => s.homeRead q

/-- Bytes as a little-endian number (R5). -/
def leNat : List Byte → Nat
  | [] => 0
  | b :: t => b.toNat + 256 * leNat t

/-- The low n bytes of a number, little-endian. -/
def leBytes : Nat → Nat → List Byte
  | 0, _ => []
  | n + 1, x => BitVec.ofNat 8 x :: leBytes n (x / 256)

def State.loadNat (s : State) (core gid : Nat) (sp : Space) (pol : Policy) (ps : List Place) : Nat :=
  leNat (ps.map (s.loadByte core gid sp pol))
def State.homeNat (s : State) (ps : List Place) : Nat := leNat (ps.map s.homeRead)

/-- A byte performed at its home, whatever its space. -/
def State.putByte (s : State) (writer : Nat) (p : Place) (b : Byte) : State :=
  match p with
  | .glob pa => s.homeByte writer pa b
  | .pol i => { s with polder := s.polder.set i b }
  | .cs t o => s.updTeam t (fun x => { x with cs := x.cs.set o b })
  | .scr g o => s.updGroup g (fun x => { x with scratch := x.scratch.set o b })

/-- Bytes performed at their homes at once: atomics, bypassing stores, reverse stores, copies. -/
def State.putBytes (s : State) (writer : Nat) (bs : List (Place × Byte)) : State :=
  let s := bs.foldl (fun s b => s.putByte writer b.1 b.2) s
  let lines := (bs.filterMap (fun b => match b.1 with | .glob pa => some (lineOf pa) | _ => none)).eraseDups
  (lines.foldl (fun s l => s.invalidate writer l) s).scrub (bs.map (·.1))

/-- The bytes of a number at places. -/
def bytesAt (ps : List Place) (x : Nat) : List (Place × Byte) := ps.zip (leBytes ps.length x)

/-! The L1's room (R181, R182, R203). -/

/-- Writes back and drops the private lines of a core that are chosen (R180 to R182). -/
def State.dropPriv (s : State) (core : Nat) (which : Nat → Bool) : State :=
  let c := s.core core
  (s.setCore core { c with
    dirty := c.dirty.filter (fun b => !which (lineOf b.1))
    l1 := c.l1.filter (fun x => !(x.priv && which x.line)) }).homeWrite core (c.dirty.filter (fun b => which (lineOf b.1)))

/-- Writes a core's dirty private bytes back (R180, R182). -/
def State.writeBack (s : State) (core : Nat) : State := s.dropPriv core (fun _ => true)

/-- The lines that an L1 holds (R4). -/
def Core.l1Lines (c : Core) : Nat := 8 * [256, 512, 1024, 2048].getD (c.carve.getD 0) 256

/-- Room for a line: a full L1 gives one up, of the lowest priority where there is one. A private line is written back; a copy
leaves its bits behind (R181, R203). -/
def State.roomInL1 (s : State) (core : Nat) : State :=
  let c := s.core core
  if c.l1.length < c.l1Lines then s
  else
    let lows := (List.range c.l1.length).filter (fun i => (c.l1[i]?).any (·.low))
    let (v, s) := s.pickVictim (if lows.isEmpty then List.range c.l1.length else lows)
    match c.l1[v]? with
    | some x =>
      if x.priv then s.dropPriv core (· == x.line)
      else s.setCore core { c with l1 := c.l1.eraseIdx v }
    | none => s

/-- The lines of global places. -/
def linesOf (ps : List Place) : List Nat :=
  (ps.filterMap (fun p => match p with | .glob pa => some (lineOf pa) | _ => none)).eraseDups

/-- The private lines that an access needs are in the L1, filled from their homes (R181). -/
def State.fillPriv (s : State) (core : Nat) (ps : List Place) : State :=
  (linesOf ps).foldl (fun s l =>
    if (s.core core).l1.any (fun x => x.line == l && x.priv) then s
    else
      let s := (s.roomInL1 core).cacheLine l
      s.setCore core { s.core core with l1 := (s.core core).l1 ++ [⟨l, true, false, []⟩] }) s

/-- A store's bytes on the path of R181. `flagged` says that it names a completion flag. -/
def State.storeBytes (s : State) (core gid : Nat) (sp : Space) (pol : Policy) (flagged : Bool)
    (bs : List (Place × Byte)) : State :=
  match sp with
  | .priv => bs.foldl (fun s b => match b.1 with
      | .glob pa => s.setCore core { s.core core with dirty := (s.core core).dirty.put pa b.2 }
      | p => s.putByte core p b.2) (s.fillPriv core (bs.map (·.1)))
  | .global =>
    match pol with
    | .none => s.wcbWrite core gid flagged (bs.filterMap (fun b => match b.1 with | .glob pa => some (pa, b.2) | _ => none))
    | .stream => s.wcbWrite core gid flagged (bs.filterMap (fun b => match b.1 with | .glob pa => some (pa, b.2) | _ => none))
    | .nl1 =>
      let s := (s.preBypass core (bs.map (·.1))).putBytes core bs
      (linesOf (bs.map (·.1))).foldl (fun s l => s.dropCopy core l) s
    | .pcache => (s.preBypass core (bs.map (·.1))).putBytes core bs
  | _ => s.putBytes core bs

/-- The lines of a load that misses in L1 and allocates (R181, R203). A system core keeps no copies: no block's filter could
name it (DESIGN CHOICE, log 16). -/
def State.missLines (s : State) (core : Nat) (pol : Policy) (sp : Space) (ps : List Place) : List Nat :=
  if sp = .global ∧ (pol = .none ∨ pol = .stream) ∧ !isSystemCore core then
    (linesOf ps).filter (fun l =>
      !(s.core core).l1.any (fun x => x.line == l && !x.priv) && !(s.core core).fills.contains l)
  else []

/-- The fills that a load's misses ask for; `low` of a .stream load (R181). -/
def State.askFills (s : State) (core : Nat) (low : Bool) (lines : List Nat) : State :=
  lines.foldl (fun s l =>
    (s.setCore core { s.core core with
      fills := (s.core core).fills ++ [l]
      lowFills := if low then (s.core core).lowFills ++ [l] else (s.core core).lowFills }).post (.l1MissFill core l ⟨none, none, none⟩)) s

/-- A .pcache load refreshes an L1 copy that is present (R181). -/
def State.refresh (s : State) (core : Nat) (pol : Policy) (ps : List Place) : State :=
  if pol = .pcache then
    let lines := linesOf ps
    s.setCore core { s.core core with l1 := (s.core core).l1.map (fun x =>
      if lines.contains x.line && !x.priv then { x with stale := [] } else x) }
  else s

end Sys2Proof.Machine
end

