-- ==== Sys2Proof/Machine/Pool.lean ====
section
/-! DEFINITION. Machine/Pool.lean: records, bins and waits (14_task_engine R344 to R351, R354 to R356), pending drops and the
removal of seals (12 R333, R334), a group's departure (R83), and the commit with everything it waits for and lowers
(09_history R251, 07 R207). -/

namespace Sys2Proof.Machine

/-! The record pool. -/

/-- The team of a grid with a team number. -/
def State.teamOf (s : State) (grid teamNo : Nat) : Option (Nat × Team) :=
  s.teams.find? (fun t => t.2.grid == grid && t.2.teamNo == teamNo)

/-- The teams that a record's binding allows (R349, R439). -/
def Rec.allows (r : Rec) (t : Team) : Bool :=
  t.grid == r.grid &&
  match r.bind with
  | .team => t.teamNo == r.place
  | .cluster => t.cluster == r.place
  | .grid => true

/-- The least element of a list of numbers. -/
def leastBy {α : Type} (f : α → Nat) : List α → Option α
  | [] => none
  | x :: t => match leastBy f t with
    | some y => if f y < f x then some y else some x
    | none => some x

/-- The core whose bins a ready record enters (R349). -/
def State.recCore (s : State) (r : Rec) : Option Nat :=
  match r.bind, s.teams.get r.writer with
  | .team, _ => (s.teamOf r.grid r.place).map (fun t => t.2.core)
  | _, some t => some t.core
  | _, none => (leastBy (fun t => t.2.teamNo) (s.teams.filter (fun t => r.allows t.2))).map (fun t => t.2.core)

/-- The context of a grid. -/
def State.gridCtx (s : State) (grid : Nat) : Nat := (s.grids.get grid).elim 0 (·.ctx)

/-- The records of a context that stand in bins. -/
def State.binned (s : State) (ctx : Nat) : List Rec :=
  s.cores.flatMap (fun c => c.2.bins.flatMap (fun b => if s.gridCtx b.2.grid = ctx then b.2.recs else []))

/-- The records of a context, waiting or ready, but for those in bins. -/
def State.waiting (s : State) (ctx : Nat) : List Rec :=
  match s.ctxs.get ctx with
  | none => []
  | some c =>
    c.pool.ready ++ c.image.elim [] (fun i => i.bins.flatMap (fun b => b.2.recs)) ++
    c.events.flatMap (fun e => e.2.waiters) ++ c.taskWaits.flatMap (·.recs) ++
      c.predWaits.flatMap (·.recs) ++
      s.seals.flatMap (fun x => if (s.tiles.get x.2.tile).elim false (fun t => t.ctx == ctx) then x.2.waiters else [])

/-- R346: the records that are not reservations. -/
def State.occupancy (s : State) (ctx : Nat) : Nat := (s.waiting ctx).length + (s.binned ctx).length

/-- The mode of the pool follows its occupancy (R346). -/
def State.poolMode (s : State) (ctx : Nat) : State :=
  let occ := s.occupancy ctx
  s.updCtx ctx (fun c =>
    let p := c.pool
    let depth := if p.depth then !decide (occ < p.low) else decide (p.high < occ)
    { c with pool := { p with depth := depth, rateT := if depth then p.rateT else 0 } })

def binFor (bins : Tbl Bin) (r : Rec) : Option (Nat × Bin) :=
  bins.find? (fun b => b.2.grid == r.grid && b.2.pc == r.pc && b.2.bind == r.bind && b.2.place == r.place)

/-- A ready record enters a bin, or waits on the ready list (R349). -/
def State.enterBin (s : State) (ctx : Nat) (r : Rec) : State :=
  let hold (s : State) : State := s.updCtx ctx (fun c => { c with pool := { c.pool with ready := c.pool.ready ++ [r] } })
  match s.recCore r with
  | none => hold s
  | some core =>
    let (n, s) := s.newId
    let r := { r with stamp := n }
    let c := s.core core
    match binFor c.bins r with
    | some (i, b) => s.setCore core { c with bins := c.bins.put i { b with recs := b.recs ++ [r] } }
    | none =>
      match c.bins.freeFrom 0 64 with
      | some i =>
        let s := s.setCore core { c with bins := c.bins.put i ⟨r.grid, r.pc, r.bind, r.place, [r], false⟩ }
        { s with timers := s.timers ++ [.binTimerExpiry core i] }
      | none => hold s

/-- Records become ready together, in order (R349, R354). -/
def State.makeReady (s : State) (ctx : Nat) (rs : List Rec) : State :=
  (rs.foldl (fun s r => s.enterBin ctx r) s).poolMode ctx

/-- The ready list tries the bins again, oldest first (R349). -/
def State.retryReady (s : State) (ctx : Nat) : State :=
  match s.ctxs.get ctx with
  | none => s
  | some c =>
    (s.updCtx ctx (fun c => { c with pool := { c.pool with ready := [] } })).makeReady ctx c.pool.ready

/-- A bin has freed: every context's ready list tries the bins again (R32, R349). -/
def State.retryAll (s : State) : State := s.ctxs.foldl (fun s c => if c.2.pool.ready.isEmpty then s else s.retryReady c.1) s

/-! The 80 bytes of a record (R347). -/

def Bind.code : Bind → Nat
  | .team => 0
  | .cluster => 1
  | .grid => 2

/-- Its fields, as numbers of 8 and 4 bytes. -/
def Rec.words (r : Rec) : List DWord :=
  let v (i : Nat) : Nat := (r.vals.getD i 0#32).toNat
  [w64 (r.pc.toNat + 2 ^ 57 * r.vals.length + 2 ^ 62 * Bind.code r.bind),
    w64 (r.base + 2 ^ 8 * (r.budget / 16 - 1) + 2 ^ 12 * r.lane + 2 ^ 32 * r.place)] ++
    (List.range 8).map (fun i => w64 (v (2 * i) + 2 ^ 32 * v (2 * i + 1)))

def Rec.bytes (r : Rec) : List Byte := r.words.flatMap (fun x => leBytes 8 x.toNat)

/-! A group's departure (R83, R348). -/

/-- Whether any split or parked path holds a lane. -/
def Group.alive (g : Group) : Bool := g.splits.any (fun x => x.2.mask != 0#32) || g.parked.any (fun p => p.mask != 0#32)

/-- A group whose lanes have all left exits; it keeps its slot while the pool is extended for its records (R83, R345). Aborted
copies whose fault it had still to take leave it to the context (R329). -/
def State.reap (s : State) (gid : Nat) : State :=
  match s.groups.get gid with
  | none => s
  | some g =>
    if g.alive || ((s.ctxs.get g.ctx).elim false (fun c => c.poolWaits.contains gid)) then s
    else g.abortDue.foldl (fun s x => s.ctxFault g.ctx g.gridNo g.teamNo 0x0607#16 (x.getLastD 0#64) 0#64 x)
      { s with groups := s.groups.del gid, growQ := s.growQ.filter (fun x => x.gid != gid) }

/-- A freed number resumes the newest parked path, with %cfr = (0, 0) (R79). `pushRec` says that the entry is recorded. -/
def Group.unpark (g : Group) (pushRec : Bool) : Nat → Group
  | 0 => g
  | fuel + 1 =>
    match g.parked.getLast?, g.splits.freeFrom 0 4 with
    | some p, some n =>
      let g := if pushRec && g.recGrade == .step then g.push (.parkrec true n p.mask p.pc) n else g
      let g := { g with
        parked := g.parked.dropLast
        splits := g.splits.put n { pc := p.pc, mask := p.mask, cfrPc := 0#57, cfrIc := 0#48, wait := .ready, mid := none } }
      g.unpark pushRec fuel
    | _, _ => g

/-- The lanes of m leave split sn; a split without lanes frees its number (R79, R83). -/
def Group.leaveLanes (g : Group) (sn : Nat) (m : Mask) : Group :=
  match g.splits.get sn with
  | none => g
  | some sp =>
    let sp := { sp with mask := sp.mask &&& ~~~m }
    if sp.mask = 0#32 then { g with splits := g.splits.del sn } else g.setSplit sn sp

/-! Writing records (R347, R348). -/

/-- A record of lane l that carries the registers named (R348). -/
def Group.record (g : Group) (l : Nat) (pc : CAddr) (bind : Bind) (base : Nat) (locs : List Loc) (budget : Nat) : Rec :=
  { grid := g.grid, pc := pc, bind := bind, base := base, budget := budget, lane := l,
    place := match bind with
      | .team => g.teamNo
      | .cluster => g.clusterNo
      | .grid => 0,
    vals := locs.map (fun x => g.rdV x l), writer := g.team, stamp := 0 }

/-- The pool is charged with the records that a group's wait has made; the group keeps its slot while Berm extends it (R345). -/
def State.charge (s : State) (gid ctx : Nat) : State :=
  match s.ctxs.get ctx with
  | none => s
  | some c =>
    let s := s.poolMode ctx
    if c.pool.size < s.occupancy ctx then s.updCtx ctx (fun c => { c with poolWaits := c.poolWaits ++ [gid] }) else s

/-! Events and seals. -/

/-- EVENT_FIRE: a pending event fires and its wait list moves to the bins (R354). A name that is not allocated when a copy or a tile
request signals it signals nothing and raises nothing (R317, R328; DESIGN CHOICE, log 55). -/
def State.fireEvent (s : State) (ctx name : Nat) : State :=
  match (s.ctxs.get ctx).bind (fun c => c.events.get name) with
  | some e =>
    if e.fired then s
    else (s.updCtx ctx (fun c => { c with events := c.events.put name { e with fired := true, waiters := [] } })).makeReady
      ctx e.waiters
  | none => s

/-- The context of a tile. -/
def State.tileCtx (s : State) (t : Nat) : Nat := (s.tiles.get t).elim 0 (·.ctx)

/-- SEAL_REMOVE: a closing seal whose count is 0 goes and its waiters resume (R333, R334). -/
def State.sealCheck (s : State) (tile : Nat) : State :=
  match s.seals.get tile with
  | some x => if x.closing && x.count == 0 then ({ s with seals := s.seals.del tile }).makeReady (s.tileCtx tile) x.waiters else s
  | none => s

/-- One pending drop lowers its seal's count (R334). -/
def State.lowerSeal (s : State) (d : Nat × Nat) : State :=
  match s.seals.get d.1 with
  | some x =>
    if x.off = d.2 then ({ s with seals := s.seals.put d.1 { x with count := x.count - 1 } }).sealCheck d.1 else s
  | none => s

/-! Commit (R251). -/

/-- Whether a MEMW entry of the group is not complete (R195). -/
def State.memwOpen (s : State) (gid : Nat) : Bool :=
  s.pend.any (fun p => match p.2 with
    | .atomic g .. => g == gid
    | .moved g .. => g == gid
    | _ => false)

/-- What a commit of a group does to the device: its buffered stores drain, to the device scope where the instruction names none
(R207; DESIGN CHOICE, log 53), its pending drops count (R334). -/
def State.commitOuter (s : State) (gid core : Nat) (drops : List (Nat × Nat)) : State :=
  drops.foldl (fun s d => s.lowerSeal d) (s.release core gid .device)

/-- A commit by an instruction of the group, explicit or implicit, with %cmark := its number (R24, R251). It waits for
every MEMW entry. In a handler whose instructions have no number of their own it is %ic, the number of the next that counts, with
which the snapshot is taken (R220; DESIGN CHOICE, log 53). -/
def State.commit (s : State) (gid : Nat) : Run State :=
  match s.groups.get gid with
  | none => .ok s
  | some g =>
    if s.memwOpen gid then .error .stall
    else
      let s := s.commitOuter gid g.core g.drops
      .ok (s.updGroup gid (fun g => { g.commitAt g.ic with drops := [] }))

end Sys2Proof.Machine
end

