-- ==== Sys2Proof/Machine/Issue.lean ====
section
/-! DEFINITION. Machine/Issue.lean: the issue of one instruction: who issues (03_group_state R86, R89), the order of its
checks, its history test (09 R221, R237, R238), its retirement (R220), its faults and handler entries (17 R383 to R391),
and the single-step halt (19 R416). Every meaning is a body run by `issue`. -/

namespace Sys2Proof.Machine

abbrev Out := Host.Outcome State Fault Refusal

/-! The debug mailbox (R412, R413). -/

/-- Posts an event or a reply; a full ring holds it (R412). -/
def Debug.post (d : Debug) (e : DbgEvent) : Debug :=
  if (d.evtTail - d.evtHead).toNat < 32 ∧ d.held = [] then
    { d with ring := d.ring.put (d.evtTail.toNat % 32) e, evtTail := d.evtTail + 1#32 }
  else { d with held := d.held ++ [e] }

def Ctx.dbgPost (c : Ctx) (e : DbgEvent) : Ctx := { c with dbg := c.dbg.post e }

/-- Whether a monitor session is attached to the context (R402, R410). -/
def State.attached (s : State) (ctx : Nat) : Bool := (s.ctxs.get ctx).elim false (fun c => c.dbg.attached)

/-- An event raised by a group. -/
def Group.event (g : Group) (code : Nat) (v0 : DWord) (a : CAddr) : DbgEvent :=
  { code := code, status := 0, seq := 0#32, v0 := v0, v1 := 0#64, loc := g.locator, ic := g.ic, addr := a,
    cause := BitVec.ofNat 16 code }

/-- The group halts with its clause in flight kept by its split, with which it goes on (R415, R416). -/
def Group.haltNow (g : Group) : Group :=
  { g with
    halted := true
    resume := if g.clause.isSome then some g.cur else g.resume
    splits := if g.clause.isSome then g.splits.upd g.cur (fun sp => { sp with mid := g.clause }) else g.splits
    clause := none }

/-! Who issues. -/

/-- The split under whose number a routine runs: the one that started last, or the lowest (R385). -/
def Group.standing (g : Group) : Nat :=
  if (g.splits.get g.lastStart).isSome then g.lastStart else (g.splits.head?.map (·.1)).getD 0

/-- Whether the group is in a surrender routine, a handler nested in it among that (R320). -/
def Group.inRoutine (g : Group) : Bool := g.frames.any (fun f => f.kind == .surrender)

/-- A running surrender routine has used its budget (R319). -/
def Group.overBudget (g : Group) : Bool := g.frames.any (fun f => f.kind == .surrender && decide (f.budget ≤ f.used))

/-- A reversal that another party ordered waits to begin (R240, R405). -/
def Group.revWaits (g : Group) : Bool := g.hist.rev.any (·.waiting)

/-- A group that may issue: not halted, not stopped, not reversing (R240, R384, R415). -/
def Group.runs (g : Group) : Bool := !g.halted && !g.stopped && !g.dir && !g.revWaits

/-- The group at its issue point: its clause in flight and the split that issues. -/
def State.issuer (s : State) : Option (Group × Split × Clause) := do
  let g ← s.groups.get s.cur
  let cl ← g.clause
  let sp ← g.splits.get g.cur
  if g.runs ∧ sp.wait = .ready then some (g, sp, cl) else none

/-! Handler entry (R385). -/

/-- An entry whose frame the context's memory cannot take, the depth-1 handler's state being saved there: a double fault against
the context, and the group stops (R382, R388; DEDUCED, log 50). -/
def State.frameLost (s : State) (gid : Nat) (g : Group) (e : Entry) : State :=
  (s.imprecise gid { g with cur := g.standing } 0x0906#16 e.exec_ (e.pc.setWidth 64)).updGroup gid (fun _ => { g with stopped := true })

/-- Entry to a handler whose entries fit. An entry address that is not a header raises 0x0101 (R385). -/
def State.enterAt (s : State) (gid : Nat) (g : Group) (e : Entry) : State :=
  if g.inHandler && (s.ctxs.get g.ctx).any (fun c => s.portDown c.frameArea) then s.frameLost gid g e
  else match s.isHeader g.ctx e.pc with
  | .ok true => s.setGroup gid (g.enter e)
  | .ok false => s.toBerm gid g g.cur 0x0101#16 e.exec_ e.at_ (e.pc.setWidth 64) 0#64 e.parcels none
  | .error (.berm c _ a _) => s.toBerm gid g g.cur c e.exec_ e.at_ a 0#64 e.parcels none
  | .error _ => s

/-- The default action of R237 counts in the field records (R423). -/
def State.countDefault (s : State) (core : Nat) : State :=
  { s with field := { s.field with defaults := bump s.field.defaults core } }

/-- The group after the default action's commit at a handler's entry: the emulated instruction's number commits (R250); the
frames of the other kinds are boundary entries, so that the commit is MTG's (R231, R237). -/
def Group.commitEntry (g : Group) (k : HandlerKind) : Group :=
  { (if k = .emulation ∨ g.inHandler then g.commitAt g.ic else g.commitBelow g.baseSnapshot) with drops := [] }

/-- The entry to the history-full handler (R237, R385). -/
def Group.fullEntry (g : Group) (pc : CAddr) (reason : Nat) (at_ : CAddr) (parcels : Nat) (whole : Bool) (ex lanes : Mask) :
    Entry :=
  { kind := .historyFull, pc := pc, at_ := at_, parcels := parcels, whole := whole, w := [0x0401#64, w64 reason],
    exec_ := ex, lanes := lanes, budget := 0, tile := 0 }

/-- The open frame does not fit (R237, R238, R385): the history-full handler outside handler mode, the overflow fault after
it, or the default action. The handler keeps the clause inside which the split stands, if it does. -/
def State.fullAtEntry (s : State) (gid : Nat) (g : Group) (e : Entry) : State :=
  let lanes := (g.splits.get g.cur).elim 0#32 (·.mask)
  let overflow (s : State) (g : Group) : State := s.toBerm gid g g.cur 0x0402#16 e.exec_ e.at_ 0#64 0#64 e.parcels none
  if g.hist.fullRet.contains (g.cur, e.at_, e.parcels == 0) then overflow s g
  else match (if g.inHandler then none else s.handlerFor g .historyFull) with
    | some pc =>
      s.enterAt gid { g with clause := g.clause.or ((g.splits.get g.cur).bind (·.mid)) }
        (g.fullEntry pc 0 e.at_ e.parcels e.whole e.exec_ lanes)
    | none =>
      if s.memwOpen gid then s
      else
        let s := ((s.setGroup gid g).commitOuter gid g.core g.drops).countDefault g.core
        match s.groups.get gid with
        | none => s
        | some g =>
          let g := g.commitEntry e.kind
          if g.hlim.toNat < (g.pushOpen e).2.hsp.toNat then overflow s g else s.enterAt gid g e

/-- Entry to a handler of group gid (R385), which waits where its frame cannot be pushed for an incomplete MEMW entry (R195). -/
def State.enterHandler (s : State) (gid : Nat) (g : Group) (e : Entry) : State :=
  if (g.pushOpen e).2.overfull then s
  else if g.hlim.toNat < (g.pushOpen e).2.hsp.toNat then s.fullAtEntry gid g e else s.enterAt gid g e

/-- The raw fields as w1 reports them (R389). -/
def rawW1 (n : Nat) (p0 p1 : Word) : DWord :=
  w64 ((p0.extractLsb' 10 8).toNat + 2 ^ 8 * (p0.extractLsb' 18 8).toNat +
    (if n = 1 then 0 else 2 ^ 16 * (p1.extractLsb' 0 8).toNat + 2 ^ 24 * (p1.extractLsb' 15 8).toNat))

/-- Modifiers, guard, length and OP as w2 reports them (R389). -/
def rawW2 (n : Nat) (p0 p1 : Word) : DWord :=
  let code := (p0.extractLsb' 0 2).toNat
  let op := (p0.extractLsb' 2 8).toNat
  if n = 1 then w64 ((p0.extractLsb' 26 4).toNat + 2 ^ 16 * code + 2 ^ 24 * op)
  else w64 ((p1.extractLsb' 23 7).toNat + 2 ^ 8 * (p1.extractLsb' 8 7).toNat + 2 ^ 16 * code +
    2 ^ 18 * (p0.extractLsb' 26 6).toNat + 2 ^ 24 * op)

/-- The literal and the second parcel as w3 reports them (R389). -/
def rawW3 (n : Nat) (p1 p2 : Word) : DWord :=
  if n = 1 then 0#64
  else joinW (if n = 3 then p1.extractLsb' 30 2 ++ p2.extractLsb' 0 30 else 0#32) p1

/-- A group whose encoding vectors to emulation: the handler, or Berm (R55, R61, R388, R389, R410). `whole` is a foreign
clause (R60). -/
def State.emulate (s : State) (gid : Nat) (g : Group) (sp : Split) (cause : Cause) (a : CAddr) (p0 p1 p2 : Word) (n : Nat)
    (whole : Bool) (ex : Mask) : State :=
  match s.handlerFor g .emulation with
  | none => s.toBerm gid g g.cur cause ex a 0#64 0#64 n none
  | some pc =>
    if 2 ≤ g.depth then s.toBerm gid g g.cur 0x0902#16 ex a 0#64 0#64 n none
    else
      let w0 := w64 (cause.toNat + 2 ^ 32 * p0.toNat)
      let ws := if whole then [w0, 0#64, 0#64, 0#64] else [w0, rawW1 n p0 p1, rawW2 n p0 p1, rawW3 n p1 p2]
      s.enterHandler gid g
        { kind := .emulation, pc := pc, at_ := a, parcels := n, whole := whole, w := ws, exec_ := ex, lanes := sp.mask,
          budget := 0, tile := 0 }

/-! Faults and stops of an issuing instruction. -/

def Iss.fault (c : Iss) (cause : Cause) (lanes : Mask) (a b : DWord) : State :=
  c.s.toBerm c.gid c.g c.sn cause lanes c.pc a b c.len none

/-- What an instruction that does not retire leaves behind. -/
def Iss.stopWith (c : Iss) (e : Stop) : State :=
  match e with
  | .berm cause lanes a b => c.fault cause (lanes.getD c.ex) a b
  | .emu cause =>
    c.s.emulate c.gid c.g c.sp cause c.pc (c.s.rawParcel c.g.ctx c.pc) (c.s.rawParcel c.g.ctx (c.pc + 4#57))
      (c.s.rawParcel c.g.ctx (c.pc + 8#57)) c.len false c.ex
  | .handler k cause w1 =>
    match c.s.handlerFor c.g k with
    | some pc => c.s.enterHandler c.gid c.g
        { kind := k, pc := pc, at_ := c.pc, parcels := c.len, whole := false, w := [cause.setWidth 64, w1],
          exec_ := c.ex, lanes := c.sp.mask, budget := 0, tile := 0 }
    | none => c.fault cause c.ex w1 0#64
  | .stall => c.s
  | .wait s => s

/-! Retirement. -/

/-- What counts when an ordinary instruction retires (R220). -/
def Iss.counts (c : Iss) : Bool := !c.g.inHandler

/-- The next instruction of the clause, or the header after it (R38). -/
def Group.advance (g : Group) (sn len : Nat) : Group :=
  { g with
    splits := g.splits.upd sn (fun sp => { sp with pc := sp.pc + BitVec.ofNat 57 (4 * len) })
    clause := match g.clause with
      | some cl => if cl.left ≤ 1 then none else some { cl with left := cl.left - 1 }
      | none => none }

/-- The bookkeeping of a retirement: %ic, the last split, the switch count, the surrender budget, the commit snapshot: it is
taken as the instruction of the commit's number retires, and what that instruction recorded after the commit lies below the
floor (R220, R223, R232, R250, R251, R319). `counted` tells whether it is one of the instructions that the switch count counts: a
handler's own are not (DESIGN CHOICE, log 53). -/
def Group.retired (g : Group) (sn : Nat) (count sealed_ counted : Bool) : Group :=
  let g := { g with
    ic := if count then g.ic + 1#48 else g.ic
    lastSplit := if count then sn else g.lastSplit
    frames := g.frames.map (fun f => if f.kind = .surrender then { f with used := f.used + 1 } else f)
    hist := { g.hist with switchCnt := if sealed_ then 0 else if counted then g.hist.switchCnt + 1 else g.hist.switchCnt } }
  if g.hist.snapDue && count then
    { g with hist := { g.hist with snap := g.snapshot, snapDue := false, touched := Touched.none } }
  else g

/-- The address of the next instruction after one of split sn: its own, or, when the split has gone, that of the split which the
group turns to (R90, R416). -/
def Group.nextAt (g : Group) (sn : Nat) : CAddr :=
  let ready := g.splits.filter (fun x => x.2.wait == .ready)
  let turn := ((ready.find? (fun x => decide (sn < x.1))).or ready.head?).or g.splits.head?
  ((g.splits.get sn).or (turn.map (·.2))).elim 0#57 (·.pc)

/-- R416: a group with %step set halts after an instruction outside handler mode. -/
def State.stepHalt (s : State) (gid sn : Nat) : State :=
  match s.groups.get gid with
  | none => s
  | some g =>
    if g.stepBit && !g.inHandler && !g.dir then
      let a := g.nextAt sn
      let s := s.setGroup gid g.haltNow
      if s.attached g.ctx then s.updCtx g.ctx (fun c => c.dbgPost (g.event 0x0905 0#64 a)) else s
    else s

/-- Why an instruction's entries or its count do not fit (R221, R237): the reason of R257. -/
def Iss.misfit (c : Iss) (f : Fin) (g : Group) : Option Nat :=
  if f.sealed || c.g.recGrade == .off then none
  else if f.count && decide (2 ^ 32 ≤ (c.g.ic + 1#48 - c.g.cmark).toNat) then some 1
  else if g.hlim.toNat < g.hsp.toNat then some 0
  else none

/-- Whether the buffer cannot hold the instruction's entries, since a spill waits for an incomplete MEMW entry (R195, R234). -/
def Iss.crowded (c : Iss) (g : Group) : Bool := c.g.recGrade != .off && c.g.hist.hold.isSome && g.overfull

/-- The state after retirement. A return that counts steps as the instruction it stands for (R416). -/
def Iss.retire (c : Iss) (f : Fin) (g : Group) : State :=
  let g := if f.jump then g else g.advance c.sn c.len
  let g := (g.retired c.sn f.count f.sealed (f.count || !c.g.inHandler)).pushed c.sn false
  let s := f.s.setGroup c.gid g
  if c.g.inHandler && !f.count then s else s.stepHalt c.gid c.sn

/-- One attempt: the state after it, or the reason why the history is full. -/
inductive Attempt where
  | over (s : State)
  | full (reason : Nat)
  deriving DecidableEq, Repr

def Iss.attempt (c : Iss) (body : Iss → Run Fin) : Attempt :=
  match body c with
  | .error e => .over (c.stopWith e)
  | .ok f =>
    match f.s.groups.get c.gid with
    | none => .over f.s
    | some g =>
      match c.misfit f g with
      | some r => .full r
      | none => if c.crowded g then .over c.s else .over (c.retire f g)

/-- The default action: a commit, counted in the field records, and the instruction proceeds; 0x0402 when its entries do not
fit in the emptied spillway (R237). -/
def Iss.defaultAction (c : Iss) (body : Iss → Run Fin) : State :=
  match c.s.commit c.gid with
    | .error _ => c.s
    | .ok s =>
      let s := s.countDefault c.g.core
      match s.groups.get c.gid with
      | none => s
      | some g =>
        let c' : Iss := { c with s := s, g := g }
        match c'.attempt body with
        | .over s => s
        | .full _ => c'.fault 0x0402#16 c'.ex 0#64 0#64

/-- The history-full trap (R237, R238, R385): the handler, the overflow fault, or the default action, which commits and
lets the instruction proceed. -/
def Iss.historyFull (c : Iss) (reason : Nat) (body : Iss → Run Fin) : State :=
  if c.g.hist.fullRet.contains (c.sn, c.pc, false) then c.fault 0x0402#16 c.ex 0#64 0#64
  else
    match (if c.g.inHandler then none else c.s.handlerFor c.g .historyFull) with
    | some pc => c.s.enterAt c.gid c.g (c.g.fullEntry pc reason c.pc c.len false c.ex c.sp.mask)
    | none => c.defaultAction body

/-- The surroundings of an instruction at issue. -/
def State.iss (s : State) (g : Group) (sp : Split) (cl : Clause) (gd : Guard) (len : Nat) : Iss :=
  { s := s, gid := s.cur, g := g, sn := g.cur, sp := sp, cl := cl, ex := sp.mask &&& g.guard gd, len := len }

/-- Issues one instruction of `len` parcels under a guard. A group waits for the results of R86 before its turn
(`State.midClause`); a surrender routine over its budget issues nothing more (R319). -/
def issue (len : Nat) (gd : Guard) (s : State) (body : Iss → Run Fin) : Out :=
  match s.issuer with
  | none => .fault .noIssuer
  | some (g, sp, cl) =>
    if g.overBudget then .next s
    else
      let c := s.iss g sp cl gd len
      .next (match c.attempt body with
        | .over s => s
        | .full r => c.historyFull r body)

/-- The guard of the 32-bit forms: p63 (R43). -/
def always : Guard := ⟨63#6, false⟩

/-- An instruction that ends with a new group state and goes on in sequence. -/
def Iss.done (c : Iss) (g : Group) : Fin := { s := c.s.setGroup c.gid g, count := c.counts, sealed := false, jump := false }

/-- An instruction whose effect is on its group's registers alone. -/
def regOp (len : Nat) (gd : Guard) (s : State) (body : Iss → Run Group) : Out :=
  issue len gd s (fun c => (body c).map c.done)

/-- An instruction that ends with a new device state and goes on in sequence. -/
def Iss.doneS (c : Iss) (s : State) : Fin := { s := s, count := c.counts, sealed := false, jump := false }

/-- A class S instruction: nothing with an empty Exec (R47, R24); else the commit, then the effect, which is recorded
nowhere. The effect is given the surroundings after the commit. -/
def Iss.sealing (c : Iss) (effect : Iss → Run State) : Run Fin :=
  if c.ex = 0#32 then .ok (c.doneS c.s)
  else do
    let s ← c.s.commit c.gid
    match s.groups.get c.gid with
    | none => .ok (c.doneS s)
    | some g =>
      let s ← effect { c with s := s, g := g }
      return { s := s, count := c.counts, sealed := true, jump := false }

end Sys2Proof.Machine
end

