-- ==== Sys2Proof/Machine/Int.lean ====
section
/-! DEFINITION. Machine/Int.lean: integer arithmetic, division, the in-place short forms, shifts and bit fields
(04_lane_integer_control R100 to R110). -/

namespace Sys2Proof.Machine

/-! The results, lane by lane. -/

/-- IMULHI's exact high half (R101). -/
def mulHi (z : Bool) (a b : Word) : Int := (intOf z a * intOf z b).fdiv (2 ^ 32)

/-- IDIV (R105): truncated toward zero; all ones for b = 0; the overflow gives the most negative number. -/
def divW (z : Bool) (a b : Word) : Word :=
  if b = 0#32 then 0xFFFFFFFF#32 else BitVec.ofInt 32 ((intOf z a).tdiv (intOf z b))
/-- IREM (R105). -/
def remW (z : Bool) (a b : Word) : Word := if b = 0#32 then a else BitVec.ofInt 32 ((intOf z a).tmod (intOf z b))

/-- Shift amounts are unsigned (R107, R108). -/
def shlW (a : Word) (n : Nat) : Word := if 32 ≤ n then 0#32 else a <<< n
def shrW (a : Word) (n : Nat) : Word := if 32 ≤ n then 0#32 else a >>> n
def sarW (a : Word) (n : Nat) : Word := a.sshiftRight (min n 31)
def rotlW (a : Word) (n : Nat) : Word := a.rotateLeft (n % 32)
def rotrW (a : Word) (n : Nat) : Word := a.rotateRight (n % 32)
/-- SHF (R108): the funnel shift of hi:lo by min(n, 32). -/
def shfW (right : Bool) (hi lo : Word) (n : Nat) : Word :=
  let m := min n 32
  let x : DWord := hi ++ lo
  if right then (x >>> m).setWidth 32 else (x <<< m).extractLsb' 32 32

/-- POPC, CLZ, BREV (R108). -/
def popcW (a : Word) : Word := w32 (popCount a)
def clzW (a : Word) : Word := w32 (((List.range 32).find? (fun i => a.getLsbD (31 - i))).getD 32)
def brevW (a : Word) : Word := maskOf (fun i => a.getLsbD (31 - i))

/-- The field specification pos = s[7:0], len = min(s[15:8], 32) (R109). -/
def bfPos (s : Word) : Nat := (s.extractLsb' 0 8).toNat
def bfLen (s : Word) : Nat := min (s.extractLsb' 8 8).toNat 32
def bfeW (sx : Bool) (a s : Word) : Word :=
  let pos := bfPos s
  let len := bfLen s
  let bit (j : Nat) : Bool := if 31 < pos + j then sx && a.getLsbD 31 else a.getLsbD (pos + j)
  maskOf (fun j => if j < len then bit j else sx && decide (0 < len) && bit (len - 1))
/-- BFI: b with bits pos to pos + len − 1 from a (R109). -/
def bfiW (a b s : Word) : Word :=
  maskOf (fun i => if bfPos s ≤ i ∧ i < bfPos s + bfLen s then a.getLsbD (i - bfPos s) else b.getLsbD i)

/-! Shared bodies. -/

def Iss.sat2 (c : Iss) (z sat : Bool) (o : L2) (f : Int → Int → Int) : Run Group := do
  let d ← c.g.loc o.d.toNat
  let a ← c.g.asrc o.a
  let b ← c.g.src o.b
  return c.satLane d z sat (fun l => f (intOf z (a l)) (intOf z (b l))) (inPlace2 o)

def Iss.sat2l (c : Iss) (z sat : Bool) (o : L2L) (f : Int → Int → Int) : Run Group := do
  let d ← c.g.loc o.d.toNat
  let a ← c.g.asrc o.a
  return c.satLane d z sat (fun l => f (intOf z (a l)) (intOf z o.lit)) (inPlaceL o)

def Iss.sat1 (c : Iss) (sat : Bool) (o : L1) (f : Int → Int) (x : Bool) : Run Group := do
  let d ← c.g.loc o.d.toNat
  let a ← c.g.asrc o.a
  return c.satLane d false sat (fun l => f (intOf false (a l))) x

def Iss.sat64 (c : Iss) (z sat : Bool) (o : L2) (f : Int → Int → Int) : Run Group := do
  let d ← c.g.locPair o.d.toNat
  let a ← c.g.asrc64 o.a
  let b ← c.g.src64 o.b
  return c.satLane64 d z sat (fun l => f (intOf z (a l)) (intOf z (b l))) (inPlace2 o)

/-- A shift by src or by .i (R107). -/
def Iss.shiftOp (c : Iss) (o : Shift) (f : Word → Nat → Word) (canExact : Bool) : Run Group :=
  match o with
  | .src o => c.lane2 o (fun a b => f a b.toNat) (canExact && inPlace2 o)
  | .imm _ d a n => do
    let ld ← c.g.loc d.toNat
    let va ← c.g.src a
    return c.g.setV ld c.ex (fun l => f (va l) n.toNat) (canExact && a == .v d)

def shiftGuard (o : Shift) : Guard :=
  match o with
  | .src o => o.g
  | .imm g _ _ _ => g


/-- The smaller or the larger, by signedness (R101). -/
def minW (z : Bool) (a b : Word) : Word := if intOf z b < intOf z a then b else a
def maxW (z : Bool) (a b : Word) : Word := if intOf z a < intOf z b then b else a

/-! The meanings. -/

/-- IADD (R101, R102). -/
def execIadd (z sat : Bool) (o : L2) (s : State) : Out :=
  regOp 2 o.g s (fun c => c.sat2 z sat o (· + ·))

def execIaddL96 (z sat : Bool) (o : L2L) (s : State) : Out :=
  regOp 3 o.g s (fun c => c.sat2l z sat o (· + ·))

/-- ISUB (R101, R102). -/
def execIsub (z sat : Bool) (o : L2) (s : State) : Out :=
  regOp 2 o.g s (fun c => c.sat2 z sat o (· - ·))

def execIsubL96 (z sat : Bool) (o : L2L) (s : State) : Out :=
  regOp 3 o.g s (fun c => c.sat2l z sat o (· - ·))

/-- INEG (R101, R102). -/
def execIneg (sat : Bool) (o : L1) (s : State) : Out :=
  regOp 2 o.g s (fun c => c.sat1 sat o (fun a => -a) (inPlace1 o))

/-- IADD3 (R101). -/
def execIadd3 (o : L3) (s : State) : Out :=
  regOp 2 o.g s (fun c => c.lane3 o (fun a b e => a + b + e))

/-- IADD.64 (R101, R102). -/
def execIadd64 (z sat : Bool) (o : L2) (s : State) : Out :=
  regOp 2 o.g s (fun c => c.sat64 z sat o (· + ·))

/-- ISUB.64 (R101, R102). -/
def execIsub64 (z sat : Bool) (o : L2) (s : State) : Out :=
  regOp 2 o.g s (fun c => c.sat64 z sat o (· - ·))

/-- IMUL (R101). -/
def execImul (o : L2) (s : State) : Out :=
  regOp 2 o.g s (fun c => c.lane2 o (· * ·) false)

def execImulL96 (o : L2L) (s : State) : Out :=
  regOp 3 o.g s (fun c => c.lane2l o (· * ·) false)

/-- IMULHI (R101). -/
def execImulhi (z : Bool) (o : L2) (s : State) : Out :=
  regOp 2 o.g s (fun c => c.lane2 o (fun a b => BitVec.ofInt 32 (mulHi z a b)) false)

/-- IMAD (R101). -/
def execImad (o : L3) (s : State) : Out :=
  regOp 2 o.g s (fun c => c.lane3 o (fun a b e => a * b + e))

def execImadL96 (o : L3L) (s : State) : Out :=
  regOp 3 o.g s (fun c => c.lane3l o (fun a b e => a * b + e))

/-- IMADHI (R101). -/
def execImadhi (z : Bool) (o : L3) (s : State) : Out :=
  regOp 2 o.g s (fun c => c.lane3 o (fun a b e => BitVec.ofInt 32 (mulHi z a b) + e))

/-- IMIN (R101). -/
def execImin (z : Bool) (o : L2) (s : State) : Out :=
  regOp 2 o.g s (fun c => c.lane2 o (minW z) false)

def execIminL96 (z : Bool) (o : L2L) (s : State) : Out :=
  regOp 3 o.g s (fun c => c.lane2l o (minW z) false)

/-- IMAX (R101). -/
def execImax (z : Bool) (o : L2) (s : State) : Out :=
  regOp 2 o.g s (fun c => c.lane2 o (maxW z) false)

def execImaxL96 (z : Bool) (o : L2L) (s : State) : Out :=
  regOp 3 o.g s (fun c => c.lane2l o (maxW z) false)

/-- IABS (R101). -/
def execIabs (sat : Bool) (o : L1) (s : State) : Out :=
  regOp 2 o.g s (fun c => c.sat1 sat o (fun a => (a.natAbs : Int)) false)

/-- IDIV (R105). -/
def execIdiv (z : Bool) (o : L2) (s : State) : Out :=
  regOp 2 o.g s (fun c => c.lane2 o (divW z) false)

/-- IREM (R105). -/
def execIrem (z : Bool) (o : L2) (s : State) : Out :=
  regOp 2 o.g s (fun c => c.lane2 o (remW z) false)

/-- The in-place short forms (R106). -/
def execAddS (d a : VReg) (s : State) : Out :=
  regOp 1 always s (fun c => c.short d a (· + ·))

def execSubS (d a : VReg) (s : State) : Out :=
  regOp 1 always s (fun c => c.short d a (· - ·))

def execXorS (d a : VReg) (s : State) : Out :=
  regOp 1 always s (fun c => c.short d a (· ^^^ ·))

def execRotlS (d a : VReg) (s : State) : Out :=
  regOp 1 always s (fun c => c.short d a (fun x y => rotlW x y.toNat))

def execNegS (d : VReg) (s : State) : Out :=
  regOp 1 always s (fun c => do
    let l ← c.g.loc d.toNat
    return c.g.setV l c.ex (fun n => - c.g.rdV l n) true)

/-- Shifts and rotations (R108, R110). -/
def execShl (o : Shift) (s : State) : Out :=
  regOp 2 (shiftGuard o) s (fun c => c.shiftOp o shlW false)

def execShr (o : Shift) (s : State) : Out :=
  regOp 2 (shiftGuard o) s (fun c => c.shiftOp o shrW false)

def execSar (o : Shift) (s : State) : Out :=
  regOp 2 (shiftGuard o) s (fun c => c.shiftOp o sarW false)

def execRotl (o : Shift) (s : State) : Out :=
  regOp 2 (shiftGuard o) s (fun c => c.shiftOp o rotlW true)

def execRotr (o : Shift) (s : State) : Out :=
  regOp 2 (shiftGuard o) s (fun c => c.shiftOp o rotrW true)

/-- SHF (R107, R108). -/
def execShf (r : Bool) (g : Guard) (d : VReg) (hi lo : Src) (amt : ShfAmt) (s : State) : Out :=
  regOp 2 g s (fun c => do
    let ld ← c.g.loc d.toNat
    let vh ← c.g.src hi
    let vl ← c.g.src lo
    let n ← match amt with
      | .v n => do
        let e ← c.g.loc n.toNat
        pure (fun l => (c.g.rdV e l).toNat)
      | .imm n => pure (fun _ => n.toNat)
    return c.g.setV ld c.ex (fun l => shfW r (vh l) (vl l) (n l)) false)

def execPopc (o : L1) (s : State) : Out :=
  regOp 2 o.g s (fun c => c.lane1 o popcW false)

def execClz (o : L1) (s : State) : Out :=
  regOp 2 o.g s (fun c => c.lane1 o clzW false)

def execBrev (o : L1) (s : State) : Out :=
  regOp 2 o.g s (fun c => c.lane1 o brevW (inPlace1 o))

/-- BFE and BFI (R109). -/
def execBfe (sx : Bool) (o : L2) (s : State) : Out :=
  regOp 2 o.g s (fun c => c.lane2 o (bfeW sx) false)

def execBfi (o : L3) (s : State) : Out :=
  regOp 2 o.g s (fun c => c.lane3 o bfiW)

end Sys2Proof.Machine
end

