-- ==== Sys2Proof/Machine/Logic.lean ====
section
/-! DEFINITION. Machine/Logic.lean: bitwise logic, predicates, comparisons, select and the lane moves (04 R111 to R119). -/

namespace Sys2Proof.Machine

/-- TRIL: bit i is bit a[i] + 2 b[i] + 4 c[i] of the table (R112). -/
def trilW (t : Byte) (a b c : Word) : Word :=
  maskOf (fun i => t.getLsbD ((if a.getLsbD i then 1 else 0) + (if b.getLsbD i then 2 else 0) +
    (if c.getLsbD i then 4 else 0)))

/-- A predicate operand after its negate bit (R113). -/
def Group.predN (g : Group) (n : Bool) (p : PReg) : Mask := if n then ~~~(g.rdP p.toNat) else g.rdP p.toNat

def Iss.pbin (c : Iss) (na nb : Bool) (o : P2) (f : Mask → Mask → Mask) (x : Bool) : Run Group :=
  .ok (c.pred o.d (f (c.g.predN na o.a) (c.g.predN nb o.b)) x)

/-- An in-place predicate form is class X unless its guard is its destination (R115, R226). -/
def predExact (g : Guard) (d : PReg) : Bool := g.p != d

/-- PTOV's value in a lane: bit i is P(l, A + i) for i < n (R114). -/
def Group.ptov (g : Group) (a n lane : Nat) : Word :=
  maskUpTo (fun i => decide (i < n) && (g.rdP (a + i)).getLsbD lane) 32

/-- VTOP writes P(l, D + i) := V(l, A)[i] for i < n, lowest predicate first; the entries come first (R114, R115). -/
def Iss.vtopRec (c : Iss) (d : Nat) : Nat → Group → Group
  | 0, g => g
  | n + 1, g => (c.vtopRec d n g).recP (d + n) c.ex false
def Iss.vtopWr (c : Iss) (d : Nat) (a : Vals) : Nat → Group → Group
  | 0, g => g
  | n + 1, g => (c.vtopWr d a n g).wrP (d + n) c.ex (maskOf (fun l => (a l).getLsbD n))

/-- A comparison of 32-bit integers in every lane (R117). -/
def cmpMask (cc : Cc) (z : Bool) (a b : Vals) : Mask := maskOf (fun l => ccHolds cc (intOf z (a l)) (intOf z (b l)))

/-! FP32 comparison (R117): on the bits, −0 equal to +0. -/

def isNan32 (x : Word) : Bool := x.extractLsb' 23 8 == 0xFF#8 && x.extractLsb' 0 23 != 0#23
/-- The order of FP32 values that are not NaN, as integers: the magnitude with the sign. -/
def ordF32 (x : Word) : Int := if x.getLsbD 31 then -((x.setWidth 31).toNat : Int) else ((x.setWidth 31).toNat : Int)

/-- The comparison of FSETP (R117). -/
def fccHolds (cc : FCc) (unord : Bool) (a b : Word) : Bool :=
  let n := isNan32 a || isNan32 b
  match cc with
  | .num => !n
  | .nan => n
  | .eq => if n then unord else decide (ordF32 a = ordF32 b)
  | .ne => if n then unord else decide (ordF32 a ≠ ordF32 b)
  | .lt => if n then unord else decide (ordF32 a < ordF32 b)
  | .le => if n then unord else decide (ordF32 a ≤ ordF32 b)
  | .gt => if n then unord else decide (ordF32 b < ordF32 a)
  | .ge => if n then unord else decide (ordF32 b ≤ ordF32 a)

def fcmpMask (cc : FCc) (u : Bool) (a b : Vals) : Mask := maskOf (fun l => fccHolds cc u (a l) (b l))

/-- Every lane or none. -/
def allLanes (b : Bool) : Mask := if b then fullMask else 0#32

/-- MOV of lane registers (R119). -/
def Iss.movOp (c : Iss) (d : Nat) (src : Run Loc) (x : Bool) : Run Group := do
  let ld ← c.g.loc d
  let la ← src
  return c.g.setV ld c.ex (c.g.rdV la) x

/-- SWAP: class X; D's entry, then A's, where the grade asks for them (R119, R225, R226). -/
def Iss.swapOp (c : Iss) (d : Nat) (src : Run Loc) : Run Group := do
  let ld ← c.g.loc d
  let la ← src
  return c.g.setV2 ld la c.ex (c.g.rdV la) (c.g.rdV ld) true

/-! The meanings. -/

/-- Bitwise logic (R112). -/
def execAnd (o : L2) (s : State) : Out :=
  regOp 2 o.g s (fun c => c.lane2 o (· &&& ·) (false))

def execAndL96 (o : L2L) (s : State) : Out :=
  regOp 3 o.g s (fun c => c.lane2l o (· &&& ·) (false))

def execOr (o : L2) (s : State) : Out :=
  regOp 2 o.g s (fun c => c.lane2 o (· ||| ·) (false))

def execOrL96 (o : L2L) (s : State) : Out :=
  regOp 3 o.g s (fun c => c.lane2l o (· ||| ·) (false))

def execXor (o : L2) (s : State) : Out :=
  regOp 2 o.g s (fun c => c.lane2 o (· ^^^ ·) (inPlace2 o))

def execXorL96 (o : L2L) (s : State) : Out :=
  regOp 3 o.g s (fun c => c.lane2l o (· ^^^ ·) (inPlaceL o))

/-- NOT (R112). -/
def execNot (d a : VReg) (s : State) : Out :=
  regOp 1 always s (fun c => do
    let ld ← c.g.loc d.toNat
    let la ← c.g.loc a.toNat
    return c.g.setV ld c.ex (fun l => ~~~(c.g.rdV la l)) (d == a))

def execNotW64 (o : L1) (s : State) : Out :=
  regOp 2 o.g s (fun c => c.lane1 o (fun a => ~~~a) (inPlace1 o))

/-- TRIL (R111, R112). -/
def execTril (g : Guard) (d : VReg) (a b : Src) (e : VReg) (table : Byte) (s : State) : Out :=
  regOp 3 g s (fun c => do
    let ld ← c.g.loc d.toNat
    let va ← c.g.src a
    let vb ← c.g.src b
    let le ← c.g.loc e.toNat
    return c.g.setV ld c.ex (fun l => trilW table (va l) (vb l) (c.g.rdV le l)) false)

/-- Predicate logic (R114, R115). -/
def execPand (na nb : Bool) (o : P2) (s : State) : Out :=
  regOp 2 o.g s (fun c => c.pbin na nb o (· &&& ·) false)

def execPor (na nb : Bool) (o : P2) (s : State) : Out :=
  regOp 2 o.g s (fun c => c.pbin na nb o (· ||| ·) false)

def execPxor (na nb : Bool) (o : P2) (s : State) : Out :=
  regOp 2 o.g s (fun c => c.pbin na nb o (· ^^^ ·) (o.d == o.a && o.b != o.d && predExact o.g o.d))

def execPnot (g : Guard) (d a : PReg) (s : State) : Out :=
  regOp 2 g s (fun c => .ok (c.pred d (~~~(c.g.rdP a.toNat)) (d == a && predExact g d)))

/-- PTOV (R114). -/
def execPtov (g : Guard) (d : VReg) (a : PReg) (n : BitVec 8) (s : State) : Out :=
  regOp 2 g s (fun c => do
    let ld ← c.g.loc d.toNat
    return c.g.setV ld c.ex (c.g.ptov a.toNat n.toNat) false)

/-- VTOP (R114). -/
def execVtop (g : Guard) (d : PReg) (a : Src) (n : BitVec 8) (s : State) : Out :=
  regOp 2 g s (fun c => do
    let va ← c.g.src a
    return c.vtopWr d.toNat va n.toNat (c.vtopRec d.toNat n.toNat c.g))

/-- Comparisons (R117). -/
def execIsetp (cc : Cc) (z : Bool) (bop : Bop) (o : SetP) (s : State) : Out :=
  regOp 2 o.g s (fun c => do
    let a ← c.g.src o.a
    let b ← c.g.src o.b
    return c.setp o.d (cmpMask cc z a b) bop o.c)

def execIsetpL96 (cc : Cc) (z : Bool) (bop : Bop) (o : SetPL) (s : State) : Out :=
  regOp 3 o.g s (fun c => do
    let a ← c.g.src o.a
    return c.setp o.d (cmpMask cc z a (fun _ => o.lit)) bop o.c)

def execFsetp (cc : FCc) (u : Bool) (bop : Bop) (o : SetP) (s : State) : Out :=
  regOp 2 o.g s (fun c => do
    let a ← c.g.src o.a
    let b ← c.g.src o.b
    return c.setp o.d (fcmpMask cc u a b) bop o.c)

def execFsetpL96 (cc : FCc) (u : Bool) (bop : Bop) (o : SetPL) (s : State) : Out :=
  regOp 3 o.g s (fun c => do
    let a ← c.g.src o.a
    return c.setp o.d (fcmpMask cc u a (fun _ => o.lit)) bop o.c)

def execKsetp (cc : Cc) (z : Bool) (bop : Bop) (g : Guard) (d : PReg) (a b : KReg) (e : PReg) (s : State) : Out :=
  regOp 2 g s (fun c =>
    .ok (c.setp d (allLanes (ccHolds cc (intOf z (c.g.rdK a.toNat)) (intOf z (c.g.rdK b.toNat)))) bop e))

def execKsetpL96 (cc : Cc) (z : Bool) (bop : Bop) (g : Guard) (d : PReg) (a : KReg) (lit : Word) (e : PReg) (s : State) : Out :=
  regOp 3 g s (fun c =>
    .ok (c.setp d (allLanes (ccHolds cc (intOf z (c.g.rdK a.toNat)) (intOf z (sext64 lit)))) bop e))

/-- SEL (R117). -/
def execSel (nc : Bool) (g : Guard) (d : VReg) (a b : Src) (e : PReg) (s : State) : Out :=
  regOp 2 g s (fun c => do
    let ld ← c.g.loc d.toNat
    let va ← c.g.src a
    let vb ← c.g.src b
    return c.g.setV ld c.ex (fun l => if (c.g.predN nc e).getLsbD l then va l else vb l) false)

/-- Moves (R119). -/
def execMov (d a : VReg) (s : State) : Out :=
  regOp 1 always s (fun c => c.movOp d.toNat (c.g.loc a.toNat) (d == a))

def execMovW64 (g : Guard) (d : VReg) (a : LSrc) (s : State) : Out :=
  regOp 2 g s (fun c => c.movOp d.toNat (c.g.lloc a) (a == .v d))

def execMovi (g : Guard) (d : VReg) (lit : Word) (s : State) : Out :=
  regOp 3 g s (fun c => do
    let ld ← c.g.loc d.toNat
    return c.g.setV ld c.ex (fun _ => lit) false)

def execMovk (hi : Bool) (g : Guard) (d : VReg) (a : KReg) (s : State) : Out :=
  regOp 2 g s (fun c => do
    let ld ← c.g.loc d.toNat
    let x := if hi then hiW (c.g.rdK a.toNat) else loW (c.g.rdK a.toNat)
    return c.g.setV ld c.ex (fun _ => x) false)

def execSwap (d a : VReg) (s : State) : Out :=
  regOp 1 always s (fun c => c.swapOp d.toNat (c.g.loc a.toNat))

def execSwapW64 (g : Guard) (d : VReg) (a : LSrc) (s : State) : Out :=
  regOp 2 g s (fun c => c.swapOp d.toNat (c.g.lloc a))

end Sys2Proof.Machine
end

