-- ==== Sys2Proof/Machine/Float.lean ====
section
/-! DEFINITION. Machine/Float.lean: floating formats, exact values and rounding (05_lane_float_crosslane R136 to R145,
11_matrix R267 to R270). A value is computed exactly, or as a long truncated expansion marked inexact, and rounded once. -/

namespace Sys2Proof.Machine

/-- A floating format: exponent and fraction bits, bias, the code of the largest finite magnitude, the canonical NaN, whether
it has infinities and NaNs at the top of its codes (R136, R267, R268). -/
structure Fmt where
  eb     : Nat
  fb     : Nat
  bias   : Nat
  maxFin : Nat
  nanC   : Nat
  ieee   : Bool
  deriving DecidableEq, Repr

def fmtF32 : Fmt := ⟨8, 23, 127, 0x7F7FFFFF, 0x7FC00000, true⟩
def fmtF16 : Fmt := ⟨5, 10, 15, 0x7BFF, 0x7E00, true⟩
def fmtBf16 : Fmt := ⟨8, 7, 127, 0x7F7F, 0x7FC0, true⟩
def fmtE4m3 : Fmt := ⟨4, 3, 7, 0x7E, 0x7F, false⟩
def fmtE5m2 : Fmt := ⟨5, 2, 15, 0x7B, 0x7E, true⟩
def fmtE2m1 : Fmt := ⟨2, 1, 1, 0x7, 0x7, false⟩
def fmtE3m2 : Fmt := ⟨3, 2, 3, 0x1F, 0x1F, false⟩
def fmtE2m3 : Fmt := ⟨2, 3, 1, 0x1F, 0x1F, false⟩

def Fmt.width (f : Fmt) : Nat := f.eb + f.fb + 1
/-- The code of +∞. -/
def Fmt.infC (f : Fmt) : Nat := (2 ^ f.eb - 1) * 2 ^ f.fb
/-- The exponent of the smallest subnormal. -/
def Fmt.qmin (f : Fmt) : Int := 1 - f.bias - f.fb

/-- A value: NaN, an infinity, or (−1)^neg × m × 2^e. -/
inductive FVal where
  | nan
  | inf (neg : Bool)
  | fin (neg : Bool) (m : Nat) (e : Int)
  deriving DecidableEq, Repr

/-- The value of a code (R136, R137, R267, R268). -/
def Fmt.val (f : Fmt) (x : Nat) : FVal :=
  let neg := x / 2 ^ (f.eb + f.fb) % 2 == 1
  let ex := x / 2 ^ f.fb % 2 ^ f.eb
  let fr := x % 2 ^ f.fb
  if f.ieee && ex == 2 ^ f.eb - 1 then (if fr = 0 then .inf neg else .nan)
  else if f == fmtE4m3 && x % 2 ^ (f.eb + f.fb) == 0x7F then .nan
  else if ex = 0 then .fin neg fr f.qmin
  else .fin neg (2 ^ f.fb + fr) (f.qmin + (ex - 1 : Int))

/-- A rational magnitude num / den × 2^e. -/
structure Rat2 where
  num : Nat
  den : Nat
  e   : Int
  deriving DecidableEq, Repr

/-- num × 2^e as a numerator over a denominator at scale 2^q. -/
def Rat2.at_ (r : Rat2) (q : Int) : Nat × Nat :=
  if q ≤ r.e then (r.num * 2 ^ (r.e - q).toNat, r.den) else (r.num, r.den * 2 ^ (q - r.e).toNat)

/-- ⌊log2⌋ of a positive magnitude. -/
def Rat2.log2 (r : Rat2) : Int :=
  let k : Int := (Nat.log2 r.num : Int) - Nat.log2 r.den + r.e
  let (n, d) := r.at_ k
  if n < d then k - 1 else if 2 * d ≤ n then k + 1 else k

/-- Whether a rounding step goes up in magnitude (R139): the integer part, the remainder over den. -/
def roundUp (rm : Rm) (neg : Bool) (fl rem den : Nat) : Bool :=
  match rm with
  | .rn => decide (den < 2 * rem) || (2 * rem == den && fl % 2 == 1)
  | .rz => false
  | .ru => !neg && rem != 0
  | .rd => neg && rem != 0

/-- The magnitude code after rounding, the exponent range unbounded above (R139). -/
def Fmt.roundMag (f : Fmt) (rm : Rm) (neg : Bool) (r : Rat2) : Nat :=
  if r.num = 0 then 0
  else
    let q := max (r.log2 - f.fb) f.qmin
    let (n, d) := r.at_ q
    let fl := n / d
    let m := if roundUp rm neg fl (n % d) d then fl + 1 else fl
    (q - f.qmin).toNat * 2 ^ f.fb + m

def Fmt.signed (f : Fmt) (neg : Bool) (c : Nat) : Nat := if neg then 2 ^ (f.eb + f.fb) + c else c

/-- What an overflow gives (R139). -/
def Fmt.overflow (f : Fmt) (rm : Rm) (neg : Bool) : Nat :=
  match rm, neg with
  | .rz, _ => f.maxFin
  | .ru, true => f.maxFin
  | .rd, false => f.maxFin
  | _, _ => f.infC

/-- A finite magnitude rounded once into the format (R139). -/
def Fmt.round (f : Fmt) (rm : Rm) (neg : Bool) (r : Rat2) : Nat :=
  let c := f.roundMag rm neg r
  f.signed neg (if f.maxFin < c then f.overflow rm neg else c)

/-- A value rounded into the format; NaN gives the canonical NaN (R138, R139). -/
def Fmt.ofVal (f : Fmt) (rm : Rm) (v : FVal) : Nat :=
  match v with
  | .nan => f.nanC
  | .inf neg => f.signed neg f.infC
  | .fin neg m e => f.round rm neg ⟨m, 1, e⟩

/-- Whether a value's exact magnitude exceeds the largest finite value (R149, R270). -/
def Fmt.exceeds (f : Fmt) (r : Rat2) : Bool :=
  match f.val f.maxFin with
  | .fin _ m e =>
    let q := min r.e e
    let (n, d) := r.at_ q
    decide (m * 2 ^ (e - q).toNat * d < n)
  | _ => false

/-! Arithmetic on values (R139, R141). -/

def FVal.neg : FVal → FVal
  | .nan => .nan
  | .inf n => .inf (!n)
  | .fin n m e => .fin (!n) m e
def FVal.abs : FVal → FVal
  | .nan => .nan
  | .inf _ => .inf false
  | .fin _ m e => .fin false m e
def FVal.isNan : FVal → Bool
  | .nan => true
  | _ => false
def FVal.isZero : FVal → Bool
  | .fin _ 0 _ => true
  | _ => false

/-- A sum, exact; the sign of an exact zero follows the mode (R139). -/
def FVal.add (rm : Rm) (x y : FVal) : FVal :=
  match x, y with
  | .nan, _ => .nan
  | _, .nan => .nan
  | .inf a, .inf b => if a = b then .inf a else .nan
  | .inf a, _ => .inf a
  | _, .inf b => .inf b
  | .fin a m e, .fin b n g =>
    let q := min e g
    let p : Int := m * 2 ^ (e - q).toNat
    let r : Int := n * 2 ^ (g - q).toNat
    let t := (if a then -p else p) + (if b then -r else r)
    if t = 0 then
      (if m = 0 ∧ n = 0 ∧ a = b then .fin a 0 q else .fin (rm == .rd) 0 q)
    else .fin (decide (t < 0)) t.natAbs q

/-- A product, exact. -/
def FVal.mul (x y : FVal) : FVal :=
  match x, y with
  | .nan, _ => .nan
  | _, .nan => .nan
  | .inf a, .inf b => .inf (a != b)
  | .inf a, .fin b m _ => if m = 0 then .nan else .inf (a != b)
  | .fin a m _, .inf b => if m = 0 then .nan else .inf (a != b)
  | .fin a m e, .fin b n g => .fin (a != b) (m * n) (e + g)

/-- The order of two values that are not NaN; −0 below +0 (R142). -/
def FVal.lt (x y : FVal) : Bool :=
  let key : FVal → Int → Int := fun v q => match v with
    | .fin n m e => let p : Int := m * 2 ^ (e - q).toNat; if n then -p else p
    | _ => 0
  match x, y with
  | .inf a, .inf b => a && !b
  | .inf a, _ => a
  | _, .inf b => !b
  | .fin a m e, .fin b n g =>
    if m = 0 ∧ n = 0 then a && !b else decide (key x (min e g) < key y (min e g))
  | _, _ => false

/-- .abs then .neg on a value (R140). -/
def FVal.modA (abs neg : Bool) (v : FVal) : FVal :=
  let v := if abs then v.abs else v
  if neg then v.neg else v

/-- .abs then .neg on the bits of a w-bit format. -/
def modBits (f : Fmt) (abs neg : Bool) (x : Nat) : Nat :=
  let s := 2 ^ (f.eb + f.fb)
  let x := if abs then x % s else x
  if neg then (if x / s % 2 = 1 then x - s else x + s) else x

/-- FMIN and FMAX on bits: an operand unchanged (R142). -/
def Fmt.minMax (f : Fmt) (wantMax : Bool) (a b : Nat) : Nat :=
  let va := f.val a
  let vb := f.val b
  if va.isNan && vb.isNan then f.nanC
  else if va.isNan then b
  else if vb.isNan then a
  else if wantMax then (if va.lt vb then b else a) else (if vb.lt va then b else a)

/-- FCLASS's bit (R143). -/
def Fmt.classOf (f : Fmt) (x : Nat) : Nat :=
  match f.val x with
  | .nan => if x / 2 ^ (f.fb - 1) % 2 = 0 then 8 else 9
  | .inf n => if n then 0 else 7
  | .fin n m _ =>
    if m = 0 then (if n then 3 else 4)
    else if m < 2 ^ f.fb then (if n then 2 else 5)
    else (if n then 1 else 6)

/-! Special functions (R145). -/

/-- ⌊√n⌋ by bits: i bits left, r so far. -/
def isqrt (n : Nat) : Nat → Nat → Nat
  | 0, r => r
  | i + 1, r => isqrt n i (if (r + 2 ^ i) * (r + 2 ^ i) ≤ n then r + 2 ^ i else r)

/-- A magnitude known to lie at n × 2^e, or strictly between n and n + 1 times 2^e when inexact. -/
def sticky (n : Nat) (e : Int) (inexact : Bool) : Rat2 := ⟨2 * n + (if inexact then 1 else 0), 1, e - 1⟩

/-- √(m × 2^e) to 80 bits and more. -/
def sqrtRat (m : Nat) (e : Int) : Rat2 :=
  let (m, e) := if e % 2 = 0 then (m, e) else (2 * m, e - 1)
  let n := m * 2 ^ 160
  let r := isqrt n 100 0
  sticky r (e / 2 - 80) (r * r != n)

/-- 1 / √(m × 2^e). -/
def rsqrtRat (m : Nat) (e : Int) : Rat2 :=
  let (m, e) := if e % 2 = 0 then (m, e) else (2 * m, e - 1)
  let n := 2 ^ 240 / m
  let r := isqrt n 130 0
  sticky r (-(e / 2) - 120) (r * r * m != 2 ^ 240)

/-- ln 2 and π at scale 2^256, truncated. -/
def ln2Fix : Nat := 80260960185991308862233904206310070533990667611589946606122867505419956976171
def piFix : Nat := 363771576891766324280234942777729862653393377328392429958772151117938894466185

/-- Σ y^k / k! at scale 2^256, term `t` of index k first. -/
def expSeries (y : Nat) : Nat → Nat → Nat → Nat
  | 0, _, _ => 0
  | n + 1, k, t => t + expSeries y n (k + 1) (t * y / 2 ^ 256 / (k + 1))

/-- 2^f for f = x / 2^256 in [0, 1), at scale 2^256. -/
def exp2Fix (x : Nat) : Nat := expSeries (x * ln2Fix / 2 ^ 256) 80 0 (2 ^ 256)

/-- The alternating series of sin y at scale 2^256: term t of odd index k, its sign last. -/
def sinSeries (y : Nat) : Nat → Nat → Int → Int
  | 0, _, _ => 0
  | n + 1, k, t => t - sinSeries y n (k + 2) (t * y * y / 2 ^ 512 / ((k + 1) * (k + 2)))

/-- sin(π r) for r = x / 2^256 in (0, 1/2), at scale 2^256, below 1. -/
def sinFix (x : Nat) : Nat :=
  let y := x * piFix / 2 ^ 256
  min (sinSeries y 50 1 y).toNat (2 ^ 256 - 1)

/-- Digits of log2 u, u at scale 2^300 in [1, 2): n binary digits. -/
def log2Digits : Nat → Nat → Nat
  | 0, _ => 0
  | n + 1, u =>
    let v := u * u / 2 ^ 300
    if 2 ^ 301 ≤ v then 2 ^ n + log2Digits n (v / 2) else log2Digits n v

/-- The faithful choice: the lower of the two FP32 magnitudes that bracket the exact value, or the next, or the value
itself when it is representable (R145). `op` names the instruction by its OP. -/
def faithful (op : Nat) (input : Word) (neg : Bool) (r : Rat2) : Nat :=
  let lo := fmtF32.roundMag .rz neg r
  let hi := fmtF32.roundMag (if neg then .rd else .ru) neg r
  fmtF32.signed neg (if lo = hi then lo else if Config.faithfulUp op input then hi else lo)

/-- m × 2^e with e ≥ −256 as a number at scale 2^256. -/
def atScale (m : Nat) (e : Int) : Nat := m * 2 ^ (e + 256).toNat

def frcpVal (rm : Rm) (v : FVal) : Nat :=
  match v with
  | .nan => fmtF32.nanC
  | .inf n => fmtF32.signed n 0
  | .fin n m e => if m = 0 then fmtF32.signed n fmtF32.infC else fmtF32.round rm n ⟨1, m, -e⟩

def fsqrtVal (rm : Rm) (v : FVal) : Nat :=
  match v with
  | .nan => fmtF32.nanC
  | .inf n => if n then fmtF32.nanC else fmtF32.infC
  | .fin n m e =>
    if m = 0 then fmtF32.signed n 0 else if n then fmtF32.nanC else fmtF32.round rm false (sqrtRat m e)

/-- The functions that are faithful; `x` is the input after .abs and .neg, whose bits fix the choice. -/
def frsqVal (x : Word) : Nat :=
  match fmtF32.val x.toNat with
  | .nan => fmtF32.nanC
  | .inf n => if n then fmtF32.nanC else 0
  | .fin n m e =>
    if m = 0 then fmtF32.signed n fmtF32.infC else if n then fmtF32.nanC else faithful 0x48 x false (rsqrtRat m e)

def fexp2Val (x : Word) : Nat :=
  match fmtF32.val x.toNat with
  | .nan => fmtF32.nanC
  | .inf n => if n then 0 else fmtF32.infC
  | .fin n m e =>
    if !n && decide (128 * 2 ^ 256 ≤ atScale m e) then fmtF32.infC
    else if n && decide (150 * 2 ^ 256 ≤ atScale m e) then 0
    else
      let t := atScale m e
      let i : Int := if n then -((t + 2 ^ 256 - 1) / 2 ^ 256 : Int) else (t / 2 ^ 256 : Int)
      let f := if n then (2 ^ 256 - t % 2 ^ 256) % 2 ^ 256 else t % 2 ^ 256
      faithful 0x4A x false (if f = 0 then ⟨1, 1, i⟩ else sticky (exp2Fix f) (i - 256) true)

def flog2Val (x : Word) : Nat :=
  match fmtF32.val x.toNat with
  | .nan => fmtF32.nanC
  | .inf n => if n then fmtF32.nanC else fmtF32.infC
  | .fin n m e =>
    if m = 0 then fmtF32.signed true fmtF32.infC
    else if n then fmtF32.nanC
    else
      let k : Int := Nat.log2 m + e
      if m = 2 ^ Nat.log2 m then
        (if k = 0 then 0 else fmtF32.round .rn (decide (k < 0)) ⟨k.natAbs, 1, 0⟩)
      else
        let b := log2Digits 112 (m * 2 ^ 300 / 2 ^ Nat.log2 m)
        if k < 0 then faithful 0x4B x true (sticky (k.natAbs * 2 ^ 112 - b - 1) (-112) true)
        else faithful 0x4B x false (sticky (k.toNat * 2 ^ 112 + b) (-112) true)

/-- |x| modulo 2 at scale 2^256; a large x is an even integer or a multiple of one unit of it. -/
def turnOf (m : Nat) (e : Int) : Nat := atScale m e % (2 * 2 ^ 256)

def fsinVal (x : Word) : Nat :=
  match fmtF32.val x.toNat with
  | .nan => fmtF32.nanC
  | .inf _ => fmtF32.nanC
  | .fin n m e =>
    let t := turnOf m e
    let one := 2 ^ 256
    if t % one = 0 then fmtF32.signed n 0
    else
      let neg := n != decide (one ≤ t)
      let r := t % one
      let r := if one / 2 < r then one - r else r
      faithful 0x4C x neg (if r = one / 2 then ⟨1, 1, 0⟩ else sticky (sinFix r) (-256) true)

def fcosVal (x : Word) : Nat :=
  match fmtF32.val x.toNat with
  | .nan => fmtF32.nanC
  | .inf _ => fmtF32.nanC
  | .fin _ m e =>
    let t := turnOf m e
    let one := 2 ^ 256
    let r := if one < t then 2 * one - t else t
    if r = one / 2 then 0
    else if r = 0 then fmtF32.round .rn false ⟨1, 1, 0⟩
    else if r = one then fmtF32.round .rn true ⟨1, 1, 0⟩
    else if r < one / 2 then faithful 0x4D x false (sticky (sinFix (one / 2 - r)) (-256) true)
    else faithful 0x4D x true (sticky (sinFix (r - one / 2)) (-256) true)

/-! Rounding to integers (R151). -/

/-- A magnitude rounded to an integer. -/
def roundInt (rm : Rm) (neg : Bool) (r : Rat2) : Nat :=
  let (n, d) := r.at_ 0
  if roundUp rm neg (n / d) (n % d) d then n / d + 1 else n / d

def signInt (neg : Bool) (n : Nat) : Int := if neg then -(n : Int) else n

end Sys2Proof.Machine
end

