-- ==== Sys2Proof/Machine/Fp.lean ====
section
/-! DEFINITION. Machine/Fp.lean: FP32 arithmetic, the special functions and packed half precision (05 R140 to R147). -/

namespace Sys2Proof.Machine

def f32 (x : Word) : FVal := fmtF32.val x.toNat

/-- A of the FP32 arithmetic after .abs and .neg (R140). -/
def fmodVal (m : FMod) (a : Word) : FVal := FVal.modA m.abs m.neg (f32 a)

def faddW (m : FMod) (a b : Word) : Word := w32 (fmtF32.ofVal m.rm (FVal.add m.rm (fmodVal m a) (f32 b)))
def fsubW (m : FMod) (a b : Word) : Word := w32 (fmtF32.ofVal m.rm (FVal.add m.rm (fmodVal m a) (f32 b).neg))
def fmulW (m : FMod) (a b : Word) : Word := w32 (fmtF32.ofVal m.rm (FVal.mul (fmodVal m a) (f32 b)))
/-- One rounding (R141). -/
def ffmaW (m : FMod) (a b c : Word) : Word :=
  w32 (fmtF32.ofVal m.rm (FVal.add m.rm (FVal.mul (fmodVal m a) (f32 b)) (f32 c)))

def anegBits (m : ANeg) (a : Word) : Word := w32 (modBits fmtF32 m.abs m.neg a.toNat)
def fminW (m : ANeg) (a b : Word) : Word := w32 (fmtF32.minMax false (anegBits m a).toNat b.toNat)
def fmaxW (m : ANeg) (a b : Word) : Word := w32 (fmtF32.minMax true (anegBits m a).toNat b.toNat)

def ffmtOf : FFmt → Fmt
  | .f32 => fmtF32
  | .f16 => fmtF16
  | .bf16 => fmtBf16

/-- A 16-bit field of a lane register (R148). -/
def halfOf (hi : Bool) (x : Word) : Nat := if hi then x.toNat / 65536 else x.toNat % 65536
/-- The register with a 16-bit field replaced (R148). -/
def putHalf (hi : Bool) (x : Word) (h : Nat) : Word :=
  if hi then w32 (65536 * (h % 65536) + x.toNat % 65536) else w32 (x.toNat / 65536 * 65536 + h % 65536)

/-- FCLASS (R143). -/
def fclassW (fmt : FFmt) (hs : Bool) (a : Word) : Word :=
  w32 (2 ^ (ffmtOf fmt).classOf (if fmt = .f32 then a.toNat else halfOf hs a))

/-! Packed half precision (R146, R147): element i of A, of the second source (1 − i with .x), of C. -/

def pkFmt (bf16 : Bool) : Fmt := if bf16 then fmtBf16 else fmtF16

/-- The word made of the two element results. -/
def pkWord (f : Bool → Nat) : Word := w32 (f true % 65536 * 65536 + f false % 65536)

def pkB (x i : Bool) : Bool := i != x
def pkA (m : PkMod) (a : Word) (i : Bool) : FVal := FVal.modA false m.neg ((pkFmt m.bf16).val (halfOf i a))
def pkV (m : PkMod) (b : Word) (i : Bool) : FVal := (pkFmt m.bf16).val (halfOf i b)

def pkaddW (m : PkMod) (a b : Word) : Word :=
  pkWord (fun i => (pkFmt m.bf16).ofVal m.rm (FVal.add m.rm (pkA m a i) (pkV m b (pkB m.x i))))
def pkmulW (m : PkMod) (a b : Word) : Word :=
  pkWord (fun i => (pkFmt m.bf16).ofVal m.rm (FVal.mul (pkA m a i) (pkV m b (pkB m.x i))))
def pkfmaW (m : PkMod) (a b c : Word) : Word :=
  pkWord (fun i => (pkFmt m.bf16).ofVal m.rm
    (FVal.add m.rm (FVal.mul (pkA m a i) (pkV m b (pkB m.x i))) (pkV m c i)))
def pkminmaxW (wantMax bf16 neg x : Bool) (a b : Word) : Word :=
  let f := pkFmt bf16
  pkWord (fun i => f.minMax wantMax (modBits f false neg (halfOf i a)) (halfOf (pkB x i) b))

/-- A special function of the input bits after .abs and .neg (R144). -/
def specialW (m : ANeg) (f : Word → Nat) (a : Word) : Word := w32 (f (anegBits m a))

/-! The meanings. -/

/-- FP32 arithmetic (R141). -/
def execFadd (m : FMod) (o : L2) (s : State) : Out :=
  regOp 2 o.g s (fun c => c.lane2 o (faddW m) false)

def execFaddL96 (m : FMod) (o : L2L) (s : State) : Out :=
  regOp 3 o.g s (fun c => c.lane2l o (faddW m) false)

def execFsub (m : FMod) (o : L2) (s : State) : Out :=
  regOp 2 o.g s (fun c => c.lane2 o (fsubW m) false)

def execFsubL96 (m : FMod) (o : L2L) (s : State) : Out :=
  regOp 3 o.g s (fun c => c.lane2l o (fsubW m) false)

def execFmul (m : FMod) (o : L2) (s : State) : Out :=
  regOp 2 o.g s (fun c => c.lane2 o (fmulW m) false)

def execFmulL96 (m : FMod) (o : L2L) (s : State) : Out :=
  regOp 3 o.g s (fun c => c.lane2l o (fmulW m) false)

def execFfma (m : FMod) (o : L3) (s : State) : Out :=
  regOp 2 o.g s (fun c => c.lane3 o (ffmaW m))

def execFfmaL96 (m : FMod) (o : L3L) (s : State) : Out :=
  regOp 3 o.g s (fun c => c.lane3l o (ffmaW m))

/-- FMIN and FMAX (R142). -/
def execFmin (m : ANeg) (o : L2) (s : State) : Out :=
  regOp 2 o.g s (fun c => c.lane2 o (fminW m) false)

def execFmax (m : ANeg) (o : L2) (s : State) : Out :=
  regOp 2 o.g s (fun c => c.lane2 o (fmaxW m) false)

def execFclass (fmt : FFmt) (hs : Bool) (o : L1) (s : State) : Out :=
  regOp 2 o.g s (fun c => c.lane1 o (fclassW fmt hs) false)

/-- Special functions (R145). -/
def execFrcp (m : FMod) (o : L1) (s : State) : Out :=
  regOp 2 o.g s (fun c => c.lane1 o (fun a => w32 (frcpVal m.rm (fmodVal m a))) false)

def execFrsq (m : ANeg) (o : L1) (s : State) : Out :=
  regOp 2 o.g s (fun c => c.lane1 o (specialW m frsqVal) false)

def execFsqrt (m : FMod) (o : L1) (s : State) : Out :=
  regOp 2 o.g s (fun c => c.lane1 o (fun a => w32 (fsqrtVal m.rm (fmodVal m a))) false)

def execFexp2 (m : ANeg) (o : L1) (s : State) : Out :=
  regOp 2 o.g s (fun c => c.lane1 o (specialW m fexp2Val) false)

def execFlog2 (m : ANeg) (o : L1) (s : State) : Out :=
  regOp 2 o.g s (fun c => c.lane1 o (specialW m flog2Val) false)

def execFsin (m : ANeg) (o : L1) (s : State) : Out :=
  regOp 2 o.g s (fun c => c.lane1 o (specialW m fsinVal) false)

def execFcos (m : ANeg) (o : L1) (s : State) : Out :=
  regOp 2 o.g s (fun c => c.lane1 o (specialW m fcosVal) false)

/-- Packed half precision (R147). -/
def execPkadd (m : PkMod) (o : L2) (s : State) : Out :=
  regOp 2 o.g s (fun c => c.lane2 o (pkaddW m) false)

def execPkaddL96 (m : PkMod) (o : L2L) (s : State) : Out :=
  regOp 3 o.g s (fun c => c.lane2l o (pkaddW m) false)

def execPkmul (m : PkMod) (o : L2) (s : State) : Out :=
  regOp 2 o.g s (fun c => c.lane2 o (pkmulW m) false)

def execPkmulL96 (m : PkMod) (o : L2L) (s : State) : Out :=
  regOp 3 o.g s (fun c => c.lane2l o (pkmulW m) false)

def execPkfma (m : PkMod) (o : L3) (s : State) : Out :=
  regOp 2 o.g s (fun c => c.lane3 o (pkfmaW m))

def execPkfmaL96 (m : PkMod) (o : L3L) (s : State) : Out :=
  regOp 3 o.g s (fun c => c.lane3l o (pkfmaW m))

def execPkmin (bf16 neg x : Bool) (o : L2) (s : State) : Out :=
  regOp 2 o.g s (fun c => c.lane2 o (pkminmaxW false bf16 neg x) false)

def execPkmax (bf16 neg x : Bool) (o : L2) (s : State) : Out :=
  regOp 2 o.g s (fun c => c.lane2 o (pkminmaxW true bf16 neg x) false)

end Sys2Proof.Machine
end

