-- ==== Sys2Proof/Machine/Cvt.lean ====
section
/-! DEFINITION. Machine/Cvt.lean: conversions, PACK and UNPACK (05 R148 to R161), the format slots (11 R273, R276) and the
conversion under a slot's policies (11 R270). -/

namespace Sys2Proof.Machine

/-! CVT (R150, R151). -/

/-- Signedness and width of an integer type. -/
def cvtInt : CvtType → Option (Bool × Nat)
  | .i8 => some (false, 8)
  | .i16 => some (false, 16)
  | .i32 => some (false, 32)
  | .i64 => some (false, 64)
  | .z8 => some (true, 8)
  | .z16 => some (true, 16)
  | .z32 => some (true, 32)
  | .z64 => some (true, 64)
  | _ => none

def cvtFmt : CvtType → Fmt
  | .f16 => fmtF16
  | .bf16 => fmtBf16
  | _ => fmtF32

def cvtWide : CvtType → Bool
  | .i64 => true
  | .z64 => true
  | _ => false

/-- The %sat bit of a destination type (R149). -/
def cvtSatBit : CvtType → Nat
  | .i8 => satInt8
  | .z8 => satInt8
  | .f16 => satF16
  | .bf16 => satBf16
  | .f32 => satF32
  | _ => satInt32

/-- An integer source: the low bits, extended (R151). -/
def readInt (z : Bool) (w : Nat) (x : DWord) : Int :=
  let n := x.toNat % 2 ^ w
  if !z && decide (2 ^ (w - 1) ≤ n) then (n : Int) - 2 ^ w else n

/-- An integer destination narrower than 32 bits is extended to 32 bits (R151). -/
def writeInt (z : Bool) (w : Nat) (x : Int) : Nat :=
  let n := (x % 2 ^ w).toNat
  if w < 32 ∧ !z ∧ 2 ^ (w - 1) ≤ n then n + 2 ^ 32 - 2 ^ w else n

/-- The bits of a floating type in a source register. -/
def cvtBits (t : CvtType) (hs : Bool) (x : DWord) : Nat :=
  match t with
  | .f32 => (loW x).toNat
  | _ => halfOf hs (loW x)

/-- The largest finite value with a sign. -/
def Fmt.maxSigned (f : Fmt) (neg : Bool) : Nat := f.signed neg f.maxFin

/-- Rounding with .sat (R151): the code and whether the value was limited. -/
def Fmt.roundSat (f : Fmt) (rm : Rm) (sat : Bool) (v : FVal) : Nat × Bool :=
  match v with
  | .nan => (f.nanC, false)
  | .inf n => if sat then (f.maxSigned n, true) else (f.signed n f.infC, false)
  | .fin n m e => if sat && f.exceeds ⟨m, 1, e⟩ then (f.maxSigned n, true) else (f.round rm n ⟨m, 1, e⟩, false)

/-- CVT in one lane: the result and whether it was limited. A 16-bit result is the field alone (R151). -/
def cvtLane (m : CvtMod) (dst src : CvtType) (x : DWord) : Nat × Bool :=
  match cvtInt src, cvtInt dst with
  | some (z, w), some (z', w') =>
    let v := readInt z w x
    if m.sat then (writeInt z' w' (satLimit z' w' v), satLimit z' w' v != v) else (writeInt z' w' v, false)
  | some (z, w), none =>
    let v := readInt z w x
    (cvtFmt dst).roundSat m.rm m.sat (.fin (decide (v < 0)) v.natAbs 0)
  | none, some (z, w) =>
    match (cvtFmt src).val (cvtBits src m.hs x) with
    | .nan => (0, true)
    | .inf n => (writeInt z w (satLimit z w (signInt n (2 ^ 65))), true)
    | .fin n k e =>
      let r : Rat2 := ⟨k, 1, e⟩
      -- the exact value is outside the range when its truncation is, or it passes an end by a fraction
      let fl := signInt n (roundInt .rz n r)
      let ce := signInt n (roundInt (if n then .rd else .ru) n r)
      if satLimit z w fl != fl || satLimit z w ce != ce then (writeInt z w (satLimit z w ce), true)
      else (writeInt z w (signInt n (roundInt m.rm n r)), false)
  | none, none =>
    let b := cvtBits src m.hs x
    let v := (cvtFmt src).val b
    if src = dst then
      (if m.int_ then
        match v with
        | .fin n k e => ((cvtFmt dst).round .rz n ⟨roundInt m.rm n ⟨k, 1, e⟩, 1, 0⟩, false)
        | _ => ((cvtFmt dst).ofVal m.rm v, false)
      else (if v.isNan then (cvtFmt dst).nanC else b, false))
    else if dst = .f32 then ((cvtFmt dst).ofVal m.rm v, false)
    else (cvtFmt dst).roundSat m.rm m.sat v

/-- Whether a floating destination is a 16-bit field (R148). -/
def cvtHalf : CvtType → Bool
  | .f16 => true
  | .bf16 => true
  | _ => false

/-- CVT over the lanes (R148, R149, R151). -/
def Iss.cvt (c : Iss) (m : CvtMod) (dst src : CvtType) (d : VReg) (a : Src) : Run Group := do
  let x : Vals64 ← if cvtWide src then c.g.src64 a else do
    let v ← c.g.src a
    pure (fun l => (v l).setWidth 64)
  let r (l : Nat) : Nat × Bool := cvtLane m dst src (x l)
  let hit := c.anyLane (fun l => (r l).2)
  if cvtWide dst then do
    let p ← c.g.locPair d.toNat
    let y (l : Nat) : DWord := w64 (r l).1
    return (c.g.satHit (cvtSatBit dst) hit).setV2 p.1 p.2 c.ex (fun l => loW (y l)) (fun l => hiW (y l)) false
  else do
    let ld ← c.g.loc d.toNat
    let y (l : Nat) : Word := if cvtHalf dst then putHalf m.hd (c.g.rdV ld l) (r l).1 else w32 (r l).1
    return (c.g.satHit (cvtSatBit dst) hit).setV ld c.ex y false

/-! CVTS (R153). -/

/-- Stochastic rounding of x with 32 random bits: the code and whether it saturated. -/
def cvtsLane (f : Fmt) (sat : Bool) (x r : Word) : Nat × Bool :=
  match f32 x with
  | .nan => (f.nanC, false)
  | .inf n => (f.signed n f.infC, false)
  | .fin n m e =>
    let t : Rat2 := ⟨m, 1, e⟩
    let q := if m = 0 then f.qmin else max (t.log2 - f.fb) f.qmin
    let (a, d) := t.at_ q
    let c := (q - f.qmin).toNat * 2 ^ f.fb + (a * 2 ^ 32 + r.toNat * d) / (d * 2 ^ 32)
    if m = 0 then (f.signed n 0, false)
    else if f.maxFin < c then (if sat then (f.maxSigned n, true) else (f.signed n f.infC, false))
    else (f.signed n c, false)

/-! Format slots (R273, R274, R276). -/

/-- The format slot of the issuing group's grid. -/
def State.slot (s : State) (grid n : Nat) : FSlot :=
  ((s.grids.get grid).map (fun g => g.lrec.slots.getD n ⟨0, 0, 0, 0, 0, 0⟩)).getD ⟨0, 0, 0, 0, 0, 0⟩

/-- A positive finite FP32 value. -/
def posFinite (x : Word) : Bool :=
  match f32 x with
  | .fin n m _ => !n && m != 0
  | _ => false

/-- Reserved SCALE, SATP and NANP values and a misplaced or unusable TSCALE (R276). -/
def FSlot.sound (f : FSlot) : Bool :=
  decide (f.scale.toNat ≤ 2) && decide (f.satp.toNat ≤ 1) && decide (f.nanp.toNat ≤ 1) &&
    (if f.scale = 2#8 then posFinite f.tscale else f.tscale == 0#32)

/-- The per-tensor scale as a magnitude (R155): 1 without one. -/
def FSlot.scaleOf (f : FSlot) : Nat × Int :=
  if f.scale = 2#8 then
    match f32 f.tscale with
    | .fin _ m e => (m, e)
    | _ => (1, 0)
  else (1, 0)

/-- A finite quotient, an infinity or a NaN. -/
inductive QVal where
  | nan
  | inf (neg : Bool)
  | fin (neg : Bool) (r : Rat2)
  deriving DecidableEq, Repr

/-- v / s, exact. -/
def quot (v : FVal) (s : Nat × Int) : QVal :=
  match v with
  | .nan => .nan
  | .inf n => .inf n
  | .fin n m e => .fin n ⟨m, s.1, e - s.2⟩

/-- Conversion into a floating output under a slot's policies: the code and whether limiting set the %sat bit (R270). -/
def Fmt.convert (f : Fmt) (rm : Rm) (infPolicy zeroNan : Bool) (v : QVal) : Nat × Bool :=
  let limit (n : Bool) : Nat × Bool :=
    if infPolicy && f.ieee then (f.signed n f.infC, false) else (f.maxSigned n, true)
  match v with
  | .nan => (if zeroNan then 0 else f.nanC, false)
  | .inf n => limit n
  | .fin n r => if f.exceeds r then limit n else (f.round rm n r, false)

/-- The FP8 format of a slot that CVT8 accepts (R155). -/
def FSlot.fp8 (f : FSlot) : Option (Fmt × Nat) :=
  if f.sound && f.scale != 1#8 then
    (if f.elem = 1#8 then some (fmtE4m3, satE4m3) else if f.elem = 2#8 then some (fmtE5m2, satE5m2) else none)
  else none

/-- CVT8 (R155). A byte whose exact value exceeds FP32's largest finite one becomes infinity and leaves %sat[7] alone: R155
rounds it with no limit, and R149's bit for FP32 is of the conversions that R149 saturates (DESIGN CHOICE, log 55). -/
def Iss.cvt8 (c : Iss) (o : Cvt8Op) : Run Group :=
  match o with
  | .to rm hd _ d a b slot => do
    let sl := c.s.slot c.g.grid slot.toNat
    match sl.fp8 with
    | none => .error (.emu 0x0005#16)
    | some (f, bit) => do
      let ld ← c.g.loc d.toNat
      let va ← c.g.src a
      let vb ← c.g.src b
      let cv (x : Word) : Nat × Bool := f.convert rm (sl.satp == 1#8) (sl.nanp == 1#8) (quot (f32 x) sl.scaleOf)
      let hit := c.anyLane (fun l => (cv (va l)).2 || (cv (vb l)).2)
      return (c.g.satHit bit hit).setV ld c.ex
        (fun l => putHalf hd (c.g.rdV ld l) ((cv (va l)).1 % 256 + 256 * ((cv (vb l)).1 % 256))) false
  | .from_ hs _ d a slot => do
    let sl := c.s.slot c.g.grid slot.toNat
    match sl.fp8 with
    | none => .error (.emu 0x0005#16)
    | some (f, _) => do
      let p ← c.g.locPair d.toNat
      let va ← c.g.src a
      let sc := FVal.fin false sl.scaleOf.1 sl.scaleOf.2
      let cv (b : Nat) : Word := w32 (fmtF32.ofVal .rn (FVal.mul (f.val b) sc))
      return c.g.setV2 p.1 p.2 c.ex (fun l => cv (halfOf hs (va l) % 256)) (fun l => cv (halfOf hs (va l) / 256)) false

def cvt8Guard (o : Cvt8Op) : Guard :=
  match o with
  | .to _ _ g _ _ _ _ => g
  | .from_ _ g _ _ _ => g

/-! CVTX (R156, R157). -/

/-- Element i of a CVTX source (R156). -/
def xElem (code : XSrc) (hs : Bool) (x : Word) (i : Nat) : Nat :=
  match code with
  | .int4 => (halfOf hs x) / 2 ^ (4 * i) % 16
  | _ => x.toNat / 2 ^ (6 * i) % 64

def xVal (code : XSrc) (n : Nat) : FVal :=
  match code with
  | .int4 => if 8 ≤ n then .fin true (16 - n) 0 else .fin false n 0
  | .e3m2 => fmtE3m2.val n
  | .e2m3 => fmtE2m3.val n

def cvtxW (code : XSrc) (e5m2 hs : Bool) (x : Word) : Word :=
  let f := if e5m2 then fmtE5m2 else fmtE4m3
  w32 (((List.range 4).map (fun i => f.ofVal .rn (xVal code (xElem code hs x i)) % 256 * 256 ^ i)).sum)

/-! CVTMX (R158, R159). -/

def mxVal (src : MxSrc) (x : Word) : FVal :=
  match src with
  | .f32 => f32 x
  | .bf16 => fmtBf16.val (halfOf false x)
  | .bf16hs => fmtBf16.val (halfOf true x)

def FVal.finite : FVal → Bool
  | .fin .. => true
  | _ => false

/-- ⌊log2⌋ of the largest magnitude of a list of finite values; `none` when all are 0. -/
def maxLog (vs : List FVal) : Option Int :=
  vs.foldl (fun a v => match v with
    | .fin _ m e => if m = 0 then a else
        let k : Int := Nat.log2 m + e
        (match a with | none => some k | some b => some (max b k))
    | _ => a) none

/-- The block's scale code and exponent (R159). -/
def mxScale (vs : List FVal) : Nat × Int :=
  if vs.any (fun v => !v.finite) then (0xFF, 0)
  else
    let e := match maxLog vs with
      | none => -127
      | some k => max (k - 2) (-127)
    ((e + 127).toNat, e)

/-- An element of the block and whether it is limited. R149 asks that of the exact value in every conversion of its chapter but
CVTS; the pseudocode of R159 asks it of the rounded one. The element is the same; the bit follows R149 (DESIGN CHOICE, log 52). -/
def mxElem (e : Int) (v : FVal) : Nat × Bool :=
  match v with
  | .fin n m k =>
    let r : Rat2 := ⟨m, 1, k - e⟩
    if fmtE2m1.exceeds r then (fmtE2m1.maxSigned n, true) else (fmtE2m1.signed n (fmtE2m1.roundMag .rn n r), false)
  | _ => (0, false)

/-- A word with nibble n replaced. -/
def putNibble (x : Word) (n v : Nat) : Word :=
  w32 (x.toNat - x.toNat / 2 ^ (4 * n) % 16 * 2 ^ (4 * n) + v % 16 * 2 ^ (4 * n))
def putByte64 (x : DWord) (n v : Nat) : DWord :=
  w64 (x.toNat - x.toNat / 2 ^ (8 * n) % 256 * 2 ^ (8 * n) + v % 256 * 2 ^ (8 * n))

def Iss.cvtmx (c : Iss) (src : MxSrc) (d : VReg) (ks : KReg) (a : VReg) (n : Nat) : Run Group := do
  let ld ← c.g.loc d.toNat
  let la ← c.g.loc a.toNat
  let v (l : Nat) : FVal := mxVal src (c.g.rdV la l)
  let (code, e) := mxScale ((lanesOf c.ex).map v)
  let el (l : Nat) : Nat × Bool := if code = 0xFF then (0, false) else mxElem e (v l)
  let hit := c.anyLane (fun l => (el l).2)
  let g := (c.g.satHit satMxfp4 hit).setV ld c.ex (fun l => putNibble (c.g.rdV ld l) n (el l).1) false
  return g.setK c.ex ks.toNat (putByte64 (c.g.rdK ks.toNat) n code) false

/-! PACK and UNPACK (R161). -/

def packW (m : PackMode) (a b : Word) : Word :=
  match m with
  | .lo => w32 (halfOf false a + 65536 * halfOf false b)
  | .hi => w32 (halfOf true a + 65536 * halfOf true b)
  | .lh => w32 (halfOf false a + 65536 * halfOf true b)

def unpackW (b16 z : Bool) (n : Nat) (a : Word) : Word :=
  if b16 then
    let x : BitVec 16 := BitVec.ofNat 16 (halfOf (n == 1) a)
    if z then x.setWidth 32 else x.signExtend 32
  else
    let x : BitVec 8 := a.extractLsb' (8 * n) 8
    if z then x.setWidth 32 else x.signExtend 32

/-! The meanings. -/

def execCvt (m : CvtMod) (dst src : CvtType) (g : Guard) (d : VReg) (a : Src) (s : State) : Out :=
  regOp 2 g s (fun c => c.cvt m dst src d a)

def execCvts (bf16 sat hd : Bool) (o : L2) (s : State) : Out :=
  regOp 2 o.g s (fun c => do
    let f := pkFmt bf16
    let ld ← c.g.loc o.d.toNat
    let a ← c.g.asrc o.a
    let b ← c.g.src o.b
    let r (l : Nat) : Nat × Bool := cvtsLane f sat (a l) (b l)
    let hit := c.anyLane (fun l => (r l).2)
    return (c.g.satHit (if bf16 then satBf16 else satF16) hit).setV ld c.ex
      (fun l => putHalf hd (c.g.rdV ld l) (r l).1) false)

def execCvt8 (o : Cvt8Op) (s : State) : Out :=
  regOp 2 (cvt8Guard o) s (fun c => c.cvt8 o)

def execCvtx (code : XSrc) (e5m2 hs : Bool) (o : L1) (s : State) : Out :=
  regOp 2 o.g s (fun c => c.lane1 o (cvtxW code e5m2 hs) false)

def execCvtmx (src : MxSrc) (g : Guard) (d : VReg) (ks : KReg) (a : VReg) (n : BitVec 3) (s : State) : Out :=
  regOp 2 g s (fun c => c.cvtmx src d ks a n.toNat)

def execPack (m : PackMode) (o : L2) (s : State) : Out :=
  regOp 2 o.g s (fun c => c.lane2 o (packW m) false)

def execUnpack (b16 z : Bool) (g : Guard) (d : VReg) (a : Src) (n : BitVec 2) (s : State) : Out :=
  regOp 2 g s (fun c => do
    let ld ← c.g.loc d.toNat
    let va ← c.g.src a
    return c.g.setV ld c.ex (fun l => unpackW b16 z n.toNat (va l)) false)

end Sys2Proof.Machine
end

