-- ==== Sys2Proof/Machine/Cross.lean ====
section
/-! DEFINITION. Machine/Cross.lean: the cross-lane instructions (05 R162 to R174). They wait at issue for the results of any
split that are due in a register read across lanes (R163: `State.held`). -/

namespace Sys2Proof.Machine

/-- Operand l of source lane j: its present value when launched, else 0 (R162). -/
def Group.crossV (g : Group) (l : Loc) (j : Nat) : Word := if g.launched.getLsbD j then g.rdV l j else 0#32

/-! LGET and PERM. -/

def segWidth : Seg → Nat
  | .s1 => 1
  | .s2 => 2
  | .s4 => 4
  | .s8 => 8
  | .s16 => 16
  | .s32 => 32

/-- The source lane of LGET, `none` when it is out of range (R166). -/
def lgetLane (m : LgMode) (w l b : Nat) : Option Nat :=
  let base := l - l % w
  match m with
  | .at_ => some (base + b % w)
  | .below => if b ≤ l - base then some (l - b) else none
  | .above => if l + b < base + w then some (l + b) else none
  | .mirror => some (l ^^^ (b % w))

def Group.lgB (g : Group) (b : LgB) : Run (Nat → Nat) :=
  match b with
  | .src x => do
    let v ← g.src x
    return fun l => (v l).toNat
  | .imm n => return fun _ => n.toNat

/-- A predicate written beside a lane register, its entry second (R166). -/
def Iss.withPred (c : Iss) (g : Group) (pc : Option PReg) (bits : Mask) : Group :=
  match pc with
  | some p => g.setP c.ex p.toNat bits false
  | none => g

def Iss.lget (c : Iss) (m : LgMode) (seg : Seg) (d a : VReg) (b : LgB) (pc : Option PReg) : Run Group := do
  let ld ← c.g.loc d.toNat
  let la ← c.g.loc a.toNat
  let n ← c.g.lgB b
  let src (l : Nat) : Option Nat := lgetLane m (segWidth seg) l (n l)
  let g := c.g.setV ld c.ex (fun l => (src l).elim 0#32 (fun j => c.g.crossV la j)) false
  return c.withPred g pc (maskOf (fun l => (src l).elim false (fun j => c.g.launched.getLsbD j)))

/-- Byte i of PERM.b8's result for a selector word (R167). -/
def Group.permByte (g : Group) (l : Loc) (b : Word) (i : Nat) : Byte :=
  (g.crossV l (b.extractLsb' (8 * i + 2) 5).toNat).extractLsb' (8 * (b.extractLsb' (8 * i) 2).toNat) 8

def Group.permW (g : Group) (b8 : Bool) (l : Loc) (b : Word) : Word :=
  if b8 then g.permByte l b 3 ++ g.permByte l b 2 ++ g.permByte l b 1 ++ g.permByte l b 0
  else g.crossV l (b.extractLsb' 0 5).toNat

/-- Whether every source lane of PERM was launched (R167). -/
def Group.permOk (g : Group) (b8 : Bool) (b : Word) : Bool :=
  if b8 then (List.range 4).all (fun i => g.launched.getLsbD (b.extractLsb' (8 * i + 2) 5).toNat)
  else g.launched.getLsbD (b.extractLsb' 0 5).toNat

def Iss.perm (c : Iss) (b8 : Bool) (d a : VReg) (b : Src) (pc : Option PReg) : Run Group := do
  let ld ← c.g.loc d.toNat
  let la ← c.g.loc a.toNat
  let vb ← c.g.src b
  let g := c.g.setV ld c.ex (fun l => c.g.permW b8 la (vb l)) false
  return c.withPred g pc (maskOf (fun l => c.g.permOk b8 (vb l)))

/-! VOTE, REDUX, SCAN. -/

/-- VOTE (R169). -/
def Iss.vote (c : Iss) (dst : VoteDst) (na : Bool) (a : PReg) : Run Group :=
  let m := c.g.predN na a &&& c.ex
  match dst with
  | .all d => .ok (c.pred d (allLanes (m == c.ex)) false)
  | .any d => .ok (c.pred d (allLanes (m != 0#32)) false)
  | .ballot d => do
    let ld ← c.g.loc d.toNat
    return c.g.setV ld c.ex (fun _ => m) false
  | .ballotK d => .ok (c.uni d (m.setWidth 64) false)

/-- The extreme of a list of integers. -/
def extreme (greater : Bool) : List Int → Int
  | [] => 0
  | x :: t => t.foldl (fun a y => if greater then max a y else min a y) x

/-- REDUX's value (R170). -/
def reduxVal (op : RedOp) (z : Bool) (vs : List Word) : DWord :=
  match op with
  | .add => BitVec.ofInt 64 ((vs.map (intOf z)).sum)
  | .min => BitVec.ofInt 64 (extreme false (vs.map (intOf z)))
  | .max => BitVec.ofInt 64 (extreme true (vs.map (intOf z)))
  | .and => (vs.foldl (· &&& ·) fullMask).setWidth 64
  | .or => (vs.foldl (· ||| ·) 0#32).setWidth 64
  | .xor => (vs.foldl (· ^^^ ·) 0#32).setWidth 64

def Iss.redux (c : Iss) (op : RedOp) (z : Bool) (d : KReg) (a : LSrc) : Run Group := do
  let la ← c.g.lloc a
  return c.uni d (reduxVal op z ((lanesOf c.ex).map (c.g.rdV la))) false

/-- The sum of a register over the lanes of Exec that satisfy p, modulo 2^32 (R171). -/
def Iss.laneSum (c : Iss) (la : Loc) (p : Nat → Bool) : Word :=
  ((lanesOf c.ex).filter p).foldl (fun a j => a + c.g.rdV la j) 0#32

def Iss.scan (c : Iss) (exc : Bool) (d : VReg) (a : LSrc) (kc : Option KReg) : Run Group := do
  let ld ← c.g.loc d.toNat
  let la ← c.g.lloc a
  let g := c.g.setV ld c.ex (fun l => c.laneSum la (fun j => if exc then decide (j < l) else decide (j ≤ l))) false
  return match kc with
    | some k => g.setK c.ex k.toNat ((c.laneSum la (fun _ => true)).setWidth 64) false
    | none => g

/-! MATCH and ISECT. -/

/-- The lanes of Exec whose value equals lane l's (R172). -/
def Iss.equals (c : Iss) (v : Vals64) (l : Nat) : Mask := c.where_ (fun j => v j == v l)

def Iss.match_ (c : Iss) (wide : Bool) (d a : VReg) (pc : Option PReg) : Run Group := do
  let ld ← c.g.loc d.toNat
  let v : Vals64 ← if wide then c.g.src64 (.v a) else do
    let w ← c.g.src (.v a)
    pure (fun l => (w l).setWidth 64)
  let g := c.g.setV ld c.ex (c.equals v) false
  return c.withPred g pc (maskOf (fun l => lowLane (c.equals v l) == l))

/-- The lanes of Exec whose entry is not empty (R174). -/
def Iss.entries (c : Iss) (v : Vals) : List Nat := (lanesOf c.ex).filter (fun j => v j != fullMask)

/-- A match field: the lowest lane of the other side with the value, and bit 5 when there is one (R174). -/
def matchField (own : List Nat) (x : Vals) (other : List Nat) (y : Vals) (l : Nat) : Nat :=
  if own.contains l then
    match other.find? (fun j => y j == x l) with
    | some j => j + 32
    | none => 0
  else 0

/-- The advance counts (R174). -/
def advances (xs : List Nat) (x : Vals) (ys : List Nat) (y : Vals) : Nat × Nat :=
  if xs.isEmpty || ys.isEmpty then
    (if ys.isEmpty then xs.length else 0, if ys.isEmpty then 0 else ys.length)
  else
    let top (l : List Nat) (v : Vals) : Nat := l.foldl (fun a j => max a (v j).toNat) 0
    let m := min (top xs x) (top ys y)
    ((xs.filter (fun j => decide ((x j).toNat ≤ m))).length, (ys.filter (fun j => decide ((y j).toNat ≤ m))).length)

def Iss.isect (c : Iss) (d : VReg) (kc : KReg) (a b : VReg) : Run Group := do
  let ld ← c.g.loc d.toNat
  let x ← c.g.src (.v a)
  let y ← c.g.src (.v b)
  let xs := c.entries x
  let ys := c.entries y
  let (ax, ay) := advances xs x ys y
  let g := c.g.setV ld c.ex (fun l => w32 (matchField xs x ys y l + 256 * matchField ys y xs x l)) false
  return g.setK c.ex kc.toNat (w64 (ax + 2 ^ 32 * ay)) false

/-! The meanings. -/

def execLget (m : LgMode) (seg : Seg) (g : Guard) (d a : VReg) (b : LgB) (pc : Option PReg) (s : State) : Out :=
  regOp 2 g s (fun c => c.lget m seg d a b pc)

def execPerm (b8 : Bool) (g : Guard) (d a : VReg) (b : Src) (pc : Option PReg) (s : State) : Out :=
  regOp 2 g s (fun c => c.perm b8 d a b pc)

def execVote (dst : VoteDst) (na : Bool) (g : Guard) (a : PReg) (s : State) : Out :=
  regOp 2 g s (fun c => c.vote dst na a)

def execRedux (op : RedOp) (z : Bool) (g : Guard) (d : KReg) (a : LSrc) (s : State) : Out :=
  regOp 2 g s (fun c => c.redux op z d a)

def execScan (exc : Bool) (g : Guard) (d : VReg) (a : LSrc) (kc : Option KReg) (s : State) : Out :=
  regOp 2 g s (fun c => c.scan exc d a kc)

def execMatch_ (w64 : Bool) (g : Guard) (d a : VReg) (pc : Option PReg) (s : State) : Out :=
  regOp 2 g s (fun c => c.match_ w64 d a pc)

def execIsect (g : Guard) (d : VReg) (kc : KReg) (a b : VReg) (s : State) : Out :=
  regOp 2 g s (fun c => c.isect d kc a b)

end Sys2Proof.Machine
end

