-- ==== Sys2Proof/Machine/Mem.lean ====
section
/-! DEFINITION. Machine/Mem.lean: loads, stores, exchanges, prefetches and fences (06 R188 to R192, 07 R204 to R207). A load
takes its value at issue (one of the moments R181 allows) and its registers are written at its LOAD_RETURN. -/

namespace Sys2Proof.Machine

/-! Sizes and addresses (R188 to R190). -/

def sizeBytes : Size → Nat
  | .b8 => 1
  | .b16 => 2
  | .b32 => 4
  | .b64 => 8
  | .b128 => 16
  | .i8 => 1
  | .i16 => 2
  | .i32 => 4

/-- How many registers hold an operand of the size. -/
def sizeRegs : Size → Nat
  | .b64 => 2
  | .b128 => 4
  | _ => 1

/-- A loaded number as a 64-bit register value: sign-extended for the .i sizes (R191). -/
def extend64 (sz : Size) (n : Nat) : DWord :=
  match sz with
  | .i8 => (BitVec.ofNat 8 n).signExtend 64
  | .i16 => (BitVec.ofNat 16 n).signExtend 64
  | .i32 => (BitVec.ofNat 32 n).signExtend 64
  | _ => w64 n

/-- A loaded number with a narrow .i size sign-extended to the 32-bit register (R188 LD). -/
def extend32 (sz : Size) (n : Nat) : Nat :=
  match sz with
  | .i8 => ((BitVec.ofNat 8 n).signExtend 32).toNat
  | .i16 => ((BitVec.ofNat 16 n).signExtend 32).toNat
  | _ => n

/-- The signed 8-bit displacement, scaled (R188). -/
def disp8 (d : BitVec 8) (scale : Nat) : DWord := d.signExtend 64 * w64 scale

/-- Base, a pair or a uniform register, plus an index register zero-extended or a uniform register (R188). -/
def Group.baseIdx (g : Group) (base idx : Src) : Run Vals64 := do
  let b ← g.src64 base
  match idx with
  | .v n => do
    let l ← g.loc n.toNat
    return fun i => b i + zext64 (g.rdV l i)
  | .k n => return fun i => b i + g.rdK n.toNat

def Group.addr (g : Group) (ad : Addr) (scale : Nat) : Run Vals64 := do
  let b ← g.baseIdx ad.base ad.idx
  return fun i => b i + disp8 ad.disp scale

def Group.addrL (g : Group) (ad : AddrL) : Run Vals64 := do
  let b ← g.baseIdx ad.base ad.idx
  return fun i => b i + sext64 ad.lit

/-- The lane registers D to D + n − 1 (R190). -/
def Group.locRun (g : Group) (d : Nat) : Nat → Run (List Loc)
  | 0 => .ok []
  | n + 1 => do
    let l ← g.loc d
    let t ← g.locRun (d + 1) n
    return l :: t

/-- The number in a run of registers, the lowest holding the lowest bytes (R97, R190). -/
def Group.runNat (g : Group) (ls : List Loc) (lane : Nat) : Nat :=
  match ls with
  | [] => 0
  | l :: t => (g.rdV l lane).toNat + 2 ^ 32 * g.runNat t lane

/-- The writes of a number to a run of registers in a lane. -/
def laneWrites (ls : List Loc) (lane n : Nat) : List LaneWrite :=
  match ls with
  | [] => []
  | l :: t => ⟨l, lane, w32 n⟩ :: laneWrites t lane (n / 2 ^ 32)

/-- One entry per register written, the lowest first. -/
def Group.recRun (g : Group) (ls : List Loc) (m : Mask) (exact_ : Bool) : Group :=
  ls.foldl (fun g l => g.recV l m exact_) g

def Group.applyWrites (g : Group) (ws : List LaneWrite) : Group :=
  ws.foldl (fun g w => g.wrV w.loc (BitVec.twoPow 32 w.lane) (fun _ => w.val)) g

/-! Reading and writing at the home (R186, R205). -/

/-- A core that reads a byte at its home, in the polder cache, keeps no older copy of the line behind (R179, R201). -/
def State.catchUp (s : State) (core : Nat) (ps : List Place) : State :=
  (linesOf ps).foldl (fun s l =>
    let s := s.cacheLine l
    if (s.core core).invals.contains l then s.dropCopy core l else s) s

/-- Before an operation performed at the home: buffered bytes drain, older copies go. -/
def State.toHome (s : State) (core : Nat) (ps : List Place) : State := (s.preBypass core ps).catchUp core ps

/-- A value at the point where the space's operations are performed. -/
def State.pointNat (s : State) (core : Nat) (sp : Space) (ps : List Place) : Nat :=
  match sp with
  | .priv => leNat (ps.map (s.privRead core))
  | _ => s.homeNat ps

def State.pointPut (s : State) (core gid : Nat) (sp : Space) (bs : List (Place × Byte)) : State :=
  match sp with
  | .priv => s.storeBytes core gid .priv .none false bs
  | _ => s.putBytes core bs

/-- Read-modify-writes of the lanes in order; each lane's old value. A lane whose new value is `none` writes nothing. -/
def State.rmw (s : State) (core gid : Nat) (sp : Space) (f : Nat → Nat → Option Nat) :
    List Acc → State × List (Acc × Nat × Bool)
  | [] => (s, [])
  | a :: t =>
    let old := s.pointNat core sp a.places
    match f a.lane old with
    | some new =>
      let r := (s.pointPut core gid sp (bytesAt a.places new)).rmw core gid sp f t
      (r.1, (a, old, true) :: r.2)
    | none =>
      let r := s.rmw core gid sp f t
      (r.1, (a, old, false) :: r.2)

/-- The lanes of a list of accesses. -/
def accMask (l : List Acc) : Mask := maskOf (fun i => l.any (fun a => a.lane == i))

/-- A MEMW entry over the lanes given, in MARK and STEP grade (R224); none when no lane is. -/
def Group.pushMemw (g : Group) (size : Size) (sp : Space) (pre : List MemPre) (pending : Option Nat) : Group :=
  if pre.isEmpty then g
  else g.pushBoth (.memw (maskOf (fun i => pre.any (fun p => p.lane == i))) size sp pre pending)

/-- The pre-images of read-modify-writes that wrote. -/
def preOf (l : List (Acc × Nat × Bool)) : List MemPre :=
  l.filterMap (fun x => if x.2.2 then some ⟨x.1.lane, x.1.addr, w64 x.2.1⟩ else none)

/-- Work issued to the memory port, with the event that finishes it at the end of the work in hand. -/
def State.await (s : State) (p : Pending) (ev : Nat → Instr) : State :=
  let (id, s) := s.newId
  { s with pend := s.pend.put id p }.post (ev id)

/-! LD, KLD, LDX. -/

/-- The values that a load of the lanes takes, and the state after it (R181): at issue (DESIGN CHOICE, log 9). -/
def State.takeLoad (s : State) (core gid : Nat) (m : MemMod) (accs : List Acc) : State × List (Nat × Nat) :=
  let ps := accs.flatMap (·.places)
  let atHome := m.policy == .nl1 || m.policy == .pcache
  let s := s.preLoad core gid ps
  let s := if m.space = .priv then s.fillPriv core ps else if atHome then s.catchUp core ps else s
  let vals := accs.map (fun a => (a.lane, s.loadNat core gid m.space m.policy a.places))
  ((s.askFills core (m.policy == .stream) (s.missLines core m.policy m.space ps)).refresh core m.policy ps, vals)

/-- How a load takes its bytes: an L1 copy serves the policies none and .stream (R181). -/
def MemMod.loads (m : MemMod) : Kind := if m.space = .global ∧ (m.policy = .none ∨ m.policy = .stream) then .cached else .load

def Iss.ld (c : Iss) (m : MemMod) (d : VReg) (addr : Run Vals64) : Run Fin := do
  let ls ← c.g.locRun d.toNat (sizeRegs m.size)
  let a ← addr
  let accs ← c.access m.space (MemMod.loads m) c.ex a (sizeBytes m.size)
  if c.ex = 0#32 then return c.done c.g
  else
    let (s, vals) := c.s.takeLoad c.g.core c.gid m accs
    let s := s.setGroup c.gid (c.g.recRun ls c.ex false)
    let vw := vals.flatMap (fun x => laneWrites ls x.1 (extend32 m.size x.2))
    return c.doneS (s.await (.load c.gid c.sn c.ex vw []) .loadReturn)

/-- A uniform access: one for the group, its fault naming the lanes of Exec (R96), the first in the order given. -/
def Iss.accessKIn (c : Iss) (order : List Cause) (sp : Space) (k : Kind) (a : DWord) (n : Nat) : Run (List Acc) :=
  if c.ex = 0#32 then .ok []
  else match c.accessIn order sp k (BitVec.twoPow 32 (lowLane c.ex)) (fun _ => a) n with
    | .error (.berm cause _ x y) => .error (.berm cause none x y)
    | r => r

/-- A uniform access in the order of LD's entry. -/
def Iss.accessK (c : Iss) (sp : Space) (k : Kind) (a : DWord) (n : Nat) : Run (List Acc) := c.accessKIn causeOrder sp k a n

def Iss.kld (c : Iss) (m : MemMod) (d a b : KReg) (disp : DWord) : Run Fin := do
  let accs ← c.accessK m.space (MemMod.loads m) (c.g.rdK a.toNat + c.g.rdK b.toNat + disp) (sizeBytes m.size)
  if c.ex = 0#32 then return c.done c.g
  else
    let (s, vals) := c.s.takeLoad c.g.core c.gid m accs
    let s := s.setGroup c.gid (c.g.recK d.toNat false)
    return c.doneS (s.await (.kload c.gid c.sn c.ex (vals.map (fun x => (d.toNat, extend64 m.size x.2)))) .loadReturn)

def Iss.ldx (c : Iss) (m : MemMod) (d : VReg) (addr : Run Vals64) : Run Fin := do
  let ls ← c.g.locRun d.toNat (sizeRegs m.size)
  let a ← addr
  let accs ← c.access m.space (MemMod.loads m) c.ex a (sizeBytes m.size)
  if c.ex = 0#32 then return c.done c.g
  else
    let (s, vals) := c.s.takeLoad c.g.core c.gid m accs
    let s := s.setGroup c.gid (c.g.recRun ls c.ex (m.space == .priv))
    let vw := vals.flatMap (fun x => laneWrites ls x.1 (c.g.runNat ls x.1 ^^^ x.2))
    return c.doneS (s.await (.load c.gid c.sn c.ex vw []) .loadReturn)

/-! ST, STX, XCHG. -/

/-- The pieces of a store that its MEMW entries restore: a .b128 store has two halves (R191). -/
def storeParts (sz : Size) : List (Nat × Nat × Size) :=
  match sz with
  | .b128 => [(0, 8, .b64), (8, 8, .b64)]
  | _ => [(0, sizeBytes sz, sz)]

/-- The pre-images of one piece (R191): exact where the store is an exchange, else what a load would return. -/
def State.storePre (s : State) (core gid : Nat) (m : MemMod) (off len : Nat) (accs : List Acc) (val : Nat → Nat) :
    List MemPre :=
  let part := accs.map (fun a : Acc => { a with places := (a.places.drop off).take len })
  let pre := match m.space with
    | .global => part.map (fun a => (a, s.loadNat core gid .global m.policy a.places, true))
    | sp => (s.rmw core gid sp (fun l _ => some (val l / 256 ^ off)) part).2
  (preOf pre).map (fun p => { p with addr := p.addr + w64 off })

/-- The MEMW entries of a store. -/
def Group.pushStore (g : Group) (s : State) (gid : Nat) (m : MemMod) (accs : List Acc) (val : Nat → Nat) : Group :=
  (storeParts m.size).foldl (fun g p =>
    g.pushMemw p.2.2 m.space (s.storePre g.core gid m p.1 p.2.1 accs val) none) g

def Iss.st (c : Iss) (m : MemMod) (fl : SFlags) (d : VReg) (addr : Run Vals64) : Run Fin := do
  let ls ← c.g.locRun d.toNat (sizeRegs m.size)
  let a ← addr
  let accs ← c.access m.space .store c.ex a (sizeBytes m.size)
  if c.ex = 0#32 then return c.done c.g
  else
    let flags := c.flagsOf fl
    let g ← c.g.raiseFlags flags
    let val (l : Nat) : Nat := c.g.runNat ls l
    let ps := accs.flatMap (·.places)
    let s := if g.recGrade = .off then c.s else c.s.preLoad g.core c.gid ps
    let s := s.setGroup c.gid (g.pushStore s c.gid m accs val)
    let s := s.storeBytes g.core c.gid m.space m.policy (!flags.isEmpty) (accs.flatMap (fun a => bytesAt a.places (val a.lane)))
    return c.doneS (if flags.isEmpty then s else s.await (.store c.gid flags) .storePerformed)

def Iss.stx (c : Iss) (m : MemMod) (fl : SFlags) (d : VReg) (addr : Run Vals64) : Run Fin := do
  let ls ← c.g.locRun d.toNat (sizeRegs m.size)
  let a ← addr
  let accs ← c.access m.space .atomic c.ex a (sizeBytes m.size)
  if c.ex = 0#32 then return c.done c.g
  else
    let flags := c.flagsOf fl
    let g ← c.g.raiseFlags flags
    let s := (c.s.toHome g.core (accs.flatMap (·.places))).setGroup c.gid g
    let (s, olds) := s.rmw g.core c.gid m.space (fun l old => some (old ^^^ c.g.runNat ls l)) accs
    let s := if m.space = .priv then s else s.updGroup c.gid (fun g => g.pushMemw m.size m.space (preOf olds) none)
    return c.doneS (if flags.isEmpty then s else s.await (.store c.gid flags) .storePerformed)

/-- The register's number after an exchange of its low bytes: R192 exchanges Mem(addr, size) with vD, and a size below the
register's leaves its upper bytes (DESIGN CHOICE, log 52). -/
def exchanged (sz : Size) (reg old : Nat) : Nat := reg - reg % 256 ^ sizeBytes sz + old

def Iss.xchg (c : Iss) (m : MemMod) (d : VReg) (addr : Run Vals64) : Run Fin := do
  let ls ← c.g.locRun d.toNat (sizeRegs m.size)
  let a ← addr
  let accs ← c.access m.space .atomic c.ex a (sizeBytes m.size)
  if c.ex = 0#32 then return c.done c.g
  else
    let s := c.s.toHome c.g.core (accs.flatMap (·.places))
    let (s, olds) := s.rmw c.g.core c.gid m.space (fun l _ => some (c.g.runNat ls l)) accs
    let x := m.space == .priv
    let s := s.updGroup c.gid (fun g =>
      (if x then g else g.pushMemw m.size m.space (preOf olds) none).recRun ls c.ex x)
    let vw := olds.flatMap (fun o => laneWrites ls o.1.lane (exchanged m.size (c.g.runNat ls o.1.lane) o.2.1))
    return c.doneS (s.await (.load c.gid c.sn c.ex vw []) .loadReturn)

/-! PREF, FENCE. -/

def gspace : GSpace → Space
  | .global => .global
  | .polder => .polder

/-- PREF (R192): its lanes' translations are taken together, so that one which is missing, refused or locked, of the other
space, in a tile not held or in an uncorrectable word drops the prefetches of every lane (DESIGN CHOICE, logs 53 and 55). -/
def Iss.pref (c : Iss) (pc : Bool) (sp : GSpace) (fl : SFlags) (ad : Addr) : Run Fin := do
  let a ← c.g.addr ad 1
  if c.ex = 0#32 then return c.done c.g
  else
    let flags := c.flagsOf fl
    let g ← c.g.raiseFlags flags
    let s := c.s.setGroup c.gid g
    let ps := match c.access (gspace sp) .load c.ex a 1 with
      | .ok accs => accs.flatMap (·.places)
      | .error _ => []
    let s := if pc then (linesOf ps).foldl State.cacheLine s
      else s.askFills g.core false (s.missLines g.core .none (gspace sp) ps)
    return c.doneS (s.await (.pref c.gid flags) .prefetchComplete)

/-! The meanings. -/

def execLd (m : MemMod) (g : Guard) (d : VReg) (ad : Addr) (s : State) : Out :=
  issue 2 g s (fun c => c.ld m d (c.g.addr ad (sizeBytes m.size)))

def execLdL96 (m : MemMod) (g : Guard) (d : VReg) (ad : AddrL) (s : State) : Out :=
  issue 3 g s (fun c => c.ld m d (c.g.addrL ad))

def execSt (m : MemMod) (fl : SFlags) (g : Guard) (d : VReg) (ad : Addr) (s : State) : Out :=
  issue 2 g s (fun c => c.st m fl d (c.g.addr ad (sizeBytes m.size)))

def execStL96 (m : MemMod) (fl : SFlags) (g : Guard) (d : VReg) (ad : AddrL) (s : State) : Out :=
  issue 3 g s (fun c => c.st m fl d (c.g.addrL ad))

def execKld (m : MemMod) (g : Guard) (d a b : KReg) (disp : BitVec 8) (s : State) : Out :=
  issue 2 g s (fun c => c.kld m d a b (disp8 disp (sizeBytes m.size)))

def execKldL96 (m : MemMod) (g : Guard) (d a b : KReg) (lit : Word) (s : State) : Out :=
  issue 3 g s (fun c => c.kld m d a b (sext64 lit))

def execLdx (m : MemMod) (g : Guard) (d : VReg) (ad : Addr) (s : State) : Out :=
  issue 2 g s (fun c => c.ldx m d (c.g.addr ad (sizeBytes m.size)))

def execStx (m : MemMod) (fl : SFlags) (g : Guard) (d : VReg) (ad : Addr) (s : State) : Out :=
  issue 2 g s (fun c => c.stx m fl d (c.g.addr ad (sizeBytes m.size)))

def execXchg (m : MemMod) (g : Guard) (d : VReg) (ad : Addr) (s : State) : Out :=
  issue 2 g s (fun c => c.xchg m d (c.g.addr ad (sizeBytes m.size)))

def execPref (pc : Bool) (space : GSpace) (fl : SFlags) (g : Guard) (ad : Addr) (s : State) : Out :=
  issue 2 g s (fun c => c.pref pc space fl ad)

/-- FENCE: .rel and .full wait for the group's buffered stores to be visible at the scope, whatever the guard (R192, R207). -/
def execFence (kind : FenceKind) (scope : Scope) (g : Guard) (s : State) : Out :=
  issue 2 g s (fun c => .ok (c.doneS (if kind = .acq then c.s else c.s.release c.g.core c.gid scope)))

end Sys2Proof.Machine
end

