-- ==== Sys2Proof/Machine/Atomic.lean ====
section
/-! DEFINITION. Machine/Atomic.lean: atomics at the home (06 R186, R187, R193 to R195) and the ring queues (R196 to
R199). -/

namespace Sys2Proof.Machine

/-- The operations of R194 on w-bit numbers. -/
def atomNew (op : AOp) (w old b : Nat) : Nat :=
  let x : BitVec w := BitVec.ofNat w old
  let y : BitVec w := BitVec.ofNat w b
  match op with
  | .add => (x + y).toNat
  | .sub => (x - y).toNat
  | .and => (x &&& y).toNat
  | .or => (x ||| y).toNat
  | .xor => (x ^^^ y).toNat
  | .min => if x.toInt ≤ y.toInt then x.toNat else y.toNat
  | .minz => min x.toNat y.toNat
  | .max => if y.toInt ≤ x.toInt then x.toNat else y.toNat
  | .maxz => max x.toNat y.toNat
  | .exch => y.toNat
  | .incw => if y.toNat ≤ x.toNat then 0 else x.toNat + 1
  | .decw => if x.toNat = 0 ∨ y.toNat < x.toNat then y.toNat else x.toNat - 1

def aspace : ASpace → Space
  | .global => .global
  | .polder => .polder
  | .cs => .cs

def atomBytes (m : AMod) : Nat := if m.w64 then 8 else 4
def atomSize (m : AMod) : Size := if m.w64 then .b64 else .b32
def orderReleases : AOrder → Bool
  | .rel => true
  | .ar => true
  | _ => false

/-- An atomic as it acts on a lane: its access, its operation with the operand (none: a compare of the old value with `y`,
which writes `new`), where the old value goes. -/
structure Atomic where
  m    : AMod
  addr : Vals64
  op   : Option AOp
  y    : Nat → Nat
  new  : Nat → Nat
  dst  : List Loc

/-- What an atomic writes in a lane for the old value; `none` where it writes nothing. -/
def Atomic.f (x : Atomic) (lane old : Nat) : Option Nat :=
  match x.op with
  | some op => some (atomNew op (8 * atomBytes x.m) old (x.y lane))
  | none => if old = x.y lane then some (x.new lane) else none

/-- An operand of the atomic's width (R193). -/
def Group.atomB (g : Group) (m : AMod) (b : Src) : Run (Nat → Nat) :=
  if m.w64 then do
    let v ← g.src64 b
    return fun l => (v l).toNat
  else do
    let v ← g.src b
    return fun l => (v l).toNat

/-- The atomic that an instruction is, over the registers of a group; `none` for any other instruction. -/
def Group.atomicOf (g : Group) : Instr → Option (Run Atomic)
  | .atom op m _ d a b => some do
    let ls ← g.locRun d.toNat (atomBytes m / 4)
    let y ← g.atomB m b
    let x ← g.src64 a
    return ⟨m, x, some op, y, fun _ => 0, ls⟩
  | .atomcas m _ d a b => some do
    let ls ← g.locRun d.toNat (atomBytes m / 4)
    let y ← g.atomB m b
    let x ← g.src64 a
    return ⟨m, x, none, y, g.runNat ls, ls⟩
  | .red op m _ _ a b => some do
    let y ← g.atomB m b
    let x ← g.src64 a
    return ⟨m, x, some op, y, fun _ => 0, []⟩
  | .redL96 op m _ _ a lit => some do
    let x ← g.src64 a
    return ⟨m, x, some op, fun _ => (sext64 lit).toNat, fun _ => 0, []⟩
  | _ => none

/-- Whether an access reaches a page whose home has changed (R187). -/
def State.movedAt (s : State) (ctx : Nat) (a : DWord) : Bool :=
  ((s.ctxs.get ctx).bind (fun c => c.page (a.setWidth 57).toNat)).elim false (fun p => p.movedFrom.isSome)

/-- The atomic's effect at the homes, on the accesses given (R186). -/
def State.atHome (s : State) (core gid : Nat) (x : Atomic) (accs : List Acc) : State × List (Acc × Nat × Bool) :=
  (s.toHome core (accs.flatMap (·.places))).rmw core gid (aspace x.m.space) x.f accs

/-- The lane writes of the old values that return. -/
def Atomic.returns (x : Atomic) (olds : List (Acc × Nat × Bool)) : List LaneWrite :=
  olds.flatMap (fun o => laneWrites x.dst o.1.lane o.2.1)

/-- The lanes that a moved page answers, with their operands as they are now (R187). -/
def Atomic.later (x : Atomic) (accs : List Acc) : MovedAtomic :=
  ⟨x.m, x.op, accs.map (fun a => ⟨a.lane, a.addr, x.y a.lane, x.new a.lane⟩), x.dst⟩

/-- The atomic that is re-issued, and its lanes. -/
def MovedAtomic.atomic (x : MovedAtomic) : Atomic :=
  let at_ (l : Nat) : MovedLane := (x.lanes.find? (fun m => m.lane == l)).getD ⟨l, 0#64, 0, 0⟩
  ⟨x.m, fun l => (at_ l).addr, x.op, fun l => (at_ l).y, fun l => (at_ l).new, x.dst⟩
def MovedAtomic.mask (x : MovedAtomic) : Mask := maskOf (fun l => x.lanes.any (fun m => m.lane == l))

/-- ATOM, ATOMCAS and RED (R193 to R195, R187). -/
def Iss.atomic (c : Iss) (fl : SFlags) (x : Atomic) : Run Fin := do
  let accs ← c.access (aspace x.m.space) .atomic c.ex x.addr (atomBytes x.m)
  if c.ex = 0#32 then return c.done c.g
  else
    let flags := c.flagsOf fl
    let g ← c.g.raiseFlags flags
    let s := c.s.setGroup c.gid g
    let s := if orderReleases x.m.order then s.release g.core c.gid x.m.scope else s
    let moved := accs.filter (fun a => x.m.space == .global && c.s.movedAt g.ctx a.addr)
    let (s, olds) := s.atHome g.core c.gid x (accs.filter (fun a => !moved.contains a))
    let late := moved.map (fun a => (⟨a.lane, a.addr, 0#64⟩ : MemPre))
    let id := s.nextId
    let pre := ((List.range 32).filterMap (fun l => (preOf olds ++ late).find? (fun p => p.lane == l)))
    let s := s.updGroup c.gid (fun g =>
      ((if g.recGrade = .off then g else g.holdSpill).pushMemw (atomSize x.m) (aspace x.m.space) pre
        (if moved.isEmpty then none else some id)).recRun x.dst c.ex false)
    let recorded := g.recGrade != .off
    let s := if moved.isEmpty then s else s.await (.moved c.gid c.sn (x.later moved) flags) .atomicMovedReissue
    let quick := x.dst.isEmpty && !recorded && (flags.isEmpty || !moved.isEmpty)
    let s := if olds.isEmpty || quick then s
      else s.await (.atomic c.gid c.sn (accMask (olds.map (·.1))) (x.returns olds) (if moved.isEmpty then flags else [])) .atomicReturn
    return c.doneS s

/-- The MEMW entry that waits for the re-issue takes its old values; lanes that wrote nothing leave it (R195). -/
def Group.fillMemw (g : Group) (id : Nat) (lanes : Mask) (got : List MemPre) : Group :=
  let done (e : HEntry) : HEntry × Nat :=
    match e.kind with
    | .memw m sz sp pre (some j) =>
      if j = id then
        let pre' := pre.filterMap (fun p => if lanes.getLsbD p.lane then got.find? (fun q => q.lane == p.lane) else some p)
        let gone := pre.filter (fun p => lanes.getLsbD p.lane && !got.any (fun q => q.lane == p.lane))
        ({ e with kind := .memw (m &&& ~~~(maskOf (fun l => gone.any (fun p => p.lane == l)))) sz sp pre' none },
          16 * gone.length)
      else (e, 0)
    | _ => (e, 0)
  let es := g.hist.stack.map done
  let freed := (es.map (·.2)).sum
  let stack := es.map (·.1)
  let empty := stack.filter (fun e => match e.kind with | .memw _ _ _ [] none => true | _ => false)
  { g with
    hsp := g.hsp - BitVec.ofNat 57 (freed + 16 * empty.length)
    hist := { g.hist with stack := stack.filter (fun e => !empty.contains e) } }

/-! Ring queues. -/

/-- A ring control block as it is read (R196). -/
structure Ring where
  base  : DWord
  cap   : Nat
  esize : Nat
  tail  : Nat
  head  : Nat
  deriving DecidableEq, Repr

def leAt (bs : List Byte) (off n : Nat) : Nat := leNat ((bs.drop off).take n)

/-- The block's fields from its bytes. -/
def ringOf (bs : List Byte) : Ring :=
  ⟨w64 (leAt bs 0 8), leAt bs 8 4, leAt bs 12 4, leAt bs 16 8, leAt bs 24 8⟩

/-- Elements held, modulo 2^64. -/
def Ring.held (r : Ring) : Nat := (w64 r.tail - w64 r.head).toNat

/-- The limits of R196. -/
def Ring.sound (r : Ring) : Bool :=
  ((List.range 25).any (fun i => r.cap == 2 ^ i)) && [4, 8, 16, 32, 64].contains r.esize &&
    r.base.toNat % r.esize == 0 && decide (r.held ≤ r.cap)

/-- The address of an element (R196). -/
def Ring.elem (r : Ring) (i : Nat) : DWord := r.base + w64 (i % r.cap * r.esize)

/-- A queue operation after its checks: the block, its places, the lanes served with the places of their elements. -/
structure QueueOp where
  ring   : Ring
  block  : List Place
  served : List Acc
  locs   : List Loc
  deriving DecidableEq, Repr

/-- The places of a control block's fields, its bytes 0 to 31, or the first cause in the order of R200's table, a misaligned
block's 0x030A among them (R196). -/
def Iss.block (c : Iss) (sp : Space) (addr : DWord) : Run (List Place) :=
  let bytes : List (Except Cause Place) := (List.range 32).map (fun i =>
    if !canonical addr then .error 0x0303#16
    else c.s.translate c.g.ctx (c.g.mode == .user) true (sp == .polder) ((addr.setWidth 57).toNat + i))
  let ps := bytes.filterMap (fun e => match e with | .ok p => some p | .error _ => none)
  let cs := bytes.filterMap (fun e => match e with | .ok _ => none | .error x => some x) ++
    ps.flatMap (c.s.placeCauses c.g.team .atomic) ++
    (if c.s.consumes c.g.core c.gid sp .atomic ps then [0x0307#16] else []) ++
    (if addr.toNat % 64 = 0 then [] else [0x030A#16])
  match firstIn tableOrder cs with
  | some e => .error (.berm e none addr 0#64)
  | none => .ok ps

/-- The checks of ENQ and DEQ (R196, R198). `enq` tells which. The block is read as it stands at its home, what the core's
buffer holds of it drained. -/
def Iss.queueOp (c : Iss) (enq : Bool) (sp : Space) (a : KReg) (d : VReg) : Run QueueOp := do
  let addr := c.g.rdK a.toNat
  let places ← c.block sp addr
  let r := ringOf (places.map (c.s.preBypass c.g.core places).homeRead)
  need r.sound (.berm 0x030A#16 none addr 0#64)
  let locs ← c.g.locRun d.toNat (r.esize / 4)
  let lanes := (lanesOf c.ex).take (if enq then r.cap - r.held else r.held)
  let at_ (l : Nat) : DWord := r.elem ((if enq then r.tail else r.head) + (lanes.filter (fun j => decide (j < l))).length)
  let accs ← c.accessIn tableOrder sp (if enq then .store else .load) (maskOf (fun l => lanes.contains l)) at_ r.esize
  return ⟨r, places, accs, locs⟩

/-- A queue operation: the release first, then the checks, the commit, the effect (R198, R207, R24). -/
def Iss.queue (c : Iss) (enq : Bool) (sp : Space) (sc : Scope) (pc : PReg) (a : KReg) (d : VReg) : Run Fin :=
  if c.ex = 0#32 then .ok (c.done c.g)
  else do
    let c : Iss := { c with s := c.s.release c.g.core c.gid sc }
    let _ ← c.queueOp enq sp a d
    c.sealing (fun c => do
      let q ← c.queueOp enq sp a d
      let core := c.g.core
      let k := q.served.length
      let s := c.s.toHome core (q.block ++ q.served.flatMap (·.places))
      let s :=
        if enq then
          let s := s.putBytes core (q.served.flatMap (fun x => bytesAt x.places (c.g.runNat q.locs x.lane)))
          s.putBytes core (bytesAt ((q.block.drop 16).take 8) (q.ring.tail + k))
        else
          let ws := q.served.flatMap (fun x => laneWrites q.locs x.lane (s.homeNat x.places))
          (s.updGroup c.gid (fun g => g.applyWrites ws)).putBytes core
            (bytesAt ((q.block.drop 24).take 8) (q.ring.head + k))
      return s.updGroup c.gid (fun g => g.wrP pc.toNat c.ex (accMask q.served)))

/-- An instruction of the three. -/
def Iss.atomicI (c : Iss) (i : Instr) (fl : SFlags) : Run Fin :=
  match c.g.atomicOf i with
  | some r => do
    let x ← r
    c.atomic fl x
  | none => .ok (c.done c.g)

/-! The meanings. -/

/-- ATOM, ATOMCAS, RED (R194). -/
def execAtom (op : AOp) (m : AMod) (g : Guard) (d : VReg) (a b : Src) (s : State) : Out :=
  issue 2 g s (fun c => c.atomicI (.atom op m g d a b) ⟨false, false⟩)

def execAtomcas (m : AMod) (g : Guard) (d : VReg) (a b : Src) (s : State) : Out :=
  issue 2 g s (fun c => c.atomicI (.atomcas m g d a b) ⟨false, false⟩)

def execRed (op : AOp) (m : AMod) (fl : SFlags) (g : Guard) (a b : Src) (s : State) : Out :=
  issue 2 g s (fun c => c.atomicI (.red op m fl g a b) fl)

def execRedL96 (op : AOp) (m : AMod) (fl : SFlags) (g : Guard) (a : Src) (lit : Word) (s : State) : Out :=
  issue 3 g s (fun c => c.atomicI (.redL96 op m fl g a lit) fl)

def execEnq (space : GSpace) (scope : Scope) (g : Guard) (pc : PReg) (a : KReg) (d : VReg) (s : State) : Out :=
  issue 2 g s (fun c => c.queue true (gspace space) scope pc a d)

def execDeq (space : GSpace) (scope : Scope) (g : Guard) (pc : PReg) (a : KReg) (d : VReg) (s : State) : Out :=
  issue 2 g s (fun c => c.queue false (gspace space) scope pc a d)

end Sys2Proof.Machine
end

