-- ==== Sys2Proof/Machine/Uniform.lean ====
section
/-! DEFINITION. Machine/Uniform.lean: the uniform-register instructions (04 R122, R123) and the special registers (03 R87,
04 R120, R121, R132). -/

namespace Sys2Proof.Machine

def shl64 (a : DWord) (n : Nat) : DWord := if 64 ≤ n then 0#64 else a <<< n
def shr64 (a : DWord) (n : Nat) : DWord := if 64 ≤ n then 0#64 else a >>> n

def Iss.k2op (c : Iss) (o : K2) (f : DWord → DWord → DWord) (x : Bool) : Run Group :=
  .ok (c.uni o.d (f (c.g.rdK o.a.toNat) (c.g.rdK o.b.toNat)) x)
/-- Literals are sign-extended to 64 bits (R123). -/
def Iss.k2lop (c : Iss) (o : K2L) (f : DWord → DWord → DWord) (x : Bool) : Run Group :=
  .ok (c.uni o.d (f (c.g.rdK o.a.toNat) (sext64 o.lit)) x)

def Group.kAmt (g : Group) (n : KAmt) : Nat :=
  match n with
  | .k b => (g.rdK b.toNat).toNat
  | .imm n => n.toNat

/-- A special register, by number, lane and split (R87); the arrival %ic of %cfr stands in bits [111:64]. -/
def Group.special (g : Group) (sn : Nat) (sp : Split) (lane : Nat) (sr : BitVec 8) : Option DWord :=
  match sr with
  | 0x00#8 => some (g.ic.setWidth 64)
  | 0x01#8 => some (sp.cfrPc.setWidth 64)
  | 0x02#8 => some (if g.dir then 1#64 else 0#64)
  | 0x03#8 => some (match g.grade with | .off => 0#64 | .mark => 1#64 | .step => 2#64)
  | 0x04#8 => some (g.hsp.setWidth 64)
  | 0x05#8 => some (g.hbase.setWidth 64)
  | 0x06#8 => some (g.hlim.setWidth 64)
  | 0x07#8 => some (g.cmark.setWidth 64)
  | 0x08#8 => some g.rvinfo
  | 0x10#8 => some (g.sat.setWidth 64)
  | 0x11#8 => some (g.satarm.setWidth 64)
  | 0x20#8 => some (sp.mask.setWidth 64)
  | 0x21#8 => some (g.launched.setWidth 64)
  | 0x22#8 => some (w64 lane)
  | 0x30#8 => some (w64 g.groupNo)
  | 0x31#8 => some (w64 g.teamNo)
  | 0x32#8 => some (w64 g.clusterNo)
  | 0x33#8 => some (w64 g.gridNo)
  | 0x34#8 => some (w64 sn)
  | 0x40#8 => some (if g.stepBit then 1#64 else 0#64)
  | 0x41#8 => some (w64 g.depth)
  | 0x50#8 => some (g.privbase.setWidth 64)
  | 0x51#8 => some (w64 g.privlim)
  | 0x60#8 => some (w64 g.regs)
  | _ => none

/-- The writes of MTG and of system-mode MTS to the registers R87 marks RO⁺, and to those marked RW (R121, R404). -/
def Group.putSpecial (g : Group) (sr : BitVec 8) (x : DWord) : Option Group :=
  match sr with
  | 0x04#8 => some { g with hsp := toCAddr x }
  | 0x05#8 => some { g with hbase := toCAddr x }
  | 0x06#8 => some { g with hlim := toCAddr x }
  | 0x08#8 => some { g with rvinfo := x }
  | 0x11#8 => some { g with satarm := x.setWidth 8 }
  | 0x40#8 => some { g with stepBit := x.getLsbD 0 }
  | _ => none

/-! The meanings. -/

/-- Uniform moves and arithmetic (R123). -/
def execKmov (g : Guard) (d a : KReg) (s : State) : Out :=
  regOp 2 g s (fun c => .ok (c.uni d (c.g.rdK a.toNat) (d == a)))

def execKmovi (g : Guard) (d : KReg) (m : KmoviMode) (lit : Word) (s : State) : Out :=
  regOp 3 g s (fun c =>
    let x := match m with
      | .sx => sext64 lit
      | .zx => zext64 lit
      | .hi => joinW (loW (c.g.rdK d.toNat)) lit
    .ok (c.uni d x false))

def execKadd (o : K2) (s : State) : Out :=
  regOp 2 o.g s (fun c => c.k2op o (· + ·) (inPlaceK o))

def execKaddL96 (o : K2L) (s : State) : Out :=
  regOp 3 o.g s (fun c => c.k2lop o (· + ·) (inPlaceKL o))

def execKsub (o : K2) (s : State) : Out :=
  regOp 2 o.g s (fun c => c.k2op o (· - ·) (inPlaceK o))

def execKsubL96 (o : K2L) (s : State) : Out :=
  regOp 3 o.g s (fun c => c.k2lop o (· - ·) (inPlaceKL o))

def execKmul (o : K2) (s : State) : Out :=
  regOp 2 o.g s (fun c => c.k2op o (· * ·) false)

def execKmulL96 (o : K2L) (s : State) : Out :=
  regOp 3 o.g s (fun c => c.k2lop o (· * ·) false)

def execKand (o : K2) (s : State) : Out :=
  regOp 2 o.g s (fun c => c.k2op o (· &&& ·) false)

def execKandL96 (o : K2L) (s : State) : Out :=
  regOp 3 o.g s (fun c => c.k2lop o (· &&& ·) false)

def execKor (o : K2) (s : State) : Out :=
  regOp 2 o.g s (fun c => c.k2op o (· ||| ·) false)

def execKorL96 (o : K2L) (s : State) : Out :=
  regOp 3 o.g s (fun c => c.k2lop o (· ||| ·) false)

def execKxor (o : K2) (s : State) : Out :=
  regOp 2 o.g s (fun c => c.k2op o (· ^^^ ·) (inPlaceK o))

def execKxorL96 (o : K2L) (s : State) : Out :=
  regOp 3 o.g s (fun c => c.k2lop o (· ^^^ ·) (inPlaceKL o))

def execKshl (g : Guard) (d a : KReg) (n : KAmt) (s : State) : Out :=
  regOp 2 g s (fun c => .ok (c.uni d (shl64 (c.g.rdK a.toNat) (c.g.kAmt n)) false))

def execKshr (g : Guard) (d a : KReg) (n : KAmt) (s : State) : Out :=
  regOp 2 g s (fun c => .ok (c.uni d (shr64 (c.g.rdK a.toNat) (c.g.kAmt n)) false))

/-- MFS (R120). -/
def execMfs (g : Guard) (d : MfsDst) (sr : BitVec 8) (s : State) : Out :=
  regOp 2 g s (fun c => do
    let v (l : Nat) : DWord := (c.g.special c.sn c.sp l sr).getD 0#64
    match d with
    | .lane d hi =>
      let ld ← c.g.loc d.toNat
      return c.g.setV ld c.ex (fun l => if hi then hiW (v l) else loW (v l)) false
    | .uni d =>
      if sr = 0x01#8 then return c.g.setK2 c.ex d.toNat (c.sp.cfrPc.setWidth 64) (c.sp.cfrIc.setWidth 64)
      else return c.uni d (v 0) false)

/-- MTS (R121): the privilege check is made whatever Exec is. -/
def execMts (g : Guard) (sr : BitVec 8) (a : KReg) (s : State) : Out :=
  issue 2 g s (fun c =>
    let x := c.g.rdK a.toNat
    if sr = 0x08#8 then
      .ok (c.done (if c.ex = 0#32 then c.g else { c.g with rvinfo := x }))
    else if sr = 0x11#8 then
      .ok (c.done (if c.ex = 0#32 then c.g else { c.g.recArm with satarm := x.setWidth 8 }))
    else if (c.g.mode == .system && (sr == 0x01#8 || sr == 0x04#8 || sr == 0x05#8 || sr == 0x06#8 || sr == 0x40#8)) ||
        (c.g.mode == .monitor && sr == 0x40#8) then
      c.sealing (fun c =>
        if sr = 0x01#8 then
          .ok (c.s.setGroup c.gid (c.g.setSplit c.sn
            { c.sp with cfrPc := toCAddr x, cfrIc := (c.g.rdK (a.toNat + 1)).setWidth 48 }))
        else .ok (c.s.setGroup c.gid ((c.g.putSpecial sr x).getD c.g)))
    else raise 0x0901#16)

/-- RDCF (R132). -/
def execRdcf (g : Guard) (d : KReg) (s : State) : Out :=
  regOp 2 g s (fun c =>
    .ok (c.g.setK2 c.ex d.toNat (c.sp.cfrPc.setWidth 64) (c.sp.cfrIc.setWidth 64)))

end Sys2Proof.Machine
end

