-- ==== Sys2Proof/Machine/Control.lean ====
section
/-! DEFINITION. Machine/Control.lean: transfers and the division of a split (04 R124 to R133, 03 R76 to R79), register
budgets (03 R71 to R75), EXIT and CONV (03 R81, R83). -/

namespace Sys2Proof.Machine

/-! Register budgets. -/

/-- The quadrant of a core slot (R73). -/
def quadOf (slot : Nat) : Nat := slot / 8
def Group.quad (g : Group) : Nat := 4 * g.core + quadOf g.slot

/-- The registers a group holds in its quadrant's file: its budget and its window (R27, R71). -/
def Group.allot (g : Group) : Nat := g.regs + if g.window then 16 else 0

/-- The free registers of a quadrant's file of 2,048. -/
def State.quadFree (s : State) (quad : Nat) : Nat :=
  2048 - (s.groups.map (fun x => if x.2.quad = quad then x.2.allot else 0)).sum

/-- The largest budget the group may ask for (R72). -/
def Group.regLimit (g : Group) : Nat := if g.window then 240 else 256

/-- The budget becomes n; the registers added read zero (R72). -/
def Group.setRegs (g : Group) (n : Nat) : Group := { g with regs := n, v := g.v.clear (32 * g.regs) (32 * n) }

/-- How a request for a budget is answered at issue. -/
inductive GrowAns where
  /-- The group that goes on, with its GROWREC pushed when a grant was made. -/
  | yes (g : Group)
  /-- Failed: by R72, or by the core (R73). -/
  | no (g : Group)
  | wait
  deriving DecidableEq, Repr

/-- A split goes on with a budget of n, which %regs reaches. What it was granted is its GROWREC, with what stood below the grants as
the earlier value (R75; DEDUCED, log 54); the GROW of a split without a grant changes nothing, but that it relies on what another
was granted (R72). -/
def Group.takeGrant (g : Group) (split n : Nat) : Group :=
  match g.grants.get split with
  | some m =>
    let top := max g.growOld (max n m)
    (g.pushBoth (.growrec g.growOld top)).withGrants top (g.grants.del split)
  | none => if g.baseRegs < n then { g with relied := max g.relied n } else g

/-- R72, R73: a request for n registers by the issuing split. -/
def Iss.askGrow (c : Iss) (n : Nat) : GrowAns :=
  if c.g.growFail = some c.sn then .no { c.g with growFail := none }
  else if n ≤ c.g.regs then .yes (c.g.takeGrant c.sn n)
  else if c.g.regLimit < n then .no c.g
  else if c.s.growQ.any (fun x => x.quad == c.g.quad) || decide (c.s.quadFree c.g.quad < n - c.g.regs) then .wait
  else .yes (((c.g.pushBoth (.growrec c.g.baseRegs n)).setRegs n).withGrants n (c.g.grants.del c.sn))

/-- The split waits at GROW, keeping its slot and its clause (R72, R128). -/
def Iss.waitGrow (c : Iss) (n : Nat) : State :=
  let g := { c.g with
    splits := c.g.splits.put c.sn { c.sp with wait := .grow, mid := c.g.clause }
    clause := none }
  { c.s.setGroup c.gid g with growQ := c.s.growQ ++ [⟨c.g.quad, c.gid, c.sn, n⟩] }

/-! Targets. -/

/-- Lanes grouped by target, in the order of their lowest lanes (R126). -/
def groupTargets (t : Nat → CAddr) (lanes : List Nat) : List (CAddr × Mask) :=
  ((lanes.map t).eraseDups).map (fun a => (a, maskOf (fun i => lanes.contains i && t i == a)))

/-- The free split numbers, lowest first. -/
def Group.freeNumbers (g : Group) : List Nat := (List.range 4).filter (fun n => (g.splits.get n).isNone)

/-- R128 item 1: every target is the address of a clause header. -/
def Iss.checkTargets (c : Iss) (ts : List (CAddr × Mask)) : Run Unit := do
  let bad ← ts.filterM (fun t => do
    let h ← c.s.isHeader c.g.ctx t.1
    return !h)
  match bad with
  | [] => return ()
  | t :: _ => raiseL 0x0101#16 (maskOf (fun l => bad.any (fun b => b.2.getLsbD l))) (t.1.setWidth 64)

/-- The split that arrives at a target by this transfer (R126). -/
def Iss.arrive (c : Iss) (pc : CAddr) (m : Mask) : Split :=
  { pc := pc, mask := m, cfrPc := c.sp.pc, cfrIc := c.g.ic + 1#48, wait := .ready, mid := none }

/-- The split's previous %cfr, recorded when a split that keeps its number transfers (R126). -/
def Iss.cfRec (c : Iss) (g : Group) : Group := g.pushStep (.cf c.sp.cfrPc c.sp.cfrIc)

/-- New splits for target groups, numbers in order, one SPLIT entry each (R77, R127). -/
def Iss.newSplits (c : Iss) (g : Group) : List ((CAddr × Mask) × Nat) → Group
  | [] => g
  | ((t, m), n) :: rest =>
    let g := g.pushStep (.split n c.sn m t)
    c.newSplits (g.setSplit n (c.arrive t m)) rest

/-- Parks paths in order, one PARKREC each (R78, R127). -/
def Iss.parkAll (c : Iss) (g : Group) : List (CAddr × Mask) → Group
  | [] => g
  | (t, m) :: rest =>
    let g := g.pushStep (.parkrec false c.sn m t)
    c.parkAll { g with parked := g.parked ++ [⟨t, m⟩] } rest

/-- Divides the split (R126, R77, R78): who keeps the number, the new splits, the parked paths. -/
def Iss.divide (c : Iss) (g : Group) (ts : List (CAddr × Mask)) (rest : Mask) : Run Group :=
  let free := c.g.freeNumbers
  let stay : Split := { c.sp with pc := c.nextPc, mask := rest, mid := none }
  match ts with
  | [] => .ok (g.setSplit c.sn stay)
  | (t0, m0) :: more =>
    if rest ≠ 0#32 ∧ ts.length ≤ free.length then
      .ok (c.newSplits (g.setSplit c.sn stay) (ts.zip free))
    else
      let parks := more.drop free.length ++ (if rest = 0#32 then [] else [(c.nextPc, rest)])
      if parks ≠ [] ∧ 8 < c.g.parked.length + parks.length then raise 0x0203#16
      else
        let g := (c.cfRec g).setSplit c.sn (c.arrive t0 m0)
        .ok (c.parkAll (c.newSplits g (more.zip free)) parks)

/-- What distinguishes the transfers: whether BRU's check applies, the link pair, the budget that CALLI's targets declare. -/
structure Transfer where
  t      : Nat → CAddr
  m      : Mask
  unif   : Bool
  link   : Option VReg
  budget : Nat

/-- The implicit GROW of a CALLI (R74); no other transfer asks for one, and none in handler mode, where a larger budget is 0x0907
(R385): a grant to the split that a routine has put aside is not the routine's. -/
def Iss.implicitGrow (c : Iss) (budget : Nat) : GrowAns :=
  if budget = 0 || c.g.inHandler then .yes c.g else c.askGrow budget

/-- The issuing split without the budget granted to it. -/
def Iss.withoutGrant (c : Iss) : Iss := { c with g := c.g.revokeGrow (· == c.sn) }

/-- A transfer that stops at a check gives the budget back that it was granted while it waited (R128). -/
def Iss.ungranted {α : Type} (c : Iss) (r : Run α) : Run α :=
  match r with
  | .error (.berm cause lanes a b) =>
    if !c.g.inHandler && (c.g.grants.get c.sn).isSome then .error (.wait (c.withoutGrant.stopWith (.berm cause lanes a b)))
    else .error (.berm cause lanes a b)
  | r => r

/-- The checks and the effect of a transfer, in the order of R128. 0x0907 precedes the test of the link pair (R383). Handler mode's
0x0205 stands with BRU's, before the implicit GROW and the parked paths (DESIGN CHOICE, log 46). -/
def Iss.transferOf (c : Iss) (x : Transfer) : Run Fin := do
  need (!(c.g.inHandler && decide (c.g.regs < x.budget))) (.berm 0x0907#16 none 0#64 0#64)
  let link ← match x.link with
    | some d => (c.g.locPair d.toNat).map some
    | none => .ok none
  if x.m = 0#32 then .ok (c.done c.g)
  else do
    let rest := c.sp.mask &&& ~~~x.m
    let ts := groupTargets x.t (lanesOf x.m)
    c.checkTargets ts
    need (!(x.unif && rest != 0#32)) (.berm 0x0205#16 none (w64 c.sp.mask.toNat) (w64 0))
    need (!(c.g.inHandler && (rest != 0#32 || decide (1 < ts.length)))) (.berm 0x0205#16 none (w64 c.sp.mask.toNat) 0#64)
    let g ← match c.implicitGrow x.budget with
      | .yes g => pure g
      | .no g => .error (.wait ({ c with g := g }.withoutGrant.fault 0x0202#16 c.ex (w64 x.budget) 0#64))
      | .wait => .error (.wait (c.waitGrow x.budget))
    let ret : DWord := c.nextPc.setWidth 64
    let g := match link with
      | some (l1, l2) => g.setV2 l1 l2 x.m (fun _ => loW ret) (fun _ => hiW ret) false
      | none => g
    let g ← c.divide g ts rest
    return { s := c.s.setGroup c.gid { g with clause := none }, count := c.counts, sealed := false, jump := true }

/-- A transfer (R126 to R129, R133). -/
def Iss.transfer (c : Iss) (x : Transfer) : Run Fin := c.ungranted (c.transferOf x)

/-! The meanings. -/

/-- A branch to PC + offset (R124, R129). -/
def Iss.branch (c : Iss) (off : Word) (unif : Bool) : Run Fin :=
  c.transfer { t := fun _ => c.sp.pc + toCAddr (sext64 off), m := c.ex, unif := unif, link := none, budget := 0 }

def execBra (g : Guard) (off : Word) (s : State) : Out := issue 3 g s (fun c => c.branch off false)

def execBru (g : Guard) (off : Word) (s : State) : Out := issue 3 g s (fun c => c.branch off true)

/-- BRX (R125, R129). -/
def execBrx (g : Guard) (t : Src) (s : State) : Out :=
  issue 2 g s (fun c => do
    let v ← c.g.src64 t
    c.transfer { t := fun l => toCAddr (v l), m := c.ex, unif := false, link := none, budget := 0 })

/-- CALL (R129). -/
def execCall (g : Guard) (d : VReg) (off : Word) (s : State) : Out :=
  issue 3 g s (fun c =>
    c.transfer { t := fun _ => c.sp.pc + toCAddr (sext64 off), m := c.ex, unif := false, link := some d, budget := 0 })

/-- The declared budget of a target value (R125). -/
def declared (x : DWord) : Nat := 16 * (fld x 57 4 + 1)

/-- CALLI (R125, R129, R74). -/
def execCalli (g : Guard) (d : VReg) (t : Src) (s : State) : Out :=
  issue 2 g s (fun c => do
    let v ← c.g.src64 t
    let want := (lanesOf c.ex).foldl (fun n l => max n (declared (v l))) 0
    c.transfer { t := fun l => toCAddr (v l), m := c.ex, unif := false, link := some d, budget := want })

/-- RET (R129). -/
def execRet (a : VReg) (s : State) : Out :=
  issue 1 always s (fun c => do
    let p ← c.g.locPair a.toNat
    c.transfer { t := fun l => toCAddr (c.g.pairV p l), m := c.ex, unif := false, link := none, budget := 0 })

/-- The issuing split's lanes leave the group after its instruction, the clause over (R83, R130). -/
def Iss.leaveGroup (c : Iss) (g : Group) (m : Mask) : Group :=
  { g.advance c.sn c.len with clause := none }.leaveLanes c.sn m

/-- EXIT (R130, R133): the group goes when no split and no parked path holds a lane. -/
def execExit (s : State) : Out :=
  issue 1 always s (fun c => do
    need (!c.g.inHandler) (.berm 0x0206#16 none 0#64 0#64)
    let f ← c.sealing (fun c => .ok ((c.s.setGroup c.gid (c.leaveGroup c.g c.sp.mask)).reap c.gid))
    return { f with jump := true })

/-- The saturation test of R272 before a BAR or CONV; not at a CONV in handler mode (R385). -/
def Iss.satTest (c : Iss) : Run Unit :=
  let x := c.g.sat &&& c.g.satarm
  if c.g.inHandler || x == 0#8 then .ok ()
  else if (c.s.handlerFor c.g .saturation).isSome then .error (.handler .saturation 0x0503#16 (x.setWidth 64))
  else raiseA 0x0503#16 (x.setWidth 64)

/-- CONV (R81, R131): it completes at once for a group's only split; else the split waits with its PC after the CONV. -/
def execConv (s : State) : Out :=
  issue 1 always s (fun c => do
    c.satTest
    let alone := decide (c.g.splits.length ≤ 1) && c.g.parked.isEmpty
    let g := if alone then c.g.advance c.sn c.len
      else { c.g.advance c.sn c.len with
        splits := (c.g.advance c.sn c.len).splits.upd c.sn (fun sp => { sp with wait := .conv c.sp.pc }) }
    return { s := c.s.setGroup c.gid { g with clause := none }, count := c.counts, sealed := false, jump := true })

end Sys2Proof.Machine
end

