-- ==== Sys2Proof/Machine/Batcher.lean ====
section
/-! DEFINITION. Machine/Batcher.lean: the conflict batcher (15_conflict_batcher R364 to R375): streams, the batching rule,
taking and finishing batches. -/

namespace Sys2Proof.Machine

/-- A free stream (R364). -/
def Stream.free : Stream := ⟨.free, 0, [], [], [], 0#32⟩

def State.stream (s : State) (ctx n : Nat) : Stream := ((s.ctxs.get ctx).bind (fun c => c.streams.get n)).getD Stream.free
def State.setStream (s : State) (ctx n : Nat) (x : Stream) : State :=
  s.updCtx ctx (fun c => { c with streams := c.streams.put n x })

/-! The batching rule (R365 to R368). -/

/-- The body set of a constraint: without the value that stands for no body, each once (R365). -/
def bodySet (bs : List Word) : List Word := (bs.filter (· != 0xFFFFFFFF#32)).eraseDups

/-- Whether a batch may take a constraint. -/
def Batch.takes (b : Batch) (bodies : List Word) : Bool :=
  decide (b.members.length < 32) && bodies.all (fun x => !b.bodies.contains x)

def Batch.add (b : Batch) (id : Word) (bodies : List Word) : Batch :=
  { b with members := b.members ++ [id], bodies := (b.bodies ++ bodies).eraseDups }

/-- Closes the open batch at a place among them, oldest first: it goes to the tail of the closed queue. -/
def Stream.close (x : Stream) (i : Nat) : Stream :=
  match x.openBatches[i]? with
  | some b => { x with openBatches := x.openBatches.eraseIdx i, closed := x.closed ++ [b] }
  | none => x

/-- Closes the oldest open batch when eight are open. -/
def Stream.makeRoom (x : Stream) : Stream :=
  if 8 ≤ x.openBatches.length then x.close 0 else x

/-- A new open batch, numbered by the counter. -/
def Stream.newBatch (x : Stream) : Stream :=
  { x with openBatches := x.openBatches ++ [⟨x.counter, [], []⟩], counter := x.counter + 1#32 }

/-- Adds the constraint to the batch at a place, which closes at 32 members. -/
def Stream.join (x : Stream) (i : Nat) (id : Word) (bodies : List Word) : Stream :=
  let x : Stream := { x with openBatches := x.openBatches.modify i (fun b => b.add id bodies) }
  if x.openBatches[i]?.any (fun b => decide (32 ≤ b.members.length)) then x.close i else x

/-- Places one constraint; `none` when a batch would close and the closed queue holds 16 (R367). -/
def Stream.place (x : Stream) (id : Word) (bodies : List Word) : Option Stream :=
  let y := match x.openBatches.findIdx? (fun b => b.takes bodies) with
    | some i => x.join i id bodies
    | none => x.makeRoom.newBatch.join x.makeRoom.openBatches.length id bodies
  if x.closed.length < y.closed.length && decide (16 ≤ x.closed.length) then none else some y

/-- Places constraints in order until one is not accepted: the stream and how many were accepted (R370). -/
def Stream.placeAll (x : Stream) : List (Word × List Word) → Stream × Nat
  | [] => (x, 0)
  | c :: t =>
    match x.place c.1 (bodySet c.2) with
    | some y =>
      let r := y.placeAll t
      (r.1, r.2 + 1)
    | none => (x, 0)

/-- Closes open batches, oldest first, while the closed queue has room: the stream and how many were issued (R368). -/
def Stream.flush (x : Stream) : Stream × Nat :=
  let n := min x.openBatches.length (16 - x.closed.length)
  ({ x with openBatches := x.openBatches.drop n, closed := x.closed ++ x.openBatches.take n }, n)

/-- A closing stream that is drained and has nothing outstanding becomes free (R375). -/
def Stream.settle (x : Stream) : Stream :=
  if x.state = .closing ∧ x.closed = [] ∧ x.outstanding = [] then Stream.free else x

/-! The instructions (R374, R375). -/

/-- A stream that is not in a state the instruction allows. -/
def streamFault {α : Type} : Run α := raise 0x0801#16

def Iss.cbopen (c : Iss) (n : Nat) (d : KReg) : Run Fin :=
  if c.ex = 0#32 then .ok (c.done c.g)
  else c.sealing (fun c =>
    let answer (s : State) (v : DWord) : State := s.updGroup c.gid (fun g => g.wrK d.toNat v)
    .ok (match (c.s.stream c.g.ctx n).state with
      | .free => answer (c.s.setStream c.g.ctx n { Stream.free with state := .open_, core := c.g.core }) 0#64
      | .open_ => answer c.s 1#64
      | .closing => answer c.s 2#64))

def Iss.cbpush (c : Iss) (n bodies : Nat) (d : PReg) (a b : VReg) : Run Fin := do
  let la ← c.g.loc a.toNat
  let lb ← c.g.locRun b.toNat bodies
  if c.ex = 0#32 then return c.done c.g
  else if (c.s.stream c.g.ctx n).state ≠ .open_ then streamFault
  else c.sealing (fun c =>
    let lanes := lanesOf c.ex
    let r := (c.s.stream c.g.ctx n).placeAll (lanes.map (fun l => (c.g.rdV la l, lb.map (fun x => c.g.rdV x l))))
    let ok := maskOf (fun l => (lanes.take r.2).contains l)
    .ok ((c.s.setStream c.g.ctx n r.1).updGroup c.gid (fun g => g.wrP d.toNat c.ex ok)))

/-- CBPULL's status, tested in order. -/
def Stream.pullStatus (x : Stream) (lanes : Nat) : Nat :=
  if 8 ≤ x.outstanding.length then 4
  else match x.closed with
    | [] => if x.state = .open_ then 1 else 2
    | b :: _ => if lanes < b.members.length then 3 else 0

def Iss.cbpull (c : Iss) (n : Nat) (d : VReg) (b : KReg) (p : PReg) : Run Fin := do
  let ld ← c.g.loc d.toNat
  if c.ex = 0#32 then return c.done c.g
  else if (c.s.stream c.g.ctx n).state = .free then streamFault
  else c.sealing (fun c =>
    let x := c.s.stream c.g.ctx n
    let lanes := lanesOf c.ex
    let status := x.pullStatus lanes.length
    .ok (match status, x.closed with
      | 0, y :: rest =>
        let served := maskOf (fun l => (lanes.take y.members.length).contains l)
        let s := c.s.setStream c.g.ctx n ({ x with closed := rest, outstanding := x.outstanding ++ [y.number] })
        s.updGroup c.gid (fun g =>
          ((g.wrV ld c.ex (fun l => y.members.getD (lanes.idxOf l) 0xFFFFFFFF#32)).wrP p.toNat c.ex served).wrK b.toNat
            (w64 (y.number.toNat + 2 ^ 40 * y.members.length)))
      | _, _ =>
        (c.s.setStream c.g.ctx n x.settle).updGroup c.gid (fun g => g.wrK b.toNat (w64 (2 ^ 32 * status)))))

def Iss.cbdone (c : Iss) (n : Nat) (d a : KReg) : Run Fin :=
  if c.ex = 0#32 then .ok (c.done c.g)
  else if (c.s.stream c.g.ctx n).state = .free then streamFault
  else c.sealing (fun c =>
    let x := c.s.stream c.g.ctx n
    let num := loW (c.g.rdK a.toNat)
    let found := x.outstanding.contains num
    let y := if found then ({ x with outstanding := x.outstanding.erase num }).settle else x
    .ok ((c.s.setStream c.g.ctx n y).updGroup c.gid (fun g => g.wrK d.toNat (if found then 0#64 else 1#64))))

def Iss.cbflush (c : Iss) (n : Nat) (close : Bool) (d : KReg) : Run Fin :=
  if c.ex = 0#32 then .ok (c.done c.g)
  else if (c.s.stream c.g.ctx n).state ≠ .open_ then streamFault
  else c.sealing (fun c =>
    let (y, k) := (c.s.stream c.g.ctx n).flush
    let left := !y.openBatches.isEmpty
    let y := if close && !left then { y with state := .closing } else y
    let v := w64 (k + (if left then 2 ^ 8 else 0) + (if close && !left then 2 ^ 9 else 0))
    .ok ((c.s.setStream c.g.ctx n y).updGroup c.gid (fun g => g.wrK d.toNat v)))

/-! The meanings. -/

def execCbopen (n : BitVec 3) (g : Guard) (d : KReg) (s : State) : Out := issue 2 g s (fun c => c.cbopen n.toNat d)

/-- CBPUSH: bodies − 1 is encoded. -/
def execCbpush (n : BitVec 3) (bodies : BitVec 2) (g : Guard) (d : PReg) (a b : VReg) (s : State) : Out :=
  issue 2 g s (fun c => c.cbpush n.toNat (bodies.toNat + 1) d a b)

def execCbpull (n : BitVec 3) (g : Guard) (d : VReg) (b : KReg) (p : PReg) (s : State) : Out :=
  issue 2 g s (fun c => c.cbpull n.toNat d b p)

def execCbdone (n : BitVec 3) (g : Guard) (d a : KReg) (s : State) : Out := issue 2 g s (fun c => c.cbdone n.toNat d a)

def execCbflush (n : BitVec 3) (close : Bool) (g : Guard) (d : KReg) (s : State) : Out :=
  issue 2 g s (fun c => c.cbflush n.toNat close d)

end Sys2Proof.Machine
end

