-- ==== Sys2Proof/Machine/Tile.lean ====
section
/-! DEFINITION. Machine/Tile.lean: polder tiles: handles and polder operands (12 R306 to R308), TILEGET and TILEPUT (R310 to
R314), recall queues, surrender routines and handovers (R315 to R322), sealed buffers (R332 to R334). -/

namespace Sys2Proof.Machine

/-! Where a tile lies (R21, R178, R306). -/

/-- The die of a tile, and its slice, which the manual does not number: the tiles of a die go round its slices (DESIGN CHOICE,
log 49). -/
def tileDie (t : Nat) : Nat := t / 1792
def tileSlice (t : Nat) : Nat := 64 * tileDie t + t % 1792 % 64

/-- Whether the division of the tile's die serves it: each slice gives d / 64 MiB, four tiles to the MiB. -/
def State.tileServed (s : State) (t : Nat) : Bool := decide (t % 1792 / 256 < s.mgmt.split.getD (tileDie t) 0)

/-! Handles and operands (R307, R308). -/

/-- The handle of a tile (R307). -/
def handleOf (t : Nat) (x : TileRec) : Nat := t + 2 ^ 13 * x.gen.toNat

/-- The tile that a handle names. -/
def State.byHandle (s : State) (ctx h : Nat) : Run (Nat × TileRec) :=
  match s.tiles.get (h % 2 ^ 13) with
  | some x => if x.ctx = ctx ∧ handleOf (h % 2 ^ 13) x = h then .ok (h % 2 ^ 13, x) else raiseA 0x0602#16 (w64 h)
  | none => raiseA 0x0602#16 (w64 h)

/-- The form of a polder operand that names `len` bytes: its reserved bits, and its range within the tile (R308). -/
def polderForm (x : DWord) (len : Nat) : Bool := fld x 39 25 == 0 && decide (fld x 0 18 + len ≤ 2 ^ 18)

/-- A polder operand: its tile and its offset; the range of `len` bytes from it ends within the tile (R308). -/
def State.polderOp (s : State) (ctx : Nat) (x : DWord) (len : Nat) : Run (Nat × Nat) := do
  need (polderForm x len) (.berm 0x0605#16 none x 0#64)
  let t ← s.byHandle ctx (fld x 18 21)
  return (t.1, fld x 0 18)

def invalid {α : Type} : Run α := raise 0x0605#16

/-- A condition whose failure is an invalid tile or copy operand. -/
def valid (b : Bool) : Run Unit := need b (.berm 0x0605#16 none 0#64 0#64)

/-- Whether some range lock covers a byte of the tile (R307). -/
def State.tileLocked (s : State) (t : Nat) : Bool :=
  s.copies.any (fun c => c.2.locks.any (fun r => (s.segs c.2.ctx r).any (fun x =>
    match x.1 with
    | .pol i => decide (i < (t + 1) * 2 ^ 18) && decide (t * 2 ^ 18 < i + x.2)
    | _ => false)))

/-- Whether some range lock covers a byte of a part of a team's core store. -/
def State.csLocked (s : State) (team off len : Nat) : Bool :=
  decide (0 < len) && s.copies.any (fun c => c.2.locks.any (fun r => (s.segs c.2.ctx r).any (fun x =>
    match x.1 with
    | .cs t a => t == team && decide (a < off + len) && decide (off < a + x.2)
    | _ => false)))

/-- Whether a range lock covers the mailbox of a request (R208, R312). -/
def State.boxBarred (s : State) (r : TileReq) : Bool := s.csLocked r.team r.mailbox 288

/-- Whether a release sweep for the tile is in progress (R314). -/
def State.tileSweeping (s : State) (t : Nat) : Bool :=
  s.sweeps.any (fun w => match w.2 with
    | .release _ u _ => u == t
    | .handover _ u _ _ => u == t
    | _ => false)

/-! Handover and release (R313, R317). -/

/-- Changes a team, resident or in an image. -/
def State.updTeamIn (s : State) (k : Nat) (f : Team → Team) : State :=
  if (s.teams.get k).isSome then s.updTeam k f
  else { s with ctxs := s.ctxs.map (fun c =>
    (c.1, { c.2 with image := c.2.image.map (fun i => { i with teams := i.teams.upd k f }) })) }

/-- The mailbox record of a request, in its team's core store (R317). -/
def State.mailbox (s : State) (r : TileReq) (outcome len : Nat) (handle : Nat) (va : Nat) (summary : List Byte) : State :=
  s.updTeamIn r.team (fun t =>
    let cs := t.cs.writeN (r.mailbox + 4) 4 len
    let cs := cs.writeN (r.mailbox + 8) 8 handle
    let cs := cs.writeN (r.mailbox + 16) 8 va
    let cs := cs.writeN (r.mailbox + 24) 8 0
    let cs := summary.zipIdx.foldl (fun cs b => cs.set (r.mailbox + 32 + b.2) b.1) cs
    { t with cs := cs.writeN r.mailbox 4 outcome })

/-- Whether a team has not ended: it is resident, or in the image of a context that is switched out. -/
def State.teamLives (s : State) (k : Nat) : Bool :=
  (s.teams.get k).isSome || s.ctxs.any (fun c => c.2.image.any (fun i => (i.teams.get k).isSome))

/-- Requests whose team has ended leave the head of the queue (R315). -/
def State.liveReqs (s : State) (q : List TileReq) : List TileReq := q.dropWhile (fun r => !s.teamLives r.team)

/-- Whether the context of a tile is switched out: what is under way for the tile stands still till its restore (R321). -/
def State.tileOut (s : State) (t : Nat) : Bool :=
  ((s.tiles.get t).bind (fun x => s.ctxs.get x.ctx)).any (fun c => c.image.isSome)

/-- Whether a tile cannot pass on yet: a range lock covers it (R307, R317), the mailbox of the request that it goes to, or the
summary (R208). -/
def State.passBarred (s : State) (t : Nat) (sum : Nat × Nat) : Bool :=
  s.tileLocked t || (s.tiles.get t).any (fun x =>
    (s.liveReqs x.queue).head?.any s.boxBarred || s.csLocked x.team sum.1 sum.2)

/-- A tile back in the pool: the generation has risen (R307, R313). -/
def TileRec.freed (x : TileRec) : TileRec :=
  { x with
    state := .free, team := 0, gid := 0, gen := x.gen + 1#8, routine := ⟨0#57, 0, 0⟩, refusals := 0, queue := [],
    running := none }

/-- Steps 2 to 4 of R317 for the oldest request whose team has not ended; without one the tile stays, or is released when its
team has ended (R309). Where the team of the request that a routine served has ended meanwhile, the next live request takes its
place and gets the summary, or the holder keeps the tile (R315, R318; DESIGN CHOICE, log 55). `sum` is the summary's offset and
length. -/
def State.handover (s : State) (t : Nat) (sum : Nat × Nat) : State :=
  match s.tiles.get t with
  | none => s
  | some x =>
    match s.liveReqs x.queue with
    | [] => { s with tiles := s.tiles.put t (if !s.teamLives x.team then x.freed else { x with queue := [] }) }
    | r :: q =>
      let bytes := (List.range sum.2).map (fun i => (s.teams.get x.team).elim 0#8 (fun h => h.cs.get (sum.1 + i)))
      let x' : TileRec := { x with
        state := .negotiated, team := r.team, gid := r.gid, gen := x.gen + 1#8, routine := r.routine, refusals := 0,
        queue := q, running := none }
      let s := { s with tiles := s.tiles.put t x' }
      (s.mailbox r 0x10 sum.2 (handleOf t x') x'.va bytes).fireEvent x.ctx r.event

/-- A tile that is released: to the oldest request of a negotiated tile, or to the pool (R313). -/
def State.settleTile (s : State) (t : Nat) : State :=
  match s.tiles.get t with
  | none => s
  | some x =>
    if x.state = .negotiated ∧ s.liveReqs x.queue ≠ [] then s.handover t (0, 0)
    else { s with tiles := s.tiles.put t x.freed }

/-- The end of a release sweep: nothing while a range lock stands in its way (R208, R307, R317), or the context is switched out. -/
def State.releaseDone (s : State) (id gid t : Nat) (sum : Option (Nat × Nat)) : State :=
  if s.passBarred t (sum.getD (0, 0)) || s.tileOut t then s
  else
    let s := { s with sweeps := s.sweeps.del id }
    let s := match sum with
      | some x => s.handover t x
      | none => s.settleTile t
    s.updGroup gid (fun g => g.wake (.sweep id))

/-- The routine for a tile runs no longer. -/
def State.routineOver (s : State) (t : Nat) : State :=
  match s.tiles.get t with
  | none => s
  | some x => ({ s with tiles := s.tiles.put t { x with running := none } }).updTeam x.team (fun m => { m with routine := none })

/-- The group leaves its surrender routine, and any handler nested in it, its splits as they stood (R319, R322). -/
def Group.leaveRoutine (g : Group) (f : HFrame) : Group :=
  let w := (g.frames.getLast?).getD f
  { g with frames := [], winV := w.winV, winW := w.winW, splits := f.aside, parked := f.parkedAside, clause := f.clauseAside,
           cur := f.split, lastStart := f.started, inARow := f.row, yielded := f.yielded }

/-- The end of a routine's handover: the tile passes on, the group leaves handler mode; when its budget has ended the routine
it takes 0x0603 at the point of entry (R317, R319, R322). -/
def State.handoverDone (s : State) (id gid t : Nat) (sum : Nat × Nat) (overrun : Bool) : State :=
  if s.passBarred t sum || s.tileOut t then s
  else
    let h := (s.tiles.get t).elim 0 (handleOf t)
    let s := (({ s with sweeps := s.sweeps.del id }).routineOver t).handover t sum
    match s.groups.get gid with
    | none => s
    | some g =>
      match g.frames.getLast? with
      | none => s
      | some f =>
        let g := g.leaveRoutine f
        if overrun then s.toBerm gid g f.split 0x0603#16 f.lanes f.at_ (w64 h) 0#64 0 none else s.setGroup gid g

/-- A release sweep begins. -/
def State.sweepTile (s : State) (gid t : Nat) (sum : Option (Nat × Nat)) : Nat × State :=
  let (id, s) := s.newId
  (id, { s with sweeps := s.sweeps.put id (.release gid t sum) }.post (.sweepComplete id))

/-- A routine has ended with a handover: its sweep begins, and the group waits for it in handler mode (R317, R322). -/
def State.beginHandover (s : State) (gid t : Nat) (sum : Nat × Nat) (overrun : Bool) : State :=
  let (id, s) := s.newId
  ({ s with sweeps := s.sweeps.put id (.handover gid t sum overrun) }.post (.sweepComplete id)).updGroup gid (fun g =>
    { g with splits := g.splits.map (fun (x : Nat × Split) => (x.1, { x.2 with wait := .sweep id, mid := none })), clause := none })

/-- Range locks have dropped: the release sweeps that waited for them end. -/
def State.locksDropped (s : State) : State :=
  s.sweeps.foldl (fun s w => match w.2 with
    | .release _ t sum => if s.passBarred t (sum.getD (0, 0)) then s else s.post (.sweepComplete w.1)
    | .handover _ t sum _ => if s.passBarred t sum then s else s.post (.sweepComplete w.1)
    | _ => s) s

/-! TILEGET (R310 to R312). -/

/-- A routine word (R311). -/
def routineOf (x : DWord) : Routine := ⟨toCAddr x, 256 * 2 ^ fld x 57 4, fld x 61 3⟩

/-- The routine that a word stands for: all zero is the launch's own, with refusal limit 2 (R311). -/
def Iss.routine (c : Iss) (x : DWord) : Routine :=
  if x = 0#64 then
    let l := routineOf ((c.s.grids.get c.g.grid).elim 0#64 (·.surr))
    { l with limit := 2 }
  else routineOf x

/-- The tile that an allocating TILEGET takes (R311, R312): the lowest (DESIGN CHOICE, log 33). -/
def State.pickTile (s : State) (ctx core place : Nat) : Option (Nat × TileRec) :=
  let free := s.tiles.filter (fun t => t.2.ctx == ctx && t.2.state == .free)
  let on (d : Nat) : Option (Nat × TileRec) := free.find? (fun t => t.1 / 1792 == d)
  if place = 0 then (on (core / 64)).or free.head? else on (place - 8)

/-- The checks of R311 before the handle's. -/
def Iss.tileWords (c : Iss) (m : TileMode) (ka kb : DWord) : Run Unit := do
  if m = .neg ∨ m = .req then
    valid (ka.toNat % 4 == 0 && decide (fld ka 57 4 ≤ 8) &&
      toCAddr ((c.s.grids.get c.g.grid).elim 0#64 (·.surr)) != 0#57)
  if m = .req then
    valid (fld kb 21 11 == 0 && fld kb 32 32 % 32 == 0 &&
      decide (fld kb 32 32 + 288 ≤ (c.s.teams.get c.g.team).elim 0 (·.csSize)))
  else valid ([0, 8, 9, 10, 11].contains kb.toNat)

/-- The answer of .req and the state after it: the tests in R312's order. -/
def Iss.askTile (c : Iss) (t : Nat) (x : TileRec) (ka kb : DWord) (event : Nat) : Nat × State :=
  if (x.state = .held ∨ x.state = .negotiated) ∧ x.team = c.g.team then (5, c.s)
  else match x.state with
    | .open_ => (4, c.s)
    | .free => (7, c.s)
    | .held => (3, c.s)
    | .negotiated =>
      if 16 ≤ x.queue.length then (2, c.s)
      else
        let r : TileReq := ⟨c.g.team, c.gid, c.routine ka, fld kb 32 32, event⟩
        (6, { c.s with tiles := c.s.tiles.put t { x with queue := x.queue ++ [r] } })

/-- Writes the result pair, which nothing records (R312). -/
def State.putPair (s : State) (gid : Nat) (d : KReg) (x y : DWord) : State :=
  s.updGroup gid (fun g => (g.wrK d.toNat x).wrK (d.toNat + 1) y)

/-- TILEGET (R310 to R312). The handle of K(D) is 0 with status 0x01, where no tile was found (DESIGN CHOICE, log 55). -/
def Iss.tileget (c : Iss) (m : TileMode) (d a b ev : KReg) : Run Fin :=
  if c.ex = 0#32 then .ok (c.done c.g)
  else do
    let ka := c.g.rdK a.toNat
    let kb := c.g.rdK b.toNat
    c.tileWords m ka kb
    if m = .req then
      let _ ← c.s.byHandle c.g.ctx (fld kb 0 21)
    need (!(c.g.inRoutine && (m == .neg || m == .req))) (.berm 0x0604#16 none 0#64 0#64)
    c.sealing (fun c => do
      if m = .req then
        let (t, x) ← c.s.byHandle c.g.ctx (fld kb 0 21)
        let (status, s) := c.askTile t x ka kb (fld (c.g.rdK ev.toNat) 0 16)
        return s.putPair c.gid d (w64 (status + 2 ^ 32 * handleOf t x)) (w64 (if status = 4 ∨ status = 5 then x.va else 0))
      else
        match c.s.pickTile c.g.ctx c.g.core kb.toNat with
        | none => return c.s.putPair c.gid d 1#64 0#64
        | some (t, x) =>
          let st : TileState := match m with
            | .open_ => .open_
            | .held => .held
            | _ => .negotiated
          let x' : TileRec := { x with
            state := st, team := c.g.team, gid := c.gid, refusals := 0, queue := [],
            routine := if m = .neg then c.routine ka else ⟨0#57, 0, 0⟩ }
          return ({ c.s with tiles := c.s.tiles.put t x' }).putPair c.gid d (w64 (2 ^ 32 * handleOf t x')) (w64 x.va))

/-! TILEPUT (R313). -/

/-- Whether the team may release the tile. -/
def TileRec.ownedBy (x : TileRec) (team : Nat) : Bool :=
  match x.state with
  | .free => false
  | .open_ => true
  | _ => x.team == team

def Iss.tileput (c : Iss) (a : KReg) : Run Fin :=
  if c.ex = 0#32 then .ok (c.done c.g)
  else do
    let h := fld (c.g.rdK a.toNat) 0 21
    let (t, x) ← c.s.byHandle c.g.ctx h
    valid (x.ownedBy c.g.team && !(x.state == .open_ && (c.s.seals.get t).isSome))
    need (x.running.isNone && !c.s.tileSweeping t) .stall
    c.sealing (fun c => do
      let (id, s) := c.s.sweepTile c.gid t none
      return s.updGroup c.gid (fun g => { g with splits := g.splits.upd c.sn (fun sp => { sp with wait := .sweep id }) }))

/-! Surrender (R315 to R322). -/

/-- The group in which a tile's routine would be entered: the registering group, else the resident group of the team with
the lowest number (R315). -/
def State.surrGroup (s : State) (x : TileRec) : Option (Nat × Group) :=
  let mine := s.groups.filter (fun g => g.2.team == x.team)
  (mine.find? (fun g => g.1 == x.gid)).or (leastBy (fun g => g.2.groupNo) mine)

/-- Whether a group stands where a routine may be entered (R315, R320, R385). -/
def Group.atBoundary (g : Group) : Bool := g.clause.isNone && !g.inHandler && !g.halted && !g.haltReq && !g.stopped && !g.dir

/-- Whether the entry to a routine has raised a fault that Berm has not served: the split under whose number it comes is parked with
it (R238, R316). -/
def State.entryParked (s : State) (g : Group) (entry : CAddr) : Bool :=
  (g.splits.get g.standing).any (fun sp => match sp.wait, s.ctxs.get g.ctx with
    | .parked id, some c => ((c.faults.get id).or (c.faultHold.get id)).any (fun r =>
        r.precise && r.parcels == 0 && (r.cause == 0x0402#16 ||
          ((r.cause == 0x0302#16 || r.cause == 0x0303#16 || r.cause == 0x0307#16) && r.detA == entry.setWidth 64)))
    | _, _ => false)

/-- Whether the head request of a tile is served now: the tile, and the group unless no group of the team is resident. A request
that a rollback held up is served at the landing, before the instructions are executed again (R35, R321; DESIGN CHOICE, log 55).
-/
def State.surrReady (s : State) (t : Nat) : Option (TileRec × TileReq × Option (Nat × Group)) :=
  match s.tiles.get t with
  | none => none
  | some x =>
    match x.state, s.liveReqs x.queue, x.running, s.teams.get x.team with
    | .negotiated, r :: _, none, some tm =>
      if tm.routine.isSome || s.tileSweeping t || (s.ctxs.get x.ctx).elim true (fun c => c.preempt.isSome || c.image.isSome)
      then none
      else match s.surrGroup x with
        | none => if s.passBarred t (0, 0) then none else some (x, r, none)
        | some (i, g) =>
          if g.atBoundary && !s.memwOpen i && !s.entryParked g x.routine.addr then some (x, r, some (i, g)) else none
    | _, _, _, _ => none

/-- Every lane that a split or a parked path holds (R316). -/
def Group.heldLanes (g : Group) : Mask :=
  g.parked.foldl (fun m p => m ||| p.mask) (g.splits.foldl (fun m x => m ||| x.2.mask) 0#32)

/-- w0 to w3 of a surrender entry (R316). -/
def State.surrWords (s : State) (t : Nat) (x : TileRec) (r : TileReq) : List DWord :=
  let ask := s.teams.get r.team
  let grid := (ask.bind (fun q => s.grids.get q.grid)).elim 0 (·.gridNo)
  [w64 (0x0601 + 2 ^ 16 * (if x.routine.limit ≤ x.refusals then 1 else 0) + 2 ^ 17 * x.refusals), w64 (handleOf t x),
   w64 ((ask.elim 0 (·.teamNo)) + 2 ^ 32 * grid), w64 x.routine.budget]

/-- The commit that a SURRENDER would have made (R316, R319). -/
def State.commitFor (s : State) (gid : Nat) : State :=
  match s.groups.get gid with
  | none => s
  | some g => (s.commitOuter gid g.core g.drops).updGroup gid (fun g =>
      let g : Group := { g.commitAt g.ic with drops := [] }
      { g with hist := { g.hist with snap := g.baseSnapshot, snapDue := false } })

/-- A surrender's entry is made: the routine runs for the tile, unless another handler or a fault came first (R237, R315). -/
def State.routineRuns (s : State) (tile team gid : Nat) : State :=
  if (s.groups.get gid).any (fun g => g.topKind == some .surrender) then
    ({ s with tiles := s.tiles.upd tile (fun x => { x with running := some gid }) }).updTeam team (fun t =>
      { t with routine := some tile })
  else s

/-- SURRENDER_ENTRY: the head recall request enters the holder's routine (R315, R316). -/
def execSurrenderEntry (tile : Nat) (s : State) : Out :=
  .next (match s.surrReady tile with
    | none => s
    | some (_, _, none) =>
      s.handover tile (0, 0)
    | some (x, r, some (i, g)) =>
      let x := { x with queue := s.liveReqs x.queue }
      let s := { s with tiles := s.tiles.put tile x }
      let sn := g.standing
      let g : Group := { g with cur := sn }
      let at_ := (g.splits.get sn).elim 0#57 (·.pc)
      let e : Entry := { kind := .surrender, pc := x.routine.addr, at_ := at_, parcels := 0, whole := false,
                         w := s.surrWords tile x r, exec_ := g.heldLanes, lanes := g.heldLanes, budget := x.routine.budget,
                         tile := tile }
      match s.isHeader g.ctx e.pc with
      | .ok false =>
        let s := (((s.setGroup i g).commitFor i).sweepTile i tile (some (0, 0))).2
        match s.groups.get i with
        | some g => s.toBerm i g sn 0x0101#16 g.heldLanes at_ (e.pc.setWidth 64) 0#64 0 none
        | none => s
      | _ => (s.enterHandler i g e).routineRuns tile x.team i)

/-- A refusal below the limit of the request that the routine served: the mailbox record 0x11, the event, one refusal more (R317,
R318). One whose team has ended meanwhile is removed without effect (R315). -/
def State.refuse (s : State) (t : Nat) : State :=
  match s.tiles.get t with
  | none => s
  | some x =>
    match x.queue with
    | [] => s
    | r :: q =>
      if !s.teamLives r.team then { s with tiles := s.tiles.put t { x with queue := q } }
      else
        let s := { s with tiles := s.tiles.put t { x with queue := q, refusals := x.refusals + 1 } }
        (s.mailbox r 0x11 0 0 0 []).fireEvent x.ctx r.event

/-- Whether the routine for a tile may still refuse (R318). -/
def TileRec.mayRefuse (x : TileRec) : Bool := decide (x.refusals < x.routine.limit)

/-- The outcome of a routine (R318): a refusal, and the group leaves handler mode; or a handover, which it waits for. -/
def State.surrOutcome (s : State) (gid : Nat) (f : HFrame) (refuse : Bool) (sum : Nat × Nat) : State :=
  if refuse && (s.tiles.get f.tile).elim true TileRec.mayRefuse then
    ((s.updGroup gid (fun g => g.leaveRoutine f)).routineOver f.tile).refuse f.tile
  else s.beginHandover gid f.tile sum false

/-- The summary's range (R322). -/
def Iss.summary (c : Iss) (o : SurrOut) : Run (Nat × Nat) :=
  match o with
  | .summary a b => do
    let off := (c.g.rdK a.toNat).toNat
    let len := (c.g.rdK b.toNat).toNat
    valid (off % 8 == 0 && len % 8 == 0 && decide (len ≤ 256) &&
      decide (off + len ≤ (c.s.teams.get c.g.team).elim 0 (·.csSize)))
    return (off, len)
  | _ => .ok (0, 0)

/-- Whether a refusal waits: a range lock covers the mailbox that its record goes to (R208). -/
def State.refuseWaits (s : State) (t : Nat) : Bool :=
  (s.tiles.get t).any (fun x => x.mayRefuse && x.queue.head?.any s.boxBarred)

/-- SURRENDER (R322, R390). -/
def execSurrender (o : SurrOut) (g : Guard) (s : State) : Out :=
  issue 2 g s (fun c =>
    if c.ex = 0#32 then .ok (c.done c.g)
    else match c.g.frames with
    | [] => raise 0x0606#16
    | f :: _ => do
      need (f.kind == .surrender) (.berm 0x0908#16 none 0#64 0#64)
      let sum ← c.summary o
      need (!(o == .refuse && c.s.refuseWaits f.tile)) .stall
      let fin ← c.sealing (fun c => .ok (c.s.surrOutcome c.gid f (o == .refuse) sum))
      return { fin with jump := true })

/-- SURRENDER_OVERRUN: the budget is used up; the handover begins, and the fault follows it (R319). -/
def execSurrenderOverrun (gid : Nat) (s : State) : Out :=
  .next (match s.groups.get gid with
    | none => s
    | some g =>
      match g.frames.getLast? with
      | some f =>
        if f.kind == .surrender && decide (f.budget ≤ f.used) && !s.memwOpen gid && g.runs && !s.tileSweeping f.tile then
          (s.commitFor gid).beginHandover gid f.tile (0, 0) true
        else s
      | none => s)

/-! Seals (R332 to R334). -/

/-- SEAL: its sweep is a release at device scope (R208, R209). -/
def Iss.seal_ (c : Iss) (a b : KReg) : Run Fin :=
  if c.ex = 0#32 then .ok (c.done c.g)
  else do
    let len := (c.g.rdK b.toNat).toNat
    valid (len % 4096 == 0 && decide (4096 ≤ len) && decide (len ≤ 2 ^ 18))
    let (t, off) ← c.s.polderOp c.g.ctx (c.g.rdK a.toNat) len
    valid (off % 4096 == 0 && (c.s.tiles.get t).elim false (fun x => x.state == .open_) && (c.s.seals.get t).isNone)
    c.sealing (fun c => do
      let (id, s) := c.s.newId
      let s := { s with seals := s.seals.put t ⟨t, off, len, 0, false, []⟩, sweeps := s.sweeps.put id (.seal c.gid) }
      let s := s.updGroup c.gid (fun g => { g with splits := g.splits.upd c.sn (fun sp => { sp with wait := .sweep id }) })
      return s.post (.sweepComplete id))

/-- The seal that starts at a polder operand. -/
def Iss.sealAt (c : Iss) (a : KReg) : Run (Nat × Option SealRec) := do
  let (t, off) ← c.s.polderOp c.g.ctx (c.g.rdK a.toNat) 1
  return (t, (c.s.seals.get t).filter (fun x => x.off == off))

def execSeal (g : Guard) (a b : KReg) (s : State) : Out := issue 2 g s (fun c => c.seal_ a b)

/-- The lanes of Exec become records of the wait, and the rest of the split goes on at the next header (R348). -/
def Iss.toRecords (c : Iss) (m : Mask) (bind : Bind) (base n : Nat) : List Rec :=
  (lanesOf m).map (fun l => c.g.record l c.nextPc bind base ((List.range n).map (fun i => Loc.own (base + i))) c.g.regs)

/-- The group after lanes have left as records: it goes when no lane is left (R83, R348). -/
def Iss.leaveAs (c : Iss) (s : State) (m : Mask) : State :=
  ((s.updGroup c.gid (fun g => { c with g := g }.leaveGroup g m)).charge c.gid c.g.ctx).reap c.gid

/-- UNSEAL (R333). -/
def execUnseal (g : Guard) (a : KReg) (s : State) : Out :=
  issue 2 g s (fun c => do
    need (!c.g.inHandler) (.berm 0x0907#16 none 0#64 0#64)
    if c.ex = 0#32 then return c.done c.g
    else do
      let (t, seal?) ← c.sealAt a
      match seal? with
      | none => return c.done c.g
      | some _ => do
        let waits := (c.s.seals.get t).elim false (fun x =>
          decide (((c.g.drops.filter (fun d => d.1 == t && d.2 == x.off)).length) < x.count))
        let f ← c.sealing (fun c =>
          let s : State := { c.s with seals := c.s.seals.upd t (fun x => { x with closing := true }) }
          if waits then
            let rs := c.toRecords c.ex .team 0 16
            .ok (c.leaveAs { s with seals := s.seals.upd t (fun x => { x with waiters := x.waiters ++ rs }) } c.ex)
          else .ok (s.sealCheck t))
        return { f with jump := waits })

/-- DROP (R333, R334). -/
def execDrop (g : Guard) (a : KReg) (s : State) : Out :=
  issue 2 g s (fun c =>
    if c.ex = 0#32 then .ok (c.done c.g)
    else do
      let (t, seal?) ← c.sealAt a
      match seal? with
      | none => invalid
      | some x =>
        if c.g.grade = .off then return c.doneS (c.s.lowerSeal (t, x.off))
        else if 16 ≤ c.g.drops.length then raise 0x0609#16
        else return c.done { c.g with drops := c.g.drops ++ [(t, x.off)] })

/-! The meanings of TILEGET and TILEPUT. -/

def execTileget (m : TileMode) (g : Guard) (d a b c : KReg) (s : State) : Out :=
  issue 2 g s (fun i => i.tileget m d a b c)

def execTileput (g : Guard) (a : KReg) (s : State) : Out := issue 2 g s (fun c => c.tileput a)

end Sys2Proof.Machine
end

