-- ==== Sys2Proof/Machine/Copy.lean ====
section
/-! DEFINITION. Machine/Copy.lean: the copy engine: descriptors and layouts (12 R325 to R327), range locks and their
registration (R323, R324), CPY, CPYM and CPYG (R330, R331), completion, pause and abort (R328, R329), the end of a sweep
(07 R208). -/

namespace Sys2Proof.Machine

/-! Descriptors (R325). -/

/-- A descriptor that R325 accepts. Raw copies move elements of 128 bits. -/
structure Desc where
  rows  : Nat
  cols  : Nat
  srcL  : Layout
  dstL  : Layout
  bits  : Nat
  trans : Bool
  fill  : Bool
  deriving DecidableEq, Repr

def Desc.raw (len : Nat) : Desc := ⟨len / 16, 1, .raw, .raw, 128, false, false⟩

/-- Rows and columns of the destination region (R326). -/
def Desc.dstRows (d : Desc) : Nat := if d.trans then d.cols else d.rows
def Desc.dstCols (d : Desc) : Nat := if d.trans then d.rows else d.cols

def elemBits (n : Nat) : Nat := [4, 8, 16, 32].getD n 32

/-- The fields of K(A+2) and K(A+3). -/
def descOf (x y : DWord) : Option Desc :=
  let sl := fld y 0 2
  let dl := fld y 2 2
  if sl = 3 ∨ dl = 3 then
    let len := fld x 0 32
    if sl = 3 ∧ dl = 3 ∧ 16 ≤ len ∧ len % 16 = 0 ∧ fld x 32 32 = 0 ∧ y.toNat = 15 then some (Desc.raw len) else none
  else
    let d : Desc :=
      { rows := fld x 0 16, cols := fld x 16 16,
        srcL := if sl = 0 then .row (fld x 32 32) else .blocked (fld x 32 32),
        dstL := if dl = 0 then .row (fld y 32 32) else if dl = 1 then .blocked (fld y 32 32) else .frag (fld y 8 2),
        bits := elemBits (fld y 4 2), trans := y.getLsbD 6, fill := y.getLsbD 7 }
    if sl = 2 ∨ fld y 10 22 ≠ 0 ∨ fld y 8 2 = 3 ∨ d.rows = 0 ∨ d.cols = 0 ∨ (d.fill ∧ dl ≠ 1) ∨ (dl = 2 ∧ fld y 32 32 ≠ 0)
    then none else some d

/-- Whether a row-major pitch holds the row and is a multiple of the element (R326). -/
def pitchOk (p cols bits : Nat) : Bool := decide ((cols * bits + 7) / 8 ≤ p) && p % max 1 (bits / 8) == 0

/-- The shapes of R326 and R327. -/
def Desc.sound (d : Desc) : Bool :=
  let r := d.dstRows
  let c := d.dstCols
  let e := 32 / d.bits
  (match d.srcL with
    | .row p => pitchOk p d.cols d.bits
    | _ => true) &&
  (match d.dstL with
    | .row p => pitchOk p c d.bits
    | .blocked bc => decide ((c + 15) / 16 ≤ bc)
    | .frag 0 => decide (2 ≤ e) && (r == 32 || r == 64) && c == 16 * e
    | .frag 1 => decide (2 ≤ e) && r == 16 * e && (c == 32 || c == 64)
    | .frag _ => d.bits == 8 && (r == 32 || r == 64) && c == 4
    | .raw => true)

/-- The bytes of a region in a layout; a blocked region is padded to whole blocks (R287). -/
def Layout.extent (l : Layout) (rows cols bits : Nat) : Nat :=
  match l with
  | .row p => p * (rows - 1) + (cols * bits + 7) / 8
  | .blocked bc => ((rows - 1) / 16 * bc + (cols - 1) / 16 + 1) * (32 * bits)
  | .frag 0 => rows / 2 * 128
  | .frag 1 => cols / 2 * 128
  | .frag _ => rows / 32 * 128
  | .raw => 16 * rows

/-- Where element e of a fragment's register pair of rows lies: index i, depth k (R282, R286). -/
def fragBit (bits i k : Nat) : Nat :=
  8 * (128 * (i / 2) + 4 * (k % 32)) + (i % 2 * (32 / bits / 2) + k / 32) * bits

/-- The bit at which element (i, j) begins, from the base (R326, R327, R287). -/
def Layout.bitAt (l : Layout) (bits i j : Nat) : Nat :=
  match l with
  | .row p => 8 * p * i + j * bits
  | .blocked bc => ((i / 16 * bc + j / 16) * 256 + i % 16 * 16 + j % 16) * bits
  | .frag 0 => fragBit bits i j
  | .frag 1 => fragBit bits j i
  | .frag _ => 8 * (128 * (i / 32) + 4 * (i % 32) + j)
  | .raw => 128 * i

def Desc.srcLen (d : Desc) : Nat := d.srcL.extent d.rows d.cols d.bits
def Desc.dstLen (d : Desc) : Nat := d.dstL.extent d.dstRows d.dstCols d.bits

/-! Ranges (R323). -/

def Base.add (b : Base) (n : Nat) : Base :=
  match b with
  | .va a => .va (a + n)
  | .tile t o => .tile t (o + n)
  | .cs t o => .cs t (o + n)

def Base.address (b : Base) : Nat :=
  match b with
  | .va a => a
  | .tile _ o => o
  | .cs _ o => o

/-- Whether two ranges share a byte, by place or, in one context, by address. -/
def State.overlaps (s : State) (c1 : Nat) (a : PlaceRange) (c2 : Nat) (b : PlaceRange) : Bool :=
  (match a.base, b.base with
    | .va x, .va y => c1 == c2 && decide (x < y + b.len) && decide (y < x + a.len)
    | _, _ => false) ||
  (s.segs c1 a).any (fun x => (s.segs c2 b).any (fun y => x.1.within y.1 y.2 || y.1.within x.1 x.2))

/-- Whether the ranges can be registered now: table entries, and no overlap where either is a destination. -/
def State.canRegister (s : State) (ctx : Nat) (rs : List PlaceRange) : Bool :=
  decide ((s.copies.map (fun c => c.2.locks.length)).sum + rs.length ≤ 1024) &&
  !s.copies.any (fun c => c.2.locks.any (fun l => rs.any (fun r => (l.dst || r.dst) && s.overlaps c.2.ctx l ctx r)))

/-! Issue (R330, R331). -/

/-- The three instructions; the mask register of CPYM and CPYG. -/
inductive CopyKind where
  | one
  | multi (km : KReg)
  | gather (km : KReg)
  deriving DecidableEq, Repr

/-- The form of a side's operand (R308, R325): no handle is looked up. -/
def sideForm (sp : ASpace) (x : DWord) (len : Nat) : Bool :=
  match sp with
  | .polder => polderForm x len
  | _ => true

/-- A side of a copy by its space (R325): a polder operand is checked with its length. -/
def Iss.side (c : Iss) (sp : ASpace) (x : DWord) (len : Nat) : Run Base :=
  match sp with
  | .global => .ok (.va x.toNat)
  | .cs => .ok (.cs c.g.team x.toNat)
  | .polder => do
    let (t, off) ← c.s.polderOp c.g.ctx x len
    return .tile t off

/-- The teams of a mask, by the team's number in the cluster's rectangle (R330): their keys. One that has ended has no core
store, so that its range is out of bounds, 0x0306 (DESIGN CHOICE, log 55). -/
def Iss.maskTeams (c : Iss) (mask : Nat) : List Nat :=
  let wh := (c.s.grids.get c.g.grid).elim 1 (fun g => g.lrec.cw * g.lrec.ch)
  ((List.range wh).filter (fun i => mask / 2 ^ i % 2 == 1)).map (fun i =>
    ((c.s.teamOf c.g.grid (c.g.clusterNo * wh + i)).map (·.1)).getD 0)

/-- The mask word's check (R330). -/
def Iss.maskOk (c : Iss) (k : CopyKind) : Bool :=
  let wh := (c.s.grids.get c.g.grid).elim 1 (fun g => g.lrec.cw * g.lrec.ch)
  match k with
  | .one => true
  | .multi km =>
    let x := c.g.rdK km.toNat
    x != 0#64 && decide (x.toNat < 2 ^ wh) && fld x 12 52 == 0
  | .gather km =>
    let x := c.g.rdK km.toNat
    fld x 0 12 != 0 && decide (fld x 0 12 < 2 ^ wh) && fld x 12 20 == 0

/-- The pairs of bases that the copy joins (R330). -/
def Iss.pairs (c : Iss) (k : CopyKind) (src dst : Base) : List (Base × Base) :=
  match k with
  | .one => [(src, dst)]
  | .multi km => (c.maskTeams (fld (c.g.rdK km.toNat) 0 12)).map (fun t => (src, .cs t dst.address))
  | .gather km =>
    let x := c.g.rdK km.toNat
    (c.maskTeams (fld x 0 12)).zipIdx.map (fun t => (.cs t.1 src.address, dst.add (t.2 * fld x 32 32)))

/-- How far the destination range reaches (R330): CPYG's slabs in one range. -/
def Iss.dstSpan (c : Iss) (k : CopyKind) (len : Nat) : Nat :=
  match k with
  | .gather km =>
    let x := c.g.rdK km.toNat
    ((lanesOf (w32 (fld x 0 12))).length - 1) * fld x 32 32 + len
  | _ => len

/-- The seal that holds a source range: its tile (R209, R332). -/
def State.sealOf (s : State) (b : Base) (len : Nat) : Option SealRec :=
  match b with
  | .tile t off => (s.seals.get t).filter (fun x => decide (x.off < off + len) && decide (off < x.off + x.len))
  | _ => none

/-- The ranges to register (R323). -/
def copyRanges (k : CopyKind) (pairs : List (Base × Base)) (sealed_ : Bool) (srcLen span : Nat) : List PlaceRange :=
  let srcs : List PlaceRange := match k with
    | .gather _ => pairs.map (fun p => ⟨p.1, srcLen, false⟩)
    | _ => if sealed_ then [] else (pairs.head?.map (fun p => (⟨p.1, srcLen, false⟩ : PlaceRange))).toList
  let dsts : List PlaceRange := match k with
    | .multi _ => pairs.map (fun p => ⟨p.2, span, true⟩)
    | _ => (pairs.head?.map (fun p => (⟨p.2, span, true⟩ : PlaceRange))).toList
  srcs ++ dsts

/-- The bound of a core-store range, by its own team (R330). -/
def State.csInside (s : State) (b : Base) (len : Nat) : Bool :=
  match b with
  | .cs t o => decide (o + len ≤ (s.teams.get t).elim 0 (·.csSize))
  | _ => true

/-- A copy that has passed its checks (R331). -/
structure CopyReq where
  pairs  : List (Base × Base)
  ranges : List PlaceRange
  tile   : Option Nat
  adds   : Nat
  deriving DecidableEq, Repr

/-- The checks of R331, in order. -/
def Iss.copyCheck (c : Iss) (m : CpyMod) (k : CopyKind) (desc : Option Desc) (src dst : DWord) : Run (Desc × CopyReq) := do
  match desc with
  | none => invalid
  | some d => do
    valid (d.sound && c.maskOk k)
    let span := c.dstSpan k d.dstLen
    valid (sideForm m.ss src d.srcLen && sideForm m.ds dst span)
    let sb ← c.side m.ss src d.srcLen
    let db ← c.side m.ds dst span
    let pairs := c.pairs k sb db
    let sl := c.s.sealOf sb d.srcLen
    let inside := sl.elim true (fun x => decide (x.off ≤ sb.address) && decide (sb.address + d.srcLen ≤ x.off + x.len))
    let adds := pairs.length
    valid (inside && sl.elim true (fun x => decide (x.count + adds < 2 ^ 24)))
    let rs := copyRanges k pairs sl.isSome d.srcLen span
    let all := copyRanges k pairs false d.srcLen span
    valid (!all.any (fun a => !a.dst && all.any (fun b => b.dst && c.s.overlaps c.g.ctx a c.g.ctx b)))
    let al := if d.bits = 128 then 16 else max 1 (d.bits / 8)
    need (pairs.all (fun p => p.1.address % al == 0 && p.2.address % al == 0)) (.berm 0x0301#16 none src 0#64)
    need (pairs.all (fun p => c.s.csInside p.1 d.srcLen && c.s.csInside p.2 d.dstLen)) (.berm 0x0306#16 none src 0#64)
    need (sl.elim true (fun x => !x.closing)) (.berm 0x0608#16 none src 0#64)
    return (d, ⟨pairs, rs, sl.map (·.tile), adds⟩)

/-- A copy (R331). `raw` is the descriptor as the registers or the literal give it (R335). -/
def Iss.copy (c : Iss) (m : CpyMod) (k : CopyKind) (desc : Option Desc) (raw : List DWord) : Run Fin :=
  let src := raw.getD 0 0#64
  let dst := raw.getD 1 0#64
  if c.ex = 0#32 then .ok (c.done c.g)
  else do
    let (d, r) ← c.copyCheck m k desc src dst
    let flags := c.flagsOf m.fl
    let _ ← c.g.raiseFlags flags
    need (decide ((c.s.copies.filter (fun x => x.2.core == c.g.core)).length < 32) && c.s.canRegister c.g.ctx r.ranges) .stall
    c.sealing (fun c => do
      let g ← c.g.raiseFlags flags
      let s := (c.s.visible g.core c.gid m.scope).setGroup c.gid g
      let (id, s) := s.newId
      let x : Copy :=
        { gid := c.gid, ctx := g.ctx, team := g.team, grid := g.grid, core := g.core, user := g.mode == .user,
          pairs := r.pairs, rows := d.rows, cols := d.cols, srcL := d.srcL, dstL := d.dstL, esize := d.bits,
          trans := d.trans, fill := d.fill, flags := flags, event := fld (g.rdK m.ke.toNat) 0 16, scope := m.scope, cluster := g.clusterNo,
          locks := r.ranges, desc := raw, paused := false, done := 0 }
      let s := { s with copies := s.copies.put id x }
      let s := match r.tile with
        | some t => { s with seals := s.seals.upd t (fun y => { y with count := y.count + r.adds }) }
        | none => s
      let (w, s) := s.newId
      return { s with sweeps := s.sweeps.put w (.register id) }.post (.sweepComplete w))

/-- The descriptor of the 64-bit forms in kA to kA+3. -/
def Iss.copyReg (c : Iss) (m : CpyMod) (k : CopyKind) : Run Fin :=
  let r (i : Nat) : DWord := c.g.rdK (m.a.toNat + i)
  c.copy m k (descOf (r 2) (r 3)) [r 0, r 1, r 2, r 3]

/-! The engine (R326, R328, R329). -/

/-- What one step of a copy writes: where its source element lies, if it has one, and its destination; offsets in bits. -/
structure Move where
  src : Option (Base × Nat)
  dst : Base × Nat
  deriving DecidableEq, Repr

/-- The elements of a zero-filled destination that the region does not cover (R326). -/
def Copy.pads (c : Copy) : List (Nat × Nat) :=
  let r := if c.trans then c.cols else c.rows
  let k := if c.trans then c.rows else c.cols
  let w := (k + 15) / 16 * 16
  if c.fill then
    ((List.range ((r + 15) / 16 * 16 * w)).map (fun i => (i / w, i % w))).filter (fun x =>
      !(decide (x.1 < r) && decide (x.2 < k)))
  else []

/-- Every move of the copy, in the order in which the model makes them. -/
def Copy.moves (c : Copy) : List Move :=
  c.pairs.flatMap (fun p =>
    (List.range (c.rows * c.cols)).map (fun n =>
      let i := n / c.cols
      let j := n % c.cols
      ⟨some (p.1, c.srcL.bitAt c.esize i j),
       (p.2, if c.trans then c.dstL.bitAt c.esize j i else c.dstL.bitAt c.esize i j)⟩) ++
    c.pads.map (fun x => ⟨none, (p.2, c.dstL.bitAt c.esize x.1 x.2)⟩))

/-- The place of a byte of one side, or the cause that stops the copy (R329): a sealed destination among them (R208; DESIGN
CHOICE, log 53). -/
def State.copyByte (s : State) (c : Copy) (write : Bool) (b : Base) (off : Nat) : Except Cause Place :=
  let free (p : Place) : Except Cause Place := if write && s.sealedAt p then .error 0x0308#16 else .ok p
  match b with
  | .va a =>
    if !canonical (w64 (a + off)) then .error 0x0303#16
    else (s.translate c.ctx c.user write false ((w64 (a + off)).setWidth 57).toNat).bind free
  | .tile t o => if s.tileOpen c.team t then free (.pol (t * 2 ^ 18 + o + off)) else .error 0x030C#16
  | .cs t o => .ok (.cs t (o + off))

/-- The places of an element's bytes. -/
def State.copyPlaces (s : State) (c : Copy) (write : Bool) (x : Base × Nat) : Except Cause (List Place) :=
  gather ((List.range ((c.esize + 7) / 8)).map (fun i => s.copyByte c write x.1 (x.2 / 8 + i)))

/-- One move. -/
def State.copyMove (s : State) (c : Copy) (m : Move) : Except Cause State := do
  let dst ← s.copyPlaces c true m.dst
  if dst.any s.cxlFailed then throw 0x0307#16
  let v ← match m.src with
    | none => Except.ok 0
    | some x => do
      let ps ← s.copyPlaces c false x
      if s.consumes noCore 0 .global .load ps then .error 0x0307#16
      else .ok (s.homeNat ps / 2 ^ (x.2 % 8) % 2 ^ c.esize)
  if c.esize = 4 then
    let old := s.homeNat dst
    let sh := 2 ^ (m.dst.2 % 8)
    return s.putBytes c.core (bytesAt dst (old - old / sh % 16 * sh + v * sh))
  else return s.putBytes c.core (bytesAt dst v)

/-- The moves in order, until one cannot be made: the state, how many were made, the cause. -/
def State.copyRun (s : State) (c : Copy) : List Move → State × Nat × Option Cause
  | [] => (s, 0, none)
  | m :: t =>
    match s.copyMove c m with
    | .error e => (s, 0, some e)
    | .ok s' =>
      let r := s'.copyRun c t
      (r.1, r.2.1 + 1, r.2.2)

/-- The elements of a chunk of 4 KiB, at which pre-emption stops a copy (R328). -/
def Copy.chunk (c : Copy) : Nat := 32768 / c.esize

/-- The copy's writes are visible at the scope it names, as its team stands to it (R210, R212, R328). -/
def State.copyVisible (s : State) (c : Copy) : State :=
  let in_ (x : Nat) : Bool := match c.scope with
    | .group => x == c.core
    | .team => x == c.core
    | .cluster => x == c.core || s.teams.any (fun t => t.2.core == x && t.2.grid == c.grid && t.2.cluster == c.cluster)
    | .die => dieOf x == dieOf c.core
    | .device => true
    | .system => true
  let s := s.settleIn in_
  if c.scope = .system then s.writeHome else s

/-- The fault records that a range lock has held back enter their rings (R208, R384). -/
def State.refillAll (s : State) : State :=
  s.ctxs.foldl (fun s c => if c.2.faultHold.isEmpty then s else s.refillFaults c.1) s

/-- A copy ends: its locks drop and its flags fall (R324, R328, R329). -/
def State.copyOver (s : State) (id : Nat) (c : Copy) : State :=
  (({ s with copies := s.copies.del id }).updGroup c.gid (fun g => g.lowerFlags c.flags)).locksDropped.refillAll

/-- Whether a context's engines are stopped or its image is out (R394). -/
def State.switched (s : State) (ctx : Nat) : Bool :=
  (s.ctxs.get ctx).elim true (fun c => c.preempt.isSome || c.image.isSome)

/-- The issuing group takes 0x0607: at once at a boundary, else at its next one; a group that is gone leaves it to the
context (R329). The descriptor and the count of bytes written are saved (R335); detail A is the count. -/
def State.copyFault (s : State) (c : Copy) (bytes : Nat) : State :=
  let saved := c.desc ++ [w64 bytes]
  match s.groups.get c.gid with
  | some g =>
    if g.clause.isNone then s.impreciseWith c.gid g 0x0607#16 0#32 (w64 bytes) saved
    else s.setGroup c.gid { g with abortDue := g.abortDue ++ [saved] }
  | none => s.ctxFault c.ctx ((s.grids.get c.grid).elim 0 (·.gridNo)) ((s.teams.get c.team).elim 0 (·.teamNo)) 0x0607#16
      (w64 bytes) 0#64 saved

/-- COPY_COMPLETE: the engine moves a chunk; with the last one every write is made and visible at the copy's scope, and only
then its flags fall and its event is signalled; or the copy pauses at a missing page, or aborts. While the context is switched
out it stands at the chunk's end and waits for the restore (R210, R328). -/
def execCopyComplete (id : Nat) (s : State) : Out :=
  .next (match s.copies.get id with
    | none => s
    | some c =>
      if s.switched c.ctx || c.paused then s
      else
        let left := c.moves.drop c.done
        let r := s.copyRun c (left.take c.chunk)
        let n := c.done + r.2.1
        match r.2.2 with
        | none =>
          if left.length ≤ c.chunk then ((r.1.copyVisible c).copyOver id c).fireEvent c.ctx c.event
          else { r.1 with copies := r.1.copies.put id { c with done := n } }.post (.copyComplete id)
        | some e =>
          if e = 0x0302#16 then { r.1 with copies := r.1.copies.put id { c with paused := true, done := n } }
          else { r.1 with copies := r.1.copies.put id { c with done := n } }.post (.copyAbort id n e))

/-- COPY_RESUME: a copy paused on a missing page goes on after service (R328). -/
def execCopyResume (id : Nat) (s : State) : Out :=
  .next (match s.copies.get id with
    | none => s
    | some c =>
      if c.paused then { s with copies := s.copies.put id { c with paused := false } }.post (.copyComplete id) else s)

/-- COPY_ABORT: the copy stops with `done` elements written (R329). While the context is switched out the copy stands still
and meets its cause again after the restore. -/
def execCopyAbort (id done : Nat) (_cause : Cause) (s : State) : Out :=
  .next (match s.copies.get id with
    | none => s
    | some c =>
      if s.switched c.ctx then s else
      let r := s.copyRun c ((c.moves.drop c.done).take (done - c.done))
      (r.1.copyOver id c).copyFault c ((c.done + r.2.1) * c.esize / 8))

/-! The end of a sweep (R208, R314). -/

/-- The write-combining lines that hold a byte of a range drain. -/
def State.drainRange (s : State) (ctx : Nat) (r : PlaceRange) : State :=
  s.cores.foldl (fun s c =>
    (c.2.wcb.filter (fun w => w.bytes.any (fun b => s.inRange ctx r (.glob b.1)))).foldl (fun s w => s.drainLine c.1 w.line) s) s

/-- SWEEP_COMPLETE. -/
def execSweepComplete (id : Nat) (s : State) : Out :=
  .next (match s.sweeps.get id with
    | none => s
    | some (.seal gid) => ({ s with sweeps := s.sweeps.del id }).updGroup gid (fun g => g.wake (.sweep id))
    | some (.release gid t sum) => s.releaseDone id gid t sum
    | some (.handover gid t sum late) => s.handoverDone id gid t sum late
    | some (.register c) =>
      let s := { s with sweeps := s.sweeps.del id }
      match s.copies.get c with
      | none => s
      | some x => (x.locks.foldl (fun s r => s.drainRange x.ctx r) s).post (.copyComplete c))

/-! The meanings. -/

def execCpy (m : CpyMod) (s : State) : Out := issue 2 m.g s (fun c => c.copyReg m .one)

/-- The raw form: the pair kA, kA+1 and the length in the literal (R330). -/
def execCpyL96 (m : CpyMod) (len : Word) (s : State) : Out :=
  issue 3 m.g s (fun c =>
    c.copy m .one (if len.toNat % 16 = 0 ∧ 16 ≤ len.toNat then some (Desc.raw len.toNat) else none)
      [c.g.rdK m.a.toNat, c.g.rdK (m.a.toNat + 1), len.setWidth 64, 15#64])

def execCpym (m : CpyMod) (km : KReg) (s : State) : Out := issue 2 m.g s (fun c => c.copyReg m (.multi km))
def execCpyg (m : CpyMod) (km : KReg) (s : State) : Out := issue 2 m.g s (fun c => c.copyReg m (.gather km))

end Sys2Proof.Machine
end

