-- ==== Sys2Proof/Decode.lean ====
section
/-! DEFINITION. Decode.lean: from parcels to instructions and back (02_encoding R36, R37, R43 to R46, R51 to R53, R55, R58
and the encoding tables of the chapters' entries). Decoding is in two layers: the fields of a form (`Raw`), then one arm
per cell of the opcode map. A refusal carries the cause of R55; the order of the checks is R58's. -/

namespace Sys2Proof

/-! Fields of the three forms. -/

/-- The fields of an instruction as encoded (R43 to R45). A form leaves the fields it has not at zero, its guard at p63. -/
structure Raw where
  len : Nat
  op  : Byte
  d   : Byte
  a   : Byte
  fn  : BitVec 4
  au  : Bool
  bu  : Bool
  ai  : Bool
  sfa : Bool
  sfb : Bool
  r31 : Bool
  b   : Byte
  gp  : BitVec 6
  gn  : Bool
  c   : Byte
  fn7 : BitVec 7
  lit : Word
  deriving DecidableEq, Repr

/-- Whether bit i of a parcel is set. -/
def pbit (p : Word) (i : Nat) : Bool := p.getLsbD i

/-- How many parcels the length code of a first parcel gives; 0 for a clause header (R36). -/
def parcelLen (p0 : Word) : Nat :=
  match p0.extractLsb' 0 2 with
  | 0#2 => 1
  | 1#2 => 2
  | 2#2 => 3
  | _ => 0

/-- The 32-bit form (R43). -/
def rawOf1 (p0 : Word) : Raw :=
  { len := 1, op := p0.extractLsb' 2 8, d := p0.extractLsb' 10 8, a := p0.extractLsb' 18 8, fn := p0.extractLsb' 26 4,
    au := false, bu := false, ai := false, sfa := false, sfb := false, r31 := false, b := 0#8, gp := 63#6, gn := false,
    c := 0#8, fn7 := 0#7, lit := 0#32 }

/-- The 64-bit form, and parcels 0 and 1 of the 96-bit form but for the literal (R44). -/
def rawOf2 (n : Nat) (p0 p1 lit : Word) : Raw :=
  { len := n, op := p0.extractLsb' 2 8, d := p0.extractLsb' 10 8, a := p0.extractLsb' 18 8, fn := 0#4,
    au := pbit p0 26, bu := pbit p0 27, ai := pbit p0 28, sfa := pbit p0 29, sfb := pbit p0 30, r31 := pbit p0 31,
    b := p1.extractLsb' 0 8, gp := p1.extractLsb' 8 6, gn := pbit p1 14, c := p1.extractLsb' 15 8,
    fn7 := p1.extractLsb' 23 7, lit := lit }

/-- The literal of the 96-bit form (R45). -/
def literal (p1 p2 : Word) : Word := p1.extractLsb' 30 2 ++ p2.extractLsb' 0 30

/-- The fields of an instruction; `none` for a header and where the selvage bits of the last parcel disagree with the
length code (R37). -/
def rawOf (p0 p1 p2 : Word) : Option Raw :=
  match parcelLen p0 with
  | 1 => if p0.extractLsb' 30 2 = 0#2 then some (rawOf1 p0) else none
  | 2 => if p1.extractLsb' 30 2 = 1#2 then some (rawOf2 2 p0 p1 0#32) else none
  | 3 => if p2.extractLsb' 30 2 = 2#2 then some (rawOf2 3 p0 p1 (literal p1 p2)) else none
  | _ => none

/-- A Bool as a one-bit field. -/
def b1 (b : Bool) : BitVec 1 := BitVec.ofBool b

/-- The parcels of the fields (R43 to R45). -/
def Raw.parcels (r : Raw) : List Word :=
  if r.len = 1 then [0#2 ++ r.fn ++ r.a ++ r.d ++ r.op ++ 0#2]
  else
    let p0 (code : BitVec 2) : Word :=
      b1 r.r31 ++ b1 r.sfb ++ b1 r.sfa ++ b1 r.ai ++ b1 r.bu ++ b1 r.au ++ r.a ++ r.d ++ r.op ++ code
    let p1 (top : BitVec 2) : Word := top ++ r.fn7 ++ r.c ++ b1 r.gn ++ r.gp ++ r.b
    if r.len = 2 then [p0 1#2, p1 1#2]
    else [p0 2#2, p1 (r.lit.extractLsb' 30 2), 2#2 ++ r.lit.extractLsb' 0 30]

/-! Reading operands. Each reader checks that the fields it owns are legal (R46, R93); `none` is cause 0x0004. -/

abbrev Dec := Except Cause Instr

/-- The minor function or its modifiers are assigned, else 0x0002 (R95). -/
def minor (ok : Bool) (k : Dec) : Dec := if ok then k else .error 0x0002#16
/-- No reserved bit, field or combination, else 0x0004 (R55). -/
def rsv (o : Option Instr) : Dec :=
  match o with
  | some i => .ok i
  | none => .error 0x0004#16
/-- As `rsv`, for a form that is assigned and not native (R53). -/
def notNative (ok : Bool) : Dec := if ok then .error 0x0009#16 else .error 0x0004#16

/-- FN7 has no bit set outside the mask (R95). -/
def Raw.only (r : Raw) (mask : BitVec 7) : Bool := (r.fn7 &&& ~~~mask) == 0#7
def Raw.f (r : Raw) (i : Nat) : Bool := r.fn7.getLsbD i
def Raw.guard (r : Raw) : Guard := ⟨r.gp, r.gn⟩

/-- A 6-bit name in an 8-bit field: bits [7:6] must be 0 (R46). -/
def six (x : Byte) : Option (BitVec 6) := if x.extractLsb' 6 2 = 0#2 then some (x.setWidth 6) else none
def even8 (x : Byte) : Bool := !x.getLsbD 0
def even6 (x : BitVec 6) : Bool := !x.getLsbD 0

def optIf {α : Type} (b : Bool) (x : α) : Option α := if b then some x else none

/-- No flags named and bit 31 clear (R94). -/
def Raw.noSF (r : Raw) : Bool := !r.sfa && !r.sfb && !r.r31
/-- No uniform and no indirect operand. -/
def Raw.noU (r : Raw) : Bool := !r.au && !r.bu && !r.ai

def srcOf (u : Bool) (x : Byte) : Option Src :=
  if u then (six x).map .k else some (.v x)
def Raw.srcA (r : Raw) : Option Src := srcOf r.au r.a
def Raw.srcB (r : Raw) : Option Src := srcOf r.bu r.b

/-- A with AU or AI, in a form that leaves C unused. -/
def Raw.asrc (r : Raw) : Option ASrc :=
  if r.ai then (if r.au then none else (six r.c).map (fun k => .ind k r.a))
  else if r.c = 0#8 then
    (if r.au then (six r.a).map .k else some (.v r.a))
  else none

/-- A with AI alone, in a form that leaves C unused. -/
def Raw.lsrc (r : Raw) : Option LSrc :=
  if r.au then none
  else if r.ai then (six r.c).map (fun k => .ind k r.a)
  else if r.c = 0#8 then some (.v r.a) else none

def Raw.l1 (r : Raw) : Option L1 := do
  let a ← r.asrc
  optIf (r.noSF && r.b == 0#8 && !r.bu) ⟨r.guard, r.d, a⟩
def Raw.l2 (r : Raw) : Option L2 := do
  let a ← r.asrc
  let b ← r.srcB
  optIf r.noSF ⟨r.guard, r.d, a, b⟩
def Raw.l2l (r : Raw) : Option L2L := do
  let a ← r.asrc
  optIf (r.noSF && r.b == 0#8 && !r.bu) ⟨r.guard, r.d, a, r.lit⟩
def Raw.l3 (r : Raw) : Option L3 := do
  let a ← r.srcA
  let b ← r.srcB
  optIf (r.noSF && !r.ai) ⟨r.guard, r.d, a, b, r.c⟩
def Raw.l3l (r : Raw) : Option L3L := do
  let a ← r.srcA
  optIf (r.noSF && !r.ai && r.b == 0#8 && !r.bu) ⟨r.guard, r.d, a, r.lit, r.c⟩
def Raw.p2 (r : Raw) : Option P2 := do
  let d ← six r.d
  let a ← six r.a
  let b ← six r.b
  optIf (r.noSF && r.noU && r.c == 0#8) ⟨r.guard, d, a, b⟩
def Raw.setp (r : Raw) : Option SetP := do
  let d ← six r.d
  let a ← r.srcA
  let b ← r.srcB
  let c ← six r.c
  optIf (r.noSF && !r.ai) ⟨r.guard, d, a, b, c⟩
def Raw.setpl (r : Raw) : Option SetPL := do
  let d ← six r.d
  let a ← r.srcA
  let c ← six r.c
  optIf (r.noSF && !r.ai && r.b == 0#8 && !r.bu) ⟨r.guard, d, a, r.lit, c⟩
def Raw.k2 (r : Raw) : Option K2 := do
  let d ← six r.d
  let a ← six r.a
  let b ← six r.b
  optIf (r.noSF && r.noU && r.c == 0#8) ⟨r.guard, d, a, b⟩
def Raw.k2l (r : Raw) : Option K2L := do
  let d ← six r.d
  let a ← six r.a
  optIf (r.noSF && r.noU && r.c == 0#8 && r.b == 0#8) ⟨r.guard, d, a, r.lit⟩
/-- A shift by src, or by C[5:0] with .i (R107). -/
def Raw.shift (r : Raw) : Option Shift :=
  if r.f 0 then do
    let a ← r.srcA
    let n ← six r.c
    optIf (r.noSF && !r.ai && r.b == 0#8 && !r.bu) (.imm r.guard r.d a n)
  else r.l2.map .src

/-- Pair fields are even (R69). -/
def L1.pairA (o : L1) : Bool :=
  match o.a with
  | .v n => even8 n
  | _ => true
def pairSrc : Src → Bool
  | .v n => even8 n
  | .k _ => true
def pairASrc : ASrc → Bool
  | .v n => even8 n
  | _ => true
/-- The fields of a .64 form that name lane pairs are even; a uniform register or an offset stands for 64 bits by itself, and R100's
words are not taken to bind it (DESIGN CHOICE, log 52). -/
def L2.pairs (o : L2) : Bool := even8 o.d && pairASrc o.a && pairSrc o.b

/-- The 32-bit forms have no fields but D, A and FN; the fields not named must be 0. -/
def Raw.zero1 (r : Raw) : Bool := r.d == 0#8 && r.a == 0#8

/-! Modifier fields. -/

def ccOf (x : BitVec 7) : Option Cc :=
  match x.extractLsb' 0 3 with
  | 0#3 => some .eq
  | 1#3 => some .ne
  | 2#3 => some .lt
  | 3#3 => some .le
  | 4#3 => some .gt
  | 5#3 => some .ge
  | _ => none
def fccOf (x : BitVec 7) : FCc :=
  match x.extractLsb' 0 3 with
  | 0#3 => .eq
  | 1#3 => .ne
  | 2#3 => .lt
  | 3#3 => .le
  | 4#3 => .gt
  | 5#3 => .ge
  | 6#3 => .num
  | _ => .nan
def bopOf (x : BitVec 7) : Option Bop :=
  match x.extractLsb' 4 2 with
  | 0#2 => some .and
  | 1#2 => some .or
  | 2#2 => some .xor
  | _ => none
def rmOf (x : BitVec 2) : Rm :=
  match x with
  | 0#2 => .rn
  | 1#2 => .rz
  | 2#2 => .ru
  | _ => .rd

/-- Runs the continuation on a modifier field's value; an unassigned value is 0x0002. -/
def fieldOf {α : Type} (o : Option α) (k : α → Dec) : Dec :=
  match o with
  | some x => k x
  | none => .error 0x0002#16

/-- The unsignalled comparisons num and nan do not take .unord (R117). -/
def fccOk (c : FCc) (u : Bool) : Bool := !(u && (c == .num || c == .nan))

/-- The assigned special-register numbers (R87). -/
def srAssigned (n : BitVec 8) : Bool :=
  [0x00#8, 0x01#8, 0x02#8, 0x03#8, 0x04#8, 0x05#8, 0x06#8, 0x07#8, 0x08#8, 0x10#8, 0x11#8, 0x20#8, 0x21#8, 0x22#8, 0x30#8,
   0x31#8, 0x32#8, 0x33#8, 0x34#8, 0x40#8, 0x41#8, 0x50#8, 0x51#8, 0x60#8].contains n

/-! Rows 0 to 3 and 8 (04_lane_integer_control). -/

def decRow0 (r : Raw) : Dec :=
  match r.op.extractLsb' 0 4 with
  | 0x0#4 => minor (r.only 3#7) (rsv (if r.len = 3 then r.l2l.map (.iaddL96 (r.f 0) (r.f 1))
      else r.l2.map (.iadd (r.f 0) (r.f 1))))
  | 0x1#4 => minor (r.only 3#7) (rsv (if r.len = 3 then r.l2l.map (.isubL96 (r.f 0) (r.f 1))
      else r.l2.map (.isub (r.f 0) (r.f 1))))
  | 0x2#4 => minor (r.only 2#7) (rsv (r.l1.map (.ineg (r.f 1))))
  | 0x3#4 => minor (r.only 0#7) (rsv (r.l3.map .iadd3))
  | 0x4#4 => minor (r.only 3#7) (rsv (r.l2.bind (fun o => optIf o.pairs (.iadd64 (r.f 0) (r.f 1) o))))
  | 0x5#4 => minor (r.only 3#7) (rsv (r.l2.bind (fun o => optIf o.pairs (.isub64 (r.f 0) (r.f 1) o))))
  | 0x6#4 => minor (r.only 0#7) (rsv (if r.len = 3 then r.l2l.map .imulL96 else r.l2.map .imul))
  | 0x7#4 => minor (r.only 1#7) (rsv (r.l2.map (.imulhi (r.f 0))))
  | 0x8#4 => minor (r.only 0#7) (rsv (if r.len = 3 then r.l3l.map .imadL96 else r.l3.map .imad))
  | 0x9#4 => minor (r.only 1#7) (rsv (r.l3.map (.imadhi (r.f 0))))
  | 0xA#4 => minor (r.only 1#7) (rsv (if r.len = 3 then r.l2l.map (.iminL96 (r.f 0)) else r.l2.map (.imin (r.f 0))))
  | 0xB#4 => minor (r.only 1#7) (rsv (if r.len = 3 then r.l2l.map (.imaxL96 (r.f 0)) else r.l2.map (.imax (r.f 0))))
  | 0xC#4 => minor (r.only 2#7) (rsv (r.l1.map (.iabs (r.f 1))))
  | 0xD#4 => minor (r.only 5#7) (if r.f 2 then notNative ((r.l2.map L2.pairs).getD false)
      else rsv (r.l2.map (.idiv (r.f 0))))
  | 0xE#4 => minor (r.only 5#7) (if r.f 2 then notNative ((r.l2.map L2.pairs).getD false)
      else rsv (r.l2.map (.irem (r.f 0))))
  | _ =>
    match r.fn with
    | 0x0#4 => .ok (.addS r.d r.a)
    | 0x1#4 => .ok (.subS r.d r.a)
    | 0x2#4 => .ok (.xorS r.d r.a)
    | 0x3#4 => .ok (.rotlS r.d r.a)
    | 0x4#4 => rsv (optIf (r.a == 0#8) (.negS r.d))
    | _ => .error 0x0002#16

def decRow1 (r : Raw) : Dec :=
  match r.op.extractLsb' 0 4 with
  | 0x0#4 => minor (r.only 1#7) (rsv (r.shift.map .shl))
  | 0x1#4 => minor (r.only 1#7) (rsv (r.shift.map .shr))
  | 0x2#4 => minor (r.only 1#7) (rsv (r.shift.map .sar))
  | 0x3#4 => minor (r.only 1#7) (rsv (r.shift.map .rotl))
  | 0x4#4 => minor (r.only 1#7) (rsv (r.shift.map .rotr))
  | 0x5#4 => minor (r.only 3#7) (rsv (do
      let a ← r.srcA
      let b ← r.srcB
      let n ← if r.f 0 then (six r.c).map ShfAmt.imm else some (.v r.c)
      optIf (r.noSF && !r.ai) (.shf (r.f 1) r.guard r.d a b n)))
  | 0x6#4 => minor (r.only 0#7) (rsv (r.l1.map .popc))
  | 0x7#4 => minor (r.only 4#7) (if r.f 2 then notNative ((r.l1.map L1.pairA).getD false) else rsv (r.l1.map .clz))
  | 0x8#4 => minor (r.only 0#7) (rsv (r.l1.map .brev))
  | 0x9#4 => minor (r.only 1#7) (rsv (r.l2.map (.bfe (r.f 0))))
  | 0xA#4 => minor (r.only 0#7) (rsv (r.l3.map .bfi))
  | _ => .error 0x0001#16

def decRow2 (r : Raw) : Dec :=
  match r.op.extractLsb' 0 4 with
  | 0x0#4 => minor (r.only 0#7) (rsv (if r.len = 3 then r.l2l.map .andL96 else r.l2.map .and))
  | 0x1#4 => minor (r.only 0#7) (rsv (if r.len = 3 then r.l2l.map .orL96 else r.l2.map .or))
  | 0x2#4 => minor (r.only 0#7) (rsv (if r.len = 3 then r.l2l.map .xorL96 else r.l2.map .xor))
  | 0x3#4 => if r.len = 1 then minor (r.fn == 0#4) (.ok (.not r.d r.a)) else minor (r.only 0#7) (rsv (r.l1.map .notW64))
  | 0x4#4 => minor (r.only 0#7) (rsv (do
      let a ← r.srcA
      let b ← r.srcB
      optIf (r.noSF && !r.ai && r.lit.extractLsb' 8 24 == 0#24) (.tril r.guard r.d a b r.c (r.lit.setWidth 8))))
  | 0x5#4 => minor (r.only 3#7) (rsv (r.p2.map (.pand (r.f 0) (r.f 1))))
  | 0x6#4 => minor (r.only 3#7) (rsv (r.p2.map (.por (r.f 0) (r.f 1))))
  | 0x7#4 => minor (r.only 3#7) (rsv (r.p2.map (.pxor (r.f 0) (r.f 1))))
  | 0x8#4 => minor (r.only 0#7) (rsv (do
      let d ← six r.d
      let a ← six r.a
      optIf (r.noSF && r.noU && r.b == 0#8 && r.c == 0#8) (.pnot r.guard d a)))
  | 0x9#4 => minor (r.only 0#7) (rsv (do
      let a ← six r.a
      optIf (r.noSF && r.noU && r.b == 0#8 && decide (1 ≤ r.c.toNat ∧ r.c.toNat ≤ 32 ∧ a.toNat + r.c.toNat ≤ 64))
        (.ptov r.guard r.d a r.c)))
  | 0xA#4 => minor (r.only 0#7) (rsv (do
      let d ← six r.d
      let a ← r.srcA
      optIf (r.noSF && !r.ai && !r.bu && r.b == 0#8 &&
          decide (1 ≤ r.c.toNat ∧ r.c.toNat ≤ 32 ∧ d.toNat + r.c.toNat ≤ 64))
        (.vtop r.guard d a r.c)))
  | _ => .error 0x0001#16

def decRow3 (r : Raw) : Dec :=
  match r.op.extractLsb' 0 4 with
  | 0x0#4 => minor (r.only 0x3F#7) (fieldOf (ccOf r.fn7) (fun cc => fieldOf (bopOf r.fn7) (fun bop =>
      rsv (if r.len = 3 then r.setpl.map (.isetpL96 cc (r.f 3) bop) else r.setp.map (.isetp cc (r.f 3) bop)))))
  | 0x1#4 => minor (r.only 0x3F#7 && fccOk (fccOf r.fn7) (r.f 3)) (fieldOf (bopOf r.fn7) (fun bop =>
      rsv (if r.len = 3 then r.setpl.map (.fsetpL96 (fccOf r.fn7) (r.f 3) bop)
        else r.setp.map (.fsetp (fccOf r.fn7) (r.f 3) bop))))
  | 0x2#4 => minor (r.only 0x3F#7) (fieldOf (ccOf r.fn7) (fun cc => fieldOf (bopOf r.fn7) (fun bop => rsv (do
      let d ← six r.d
      let a ← six r.a
      let c ← six r.c
      if r.len = 3 then
        optIf (r.noSF && r.noU && r.b == 0#8) (.ksetpL96 cc (r.f 3) bop r.guard d a r.lit c)
      else do
        let b ← six r.b
        optIf (r.noSF && r.noU) (.ksetp cc (r.f 3) bop r.guard d a b c)))))
  | 0x3#4 => minor (r.only 1#7) (rsv (do
      let a ← r.srcA
      let b ← r.srcB
      let c ← six r.c
      optIf (r.noSF && !r.ai) (.sel (r.f 0) r.guard r.d a b c)))
  | 0x4#4 =>
    if r.len = 1 then minor (r.fn == 0#4) (.ok (.mov r.d r.a))
    else minor (r.only 0#7) (rsv (do
      let a ← r.lsrc
      optIf (r.noSF && !r.bu && r.b == 0#8) (.movW64 r.guard r.d a)))
  | 0x5#4 => minor (r.only 0#7)
      (rsv (optIf (r.noSF && r.noU && r.a == 0#8 && r.b == 0#8 && r.c == 0#8) (.movi r.guard r.d r.lit)))
  | 0x6#4 => minor (r.only 1#7) (rsv (do
      let a ← six r.a
      optIf (r.noSF && r.noU && r.b == 0#8 && r.c == 0#8) (.movk (r.f 0) r.guard r.d a)))
  | 0x7#4 =>
    if r.len = 1 then minor (r.fn == 0#4) (.ok (.swap r.d r.a))
    else minor (r.only 0#7) (rsv (do
      let a ← r.lsrc
      optIf (r.noSF && !r.bu && r.b == 0#8) (.swapW64 r.guard r.d a)))
  | 0x8#4 => minor (r.only 3#7 && !(r.f 0 && r.f 1)) (rsv (
      if r.f 0 then do
        let d ← six r.d
        optIf (r.noSF && r.noU && r.a == 0#8 && r.b == 0#8 && srAssigned r.c && r.c != 0x22#8 &&
          (r.c != 0x01#8 || even6 d)) (.mfs r.guard (.uni d) r.c)
      else optIf (r.noSF && r.noU && r.a == 0#8 && r.b == 0#8 && srAssigned r.c) (.mfs r.guard (.lane r.d (r.f 1)) r.c)))
  | 0x9#4 => minor (r.only 0#7) (rsv (do
      let a ← six r.a
      optIf (r.noSF && r.noU && r.d == 0#8 && r.b == 0#8 && srAssigned r.c &&
        (r.c != 0x01#8 || even6 a)) (.mts r.guard r.c a)))
  | 0xA#4 => minor (r.only 0#7) (rsv (do
      let d ← six r.d
      let a ← six r.a
      optIf (r.noSF && r.noU && r.b == 0#8 && r.c == 0#8) (.kmov r.guard d a)))
  | 0xB#4 => minor (r.only 3#7 && !(r.f 0 && r.f 1)) (rsv (do
      let d ← six r.d
      optIf (r.noSF && r.noU && r.a == 0#8 && r.b == 0#8 && r.c == 0#8)
        (.kmovi r.guard d (if r.f 0 then .hi else if r.f 1 then .zx else .sx) r.lit)))
  | 0xC#4 => minor (r.only 1#7) (rsv (
      if r.len = 3 then r.k2l.map (if r.f 0 then .ksubL96 else .kaddL96) else r.k2.map (if r.f 0 then .ksub else .kadd)))
  | 0xD#4 => minor (r.only 0#7) (rsv (if r.len = 3 then r.k2l.map .kmulL96 else r.k2.map .kmul))
  | 0xE#4 => minor (r.only 5#7) (rsv (do
      let d ← six r.d
      let a ← six r.a
      if r.f 2 then do
        let n ← six r.c
        optIf (r.noSF && r.noU && r.b == 0#8) (if r.f 0 then .kshr r.guard d a (.imm n) else .kshl r.guard d a (.imm n))
      else do
        let b ← six r.b
        optIf (r.noSF && r.noU && r.c == 0#8) (if r.f 0 then .kshr r.guard d a (.k b) else .kshl r.guard d a (.k b))))
  | _ => minor (r.only 3#7 && !(r.f 0 && r.f 1)) (rsv (
      if r.len = 3 then r.k2l.map (if r.f 1 then .kxorL96 else if r.f 0 then .korL96 else .kandL96)
      else r.k2.map (if r.f 1 then .kxor else if r.f 0 then .kor else .kand)))

def decRow8 (r : Raw) : Dec :=
  match r.op.extractLsb' 0 4 with
  | 0x0#4 => minor (r.only 0#7) (rsv (optIf (r.noSF && r.noU && r.d == 0#8 && r.a == 0#8 && r.b == 0#8 && r.c == 0#8)
      (.bra r.guard r.lit)))
  | 0x1#4 => minor (r.only 0#7) (rsv (optIf (r.noSF && r.noU && r.d == 0#8 && r.a == 0#8 && r.b == 0#8 && r.c == 0#8)
      (.bru r.guard r.lit)))
  | 0x2#4 => minor (r.only 0#7) (rsv (do
      let a ← r.srcA
      optIf (r.noSF && !r.ai && !r.bu && r.d == 0#8 && r.b == 0#8 && r.c == 0#8 && pairSrc a) (.brx r.guard a)))
  | 0x3#4 => minor (r.only 0#7) (rsv (optIf (r.noSF && r.noU && r.a == 0#8 && r.b == 0#8 && r.c == 0#8 && even8 r.d)
      (.call r.guard r.d r.lit)))
  | 0x4#4 => minor (r.only 0#7) (rsv (do
      let a ← r.srcA
      optIf (r.noSF && !r.ai && !r.bu && r.b == 0#8 && r.c == 0#8 && even8 r.d && pairSrc a) (.calli r.guard r.d a)))
  | 0x5#4 => minor (r.fn == 0#4) (rsv (optIf (r.d == 0#8 && even8 r.a) (.ret r.a)))
  | 0x6#4 => minor (r.fn == 0#4) (rsv (optIf r.zero1 .exit))
  | 0x7#4 => minor (r.fn == 0#4) (rsv (optIf r.zero1 .conv))
  | 0x8#4 => minor (r.only 0#7) (rsv (do
      let d ← six r.d
      optIf (r.noSF && r.noU && r.a == 0#8 && r.b == 0#8 && r.c == 0#8 && even6 d) (.rdcf r.guard d)))
  | _ => .error 0x0001#16

/-! Row 9 (R258 to R263). -/

def gradeOf (x : BitVec 7) : Option Grade :=
  match x.extractLsb' 0 2 with
  | 0#2 => some .off
  | 1#2 => some .mark
  | 2#2 => some .step
  | _ => none
def queryOf (x : BitVec 7) : Option Query :=
  match x.extractLsb' 0 3 with
  | 0#3 => some .used
  | 1#3 => some .room
  | 2#3 => some .floor
  | 3#3 => some .mark
  | 4#3 => some .stash
  | _ => none

def decRow9 (r : Raw) : Dec :=
  match r.op.extractLsb' 0 4 with
  | 0x0#4 => minor (r.fn == 0#4) (rsv (optIf r.zero1 .commit))
  | 0x1#4 => minor (r.fn == 0#4) (rsv (optIf r.zero1 .mark))
  | 0x2#4 => minor (r.only 0#7) (rsv (do
      let d ← six r.d
      let a ← six r.a
      let b ← six r.b
      optIf (r.noSF && r.noU && r.c == 0#8) (.reverse r.guard d a b)))
  | 0x3#4 => minor (r.only 3#7) (fieldOf (gradeOf r.fn7) (fun g =>
      rsv (optIf (r.noSF && r.noU && r.d == 0#8 && r.a == 0#8 && r.b == 0#8 && r.c == 0#8) (.grade r.guard g))))
  | 0x4#4 => minor (r.only 0#7) (rsv (do
      let a ← six r.a
      optIf (r.noSF && r.noU && r.d == 0#8 && r.b == 0#8 && r.c == 0#8) (.hstash r.guard a)))
  | 0x5#4 => minor (r.only 7#7) (fieldOf (queryOf r.fn7) (fun q => rsv (do
      let d ← six r.d
      let a ← six r.a
      optIf (r.noSF && r.noU && even6 d && r.b == 0#8 && r.c == 0#8 && (q == .mark || a == 0#6))
        (.hquery q r.guard d a))))
  | _ => .error 0x0001#16

/-! Row F (R399). -/

def decRowF (r : Raw) : Dec :=
  match r.op.extractLsb' 0 4 with
  | 0x0#4 => minor (r.only 0#7) (rsv (do
      let d ← six r.d
      let a ← six r.a
      optIf (r.noSF && r.noU && r.b == 0#8) (.trap r.guard d a r.c)))
  | 0x1#4 => minor (r.fn == 0#4 || r.fn == 1#4) (rsv (optIf r.zero1 (if r.fn == 1#4 then .eretSkip else .eret)))
  | 0x2#4 => minor (r.fn == 0#4 || r.fn == 1#4) (rsv (optIf r.zero1 (if r.fn == 1#4 then .emuretRetry else .emuret)))
  | 0x3#4 => minor (r.fn == 0#4) (rsv (optIf (r.d == 0#8) (.bkpt r.a)))
  | 0x4#4 =>
    if r.len = 1 then minor (r.fn == 0#4) (rsv (optIf r.zero1 .nop))
    else minor (r.only 0#7) (rsv (optIf (r.noSF && r.noU && r.d == 0#8 && r.a == 0#8 && r.b == 0#8 && r.c == 0#8)
      (if r.len = 3 then .nopL r.guard r.lit else .nopW r.guard)))
  | 0x5#4 => minor (r.only 0#7) (rsv (do
      let d ← six r.d
      let a ← six r.a
      let b ← six r.b
      optIf (r.noSF && r.noU && even6 d && r.c == 0#8) (.mfg r.guard d a b)))
  | 0x6#4 => minor (r.only 0#7) (rsv (do
      let d ← six r.d
      let a ← six r.a
      let b ← six r.b
      optIf (r.noSF && r.noU && even6 d && r.c == 0#8) (.mtg r.guard d a b)))
  | 0x7#4 => minor (r.only 0#7) (rsv (do
      let d ← six r.d
      let a ← six r.a
      let b ← six r.b
      let c ← six r.c
      optIf (r.noSF && r.noU && even6 d) (.revg r.guard d a b c)))
  | 0x8#4 => minor (r.only 0#7) (rsv (do
      let d ← six r.d
      let a ← six r.a
      let b ← six r.b
      let c ← six r.c
      optIf (r.noSF && r.noU && even6 d) (.launch r.guard d a b c)))
  | _ => .error 0x0001#16

/-! Rows 4 to 7 (05_lane_float_crosslane). -/

def Raw.fmod (r : Raw) : FMod := ⟨rmOf (r.fn7.extractLsb' 0 2), r.f 2, r.f 3⟩
def Raw.aneg (r : Raw) : ANeg := ⟨r.f 2, r.f 3⟩
def Raw.pkmod (r : Raw) : PkMod := ⟨rmOf (r.fn7.extractLsb' 0 2), r.f 2, r.f 3, r.f 4⟩

def ffmtOf (x : BitVec 2) : Option FFmt :=
  match x with
  | 0#2 => some .f32
  | 1#2 => some .f16
  | 2#2 => some .bf16
  | _ => none

def decRow4 (r : Raw) : Dec :=
  match r.op.extractLsb' 0 4 with
  | 0x0#4 => minor (r.only 0xF#7) (rsv (if r.len = 3 then r.l2l.map (.faddL96 r.fmod) else r.l2.map (.fadd r.fmod)))
  | 0x1#4 => minor (r.only 0xF#7) (rsv (if r.len = 3 then r.l2l.map (.fsubL96 r.fmod) else r.l2.map (.fsub r.fmod)))
  | 0x2#4 => minor (r.only 0xF#7) (rsv (if r.len = 3 then r.l2l.map (.fmulL96 r.fmod) else r.l2.map (.fmul r.fmod)))
  | 0x3#4 => minor (r.only 0xF#7) (rsv (if r.len = 3 then r.l3l.map (.ffmaL96 r.fmod) else r.l3.map (.ffma r.fmod)))
  | 0x4#4 => minor (r.only 0xC#7) (rsv (r.l2.map (.fmin r.aneg)))
  | 0x5#4 => minor (r.only 0xC#7) (rsv (r.l2.map (.fmax r.aneg)))
  | 0x6#4 => minor (r.only 7#7) (fieldOf (ffmtOf (r.fn7.extractLsb' 0 2)) (fun f =>
      minor (!(f == .f32 && r.f 2)) (rsv (r.l1.map (.fclass f (r.f 2))))))
  | 0x7#4 => minor (r.only 0xF#7) (rsv (r.l1.map (.frcp r.fmod)))
  | 0x8#4 => minor (r.only 0xC#7) (rsv (r.l1.map (.frsq r.aneg)))
  | 0x9#4 => minor (r.only 0xF#7) (rsv (r.l1.map (.fsqrt r.fmod)))
  | 0xA#4 => minor (r.only 0xC#7) (rsv (r.l1.map (.fexp2 r.aneg)))
  | 0xB#4 => minor (r.only 0xC#7) (rsv (r.l1.map (.flog2 r.aneg)))
  | 0xC#4 => minor (r.only 0xC#7) (rsv (r.l1.map (.fsin r.aneg)))
  | 0xD#4 => minor (r.only 0xC#7) (rsv (r.l1.map (.fcos r.aneg)))
  | _ => .error 0x0001#16

def decRow5 (r : Raw) : Dec :=
  match r.op.extractLsb' 0 4 with
  | 0x0#4 => minor (r.only 0x1F#7) (rsv (if r.len = 3 then r.l2l.map (.pkaddL96 r.pkmod) else r.l2.map (.pkadd r.pkmod)))
  | 0x1#4 => minor (r.only 0x1F#7) (rsv (if r.len = 3 then r.l2l.map (.pkmulL96 r.pkmod) else r.l2.map (.pkmul r.pkmod)))
  | 0x2#4 => minor (r.only 0x1F#7) (rsv (if r.len = 3 then r.l3l.map (.pkfmaL96 r.pkmod) else r.l3.map (.pkfma r.pkmod)))
  | 0x3#4 => minor (r.only 0x1C#7) (rsv (r.l2.map (.pkmin (r.f 2) (r.f 3) (r.f 4))))
  | 0x4#4 => minor (r.only 0x1C#7) (rsv (r.l2.map (.pkmax (r.f 2) (r.f 3) (r.f 4))))
  | _ => .error 0x0001#16

/-- The type codes of CVT (R150). -/
def cvtOf (x : BitVec 4) : Option CvtType :=
  match x with
  | 0x0#4 => some .i8
  | 0x1#4 => some .i16
  | 0x2#4 => some .i32
  | 0x3#4 => some .i64
  | 0x4#4 => some .z8
  | 0x5#4 => some .z16
  | 0x6#4 => some .z32
  | 0x7#4 => some .z64
  | 0x8#4 => some .f16
  | 0x9#4 => some .bf16
  | 0xA#4 => some .f32
  | _ => none

def is16 (t : Option CvtType) : Bool := t == some .f16 || t == some .bf16
def isFloat (t : Option CvtType) : Bool := is16 t || t == some .f32
def isWide (t : CvtType) : Bool := t == .i64 || t == .z64

def decCvt (r : Raw) : Dec :=
  let src := cvtOf (r.c.extractLsb' 0 4)
  let dst := cvtOf (r.c.extractLsb' 4 4)
  minor (r.only 0x3F#7 && (!r.f 3 || is16 src) && (!r.f 4 || is16 dst) && (!r.f 5 || (isFloat src && src == dst)))
    (rsv (do
      let s ← src
      let d ← dst
      let a ← r.srcA
      optIf (r.noSF && !r.ai && !r.bu && r.b == 0#8 && (!isWide d || even8 r.d) && (!isWide s || pairSrc a))
        (.cvt ⟨rmOf (r.fn7.extractLsb' 0 2), r.f 2, r.f 3, r.f 4, r.f 5⟩ d s r.guard r.d a)))

def decCvt8 (r : Raw) : Dec :=
  minor (r.only 0x1F#7 && (if r.f 0 then !r.f 1 && !r.f 2 && !r.f 4 else !r.f 3)) (rsv (do
    let a ← r.srcA
    let ok := r.noSF && !r.ai && r.c.extractLsb' 3 5 == 0#5
    if r.f 0 then
      optIf (ok && r.b == 0#8 && !r.bu && even8 r.d) (.cvt8 (.from_ (r.f 3) r.guard r.d a (r.c.setWidth 3)))
    else do
      let b ← r.srcB
      optIf ok (.cvt8 (.to (rmOf (r.fn7.extractLsb' 1 2)) (r.f 4) r.guard r.d a b (r.c.setWidth 3)))))

def decCvtx (r : Raw) : Dec :=
  let code := r.fn7.extractLsb' 0 3
  minor (r.only 0x1F#7 && !(r.f 4 && (code == 1#3 || code == 2#3)))
    (match code with
      | 0#3 => rsv (r.l1.map (.cvtx .int4 (r.f 3) (r.f 4)))
      | 1#3 => rsv (r.l1.map (.cvtx .e3m2 (r.f 3) (r.f 4)))
      | 2#3 => rsv (r.l1.map (.cvtx .e2m3 (r.f 3) (r.f 4)))
      | _ => notNative r.l1.isSome)

def decRow6 (r : Raw) : Dec :=
  match r.op.extractLsb' 0 4 with
  | 0x0#4 => decCvt r
  | 0x1#4 => minor (r.only 0x15#7) (rsv (r.l2.map (.cvts (r.f 0) (r.f 2) (r.f 4))))
  | 0x2#4 => decCvt8 r
  | 0x3#4 => decCvtx r
  | 0x4#4 => minor (r.only 3#7 && !(r.f 1 && !r.f 0)) (rsv (do
      let k ← six r.b
      optIf (r.noSF && r.noU && r.c.extractLsb' 3 5 == 0#5)
        (.cvtmx (if r.f 1 then .bf16hs else if r.f 0 then .bf16 else .f32) r.guard r.d k r.a (r.c.setWidth 3))))
  | 0x5#4 =>
    match r.fn7 with
    | 0#7 => rsv (r.l2.map (.pack .lo))
    | 1#7 => rsv (r.l2.map (.pack .hi))
    | 2#7 => rsv (r.l2.map (.pack .lh))
    | _ => .error 0x0002#16
  | 0x6#4 => minor (r.only 3#7) (rsv (do
      let a ← r.srcA
      optIf (r.noSF && !r.ai && !r.bu && r.b == 0#8 && r.c.extractLsb' 2 6 == 0#6 && !(r.f 0 && r.c.getLsbD 1))
        (.unpack (r.f 0) (r.f 1) r.guard r.d a (r.c.setWidth 2))))
  | _ => .error 0x0001#16

def segOf (x : BitVec 3) : Option Seg :=
  match x with
  | 0#3 => some .s1
  | 1#3 => some .s2
  | 2#3 => some .s4
  | 3#3 => some .s8
  | 4#3 => some .s16
  | 5#3 => some .s32
  | _ => none
def lgModeOf (x : BitVec 2) : LgMode :=
  match x with
  | 0#2 => .at_
  | 1#2 => .below
  | 2#2 => .above
  | _ => .mirror

/-- The predicate of .p, or the zero field without it (R165); `none` is a reserved field. -/
def Raw.optC (r : Raw) (on : Bool) : Option (Option (BitVec 6)) :=
  if on then (six r.c).map some else optIf (r.c == 0#8) none

def redOpOf (x : BitVec 3) : Option RedOp :=
  match x with
  | 0#3 => some .add
  | 1#3 => some .min
  | 2#3 => some .max
  | 3#3 => some .and
  | 4#3 => some .or
  | 5#3 => some .xor
  | _ => none
def redSigned (o : RedOp) : Bool := o == .add || o == .min || o == .max

def decVote (r : Raw) : Dec :=
  let kind := r.fn7.extractLsb' 0 2
  minor (r.only 0xF#7 && kind != 3#2 && (!r.f 2 || kind == 2#2)) (rsv (do
    let a ← six r.a
    let dst ← match kind with
      | 0#2 => (six r.d).map VoteDst.all
      | 1#2 => (six r.d).map VoteDst.any
      | _ => if r.f 2 then (six r.d).map VoteDst.ballotK else some (.ballot r.d)
    optIf (r.noSF && r.noU && r.b == 0#8 && r.c == 0#8) (.vote dst (r.f 3) r.guard a)))

def decRow7 (r : Raw) : Dec :=
  match r.op.extractLsb' 0 4 with
  | 0x0#4 => fieldOf (segOf (r.fn7.extractLsb' 2 3)) (fun seg => rsv (do
      let pc ← r.optC (r.f 5)
      let b ← if r.f 6 then optIf (r.b.extractLsb' 5 3 == 0#3 && !r.bu) (LgB.imm (r.b.setWidth 5)) else r.srcB.map LgB.src
      optIf (r.noSF && !r.au && !r.ai) (.lget (lgModeOf (r.fn7.extractLsb' 0 2)) seg r.guard r.d r.a b pc)))
  | 0x1#4 => minor (r.only 0x21#7) (rsv (do
      let pc ← r.optC (r.f 5)
      let b ← r.srcB
      optIf (r.noSF && !r.au && !r.ai) (.perm (r.f 0) r.guard r.d r.a b pc)))
  | 0x2#4 => decVote r
  | 0x3#4 => minor (r.only 0xF#7) (fieldOf (redOpOf (r.fn7.extractLsb' 0 3)) (fun op =>
      minor (!r.f 3 || redSigned op) (rsv (do
        let d ← six r.d
        let a ← r.lsrc
        optIf (r.noSF && !r.bu && r.b == 0#8) (.redux op (r.f 3) r.guard d a)))))
  | 0x4#4 => minor (r.only 3#7) (rsv (
      if r.f 1 then do
        let k ← six r.c
        optIf (r.noSF && r.noU && r.b == 0#8) (.scan (r.f 0) r.guard r.d (.v r.a) (some k))
      else do
        let a ← r.lsrc
        optIf (r.noSF && !r.bu && r.b == 0#8) (.scan (r.f 0) r.guard r.d a none)))
  | 0x5#4 => minor (r.only 0x21#7) (rsv (do
      let pc ← r.optC (r.f 5)
      optIf (r.noSF && r.noU && r.b == 0#8 && (!r.f 0 || even8 r.a)) (.match_ (r.f 0) r.guard r.d r.a pc)))
  | 0x6#4 => minor (r.only 0#7) (rsv (do
      let k ← six r.c
      optIf (r.noSF && r.noU) (.isect r.guard r.d k r.a r.b)))
  | _ => .error 0x0001#16

/-! Rows A and B (06_memory_port). -/

def sizeOf_ (x : BitVec 3) : Size :=
  match x with
  | 0#3 => .b8
  | 1#3 => .b16
  | 2#3 => .b32
  | 3#3 => .b64
  | 4#3 => .b128
  | 5#3 => .i8
  | 6#3 => .i16
  | _ => .i32
def spaceOf (x : BitVec 2) : Space :=
  match x with
  | 0#2 => .global
  | 1#2 => .polder
  | 2#2 => .cs
  | _ => .priv
def policyOf (x : BitVec 2) : Policy :=
  match x with
  | 0#2 => .none
  | 1#2 => .nl1
  | 2#2 => .stream
  | _ => .pcache
/-- FN7 of a memory access (R189). -/
def Raw.mem (r : Raw) : MemMod :=
  ⟨sizeOf_ (r.fn7.extractLsb' 0 3), spaceOf (r.fn7.extractLsb' 3 2), policyOf (r.fn7.extractLsb' 5 2)⟩

/-- A policy belongs to the global space only (R181). -/
def MemMod.ok (m : MemMod) : Bool := m.policy == .none || m.space == .global
/-- The alignment of a register operand (R190). -/
def sizeAligned (s : Size) (d : Byte) : Bool :=
  match s with
  | .b64 => even8 d
  | .b128 => d.extractLsb' 0 2 == 0#2
  | _ => true

/-- A base pair or a uniform register (R188). -/
def Raw.base (r : Raw) : Option Src := r.srcA.bind (fun a => optIf (pairSrc a) a)
def Raw.addr (r : Raw) : Option Addr := do
  let a ← r.base
  let b ← r.srcB
  optIf (!r.ai && !r.r31) ⟨a, b, r.c⟩
def Raw.addrL (r : Raw) : Option AddrL := do
  let a ← r.base
  let b ← r.srcB
  optIf (!r.ai && !r.r31 && r.c == 0#8) ⟨a, b, r.lit⟩
def Raw.flags (r : Raw) : SFlags := ⟨r.sfa, r.sfb⟩
def Raw.noFlags (r : Raw) : Bool := !r.sfa && !r.sfb

def scopeOf (x : BitVec 3) : Option Scope :=
  match x with
  | 0#3 => some .group
  | 1#3 => some .team
  | 2#3 => some .cluster
  | 3#3 => some .die
  | 4#3 => some .device
  | 5#3 => some .system
  | _ => none
def gspaceOf (x : BitVec 2) : Option GSpace :=
  match x with
  | 0#2 => some .global
  | 1#2 => some .polder
  | _ => none
def aspaceOf (x : BitVec 2) : Option ASpace :=
  match x with
  | 0#2 => some .global
  | 1#2 => some .polder
  | 2#2 => some .cs
  | _ => none
def fenceOf (x : BitVec 2) : Option FenceKind :=
  match x with
  | 0#2 => some .acq
  | 1#2 => some .rel
  | 2#2 => some .full
  | _ => none

/-- A load or store operand in either length. -/
def Raw.ldst (r : Raw) (flags : Bool) (short : Addr → Instr) (long : AddrL → Instr) : Option Instr :=
  if r.mem.ok && sizeAligned r.mem.size r.d && (flags || r.noFlags) then
    (if r.len = 3 then r.addrL.map long else r.addr.map short)
  else none

/-- Row A (R188 to R199). The entry of LDX, STX and XCHG excludes .b128 alone: their signed sizes move as many bytes as the unsigned
ones (R192; DESIGN CHOICE, log 52). -/
def decRowA (r : Raw) : Dec :=
  match r.op.extractLsb' 0 4 with
  | 0x0#4 => minor (r.mem.size != .i32) (rsv (r.ldst false (.ld r.mem r.guard r.d) (.ldL96 r.mem r.guard r.d)))
  | 0x1#4 => minor (r.mem.size != .i8 && r.mem.size != .i16 && r.mem.size != .i32)
      (rsv (r.ldst true (.st r.mem r.flags r.guard r.d) (.stL96 r.mem r.flags r.guard r.d)))
  | 0x2#4 => minor (r.mem.size != .b128) (rsv (r.addr.bind (fun ad =>
      optIf (r.mem.ok && r.noFlags && sizeAligned r.mem.size r.d) (.ldx r.mem r.guard r.d ad))))
  | 0x3#4 => minor (r.mem.size != .b128) (rsv (r.addr.bind (fun ad =>
      optIf (r.mem.policy == .none && sizeAligned r.mem.size r.d) (.stx r.mem r.flags r.guard r.d ad))))
  | 0x4#4 => minor (r.mem.size != .b128) (rsv (r.addr.bind (fun ad =>
      optIf (r.mem.policy == .none && r.noFlags && sizeAligned r.mem.size r.d) (.xchg r.mem r.guard r.d ad))))
  | 0x5#4 => minor (r.only 0x38#7) (rsv (do
      let sp ← gspaceOf (r.fn7.extractLsb' 3 2)
      let ad ← r.addr
      optIf (r.d == 0#8 && (r.f 5 || sp == .global)) (.pref (r.f 5) sp r.flags r.guard ad)))
  | 0x6#4 => minor (r.only 0x1F#7) (fieldOf (fenceOf (r.fn7.extractLsb' 0 2)) (fun k =>
      fieldOf (scopeOf (r.fn7.extractLsb' 2 3)) (fun sc =>
        rsv (optIf (r.noSF && r.noU && r.d == 0#8 && r.a == 0#8 && r.b == 0#8 && r.c == 0#8) (.fence k sc r.guard)))))
  | 0x7#4 => minor (r.mem.size != .b128) (rsv (do
      let d ← six r.d
      let a ← six r.a
      let b ← six r.b
      if r.mem.ok && r.mem.space != .priv && r.noSF && r.noU then
        (if r.len = 3 then optIf (r.c == 0#8) (.kldL96 r.mem r.guard d a b r.lit) else some (.kld r.mem r.guard d a b r.c))
      else none))
  | _ => .error 0x0001#16

def orderOf (x : BitVec 2) : AOrder :=
  match x with
  | 0#2 => .relaxed
  | 1#2 => .acq
  | 2#2 => .rel
  | _ => .ar
/-- The operation of FN7[4:0] (R193). -/
def aopOf (x : BitVec 5) : Option AOp :=
  match x with
  | 0x00#5 => some .add
  | 0x01#5 => some .sub
  | 0x02#5 => some .and
  | 0x03#5 => some .or
  | 0x04#5 => some .xor
  | 0x05#5 => some .min
  | 0x15#5 => some .minz
  | 0x06#5 => some .max
  | 0x16#5 => some .maxz
  | 0x07#5 => some .exch
  | 0x08#5 => some .incw
  | 0x09#5 => some .decw
  | _ => none

/-- The modifiers of an atomic, given its scope; `none` is a reserved field (R193). -/
def Raw.amod (r : Raw) (sc : Scope) : Option AMod := do
  let sp ← aspaceOf (r.fn7.extractLsb' 5 2)
  optIf (r.c.extractLsb' 6 2 == 0#2) ⟨r.c.getLsbD 5, sp, sc, orderOf (r.c.extractLsb' 3 2)⟩

def pairIf (w : Bool) (x : Src) : Bool := !w || pairSrc x

def decAtom (r : Raw) (op : AOp) (sc : Scope) : Option Instr := do
  let m ← r.amod sc
  let a ← r.base
  let b ← r.srcB
  optIf (r.noSF && !r.ai && (!m.w64 || even8 r.d) && pairIf m.w64 b) (.atom op m r.guard r.d a b)

def decRed (r : Raw) (op : AOp) (sc : Scope) : Option Instr := do
  let m ← r.amod sc
  let a ← r.base
  if r.d == 0#8 && !r.ai && !r.r31 then
    (if r.len = 3 then optIf (r.b == 0#8 && !r.bu) (.redL96 op m r.flags r.guard a r.lit)
    else do
      let b ← r.srcB
      optIf (pairIf m.w64 b) (.red op m r.flags r.guard a b))
  else none

def decQueue (r : Raw) (mk : GSpace → Scope → Guard → PReg → KReg → VReg → Instr) : Dec :=
  minor (r.only 0x1F#7) (fieldOf (scopeOf (r.fn7.extractLsb' 0 3)) (fun sc => rsv (do
    let sp ← gspaceOf (r.fn7.extractLsb' 3 2)
    let a ← six r.a
    let c ← six r.c
    optIf (r.noSF && r.noU && r.b == 0#8) (mk sp sc r.guard c a r.d))))

def decRowB (r : Raw) : Dec :=
  match r.op.extractLsb' 0 4 with
  | 0x0#4 => fieldOf (aopOf (r.fn7.extractLsb' 0 5)) (fun op => fieldOf (scopeOf (r.c.extractLsb' 0 3)) (fun sc =>
      rsv (decAtom r op sc)))
  | 0x1#4 => minor (r.fn7.extractLsb' 0 5 == 0#5) (fieldOf (scopeOf (r.c.extractLsb' 0 3)) (fun sc => rsv (do
      let m ← r.amod sc
      let a ← r.base
      let b ← r.srcB
      optIf (r.noSF && !r.ai && (!m.w64 || even8 r.d) && pairIf m.w64 b) (.atomcas m r.guard r.d a b))))
  | 0x2#4 => fieldOf (aopOf (r.fn7.extractLsb' 0 5)) (fun op => minor (op != .exch)
      (fieldOf (scopeOf (r.c.extractLsb' 0 3)) (fun sc => rsv (decRed r op sc))))
  | 0x3#4 => decQueue r .enq
  | 0x4#4 => decQueue r .deq
  | _ => .error 0x0001#16

/-! Row C (11_matrix). -/

/-- A tile field: 48 to 63 are reserved (R277). -/
def tileF (x : Byte) : Option TileReg := (six x).bind (fun t => optIf (decide (t.toNat < 48)) t)

def decMma (r : Raw) (mk : Guard → TileReg → VReg → VReg → Slot → Slot → Instr) : Dec :=
  rsv (do
    let d ← tileF r.d
    optIf (r.noSF && r.noU && r.c.extractLsb' 6 2 == 0#2)
      (mk r.guard d r.a r.b (r.c.extractLsb' 0 3) (r.c.extractLsb' 3 3)))

def decAccmov (r : Raw) : Dec :=
  let q := r.fn7.extractLsb' 2 2
  let ok := r.noSF && r.noU && r.b == 0#8 && r.c == 0#8
  minor (r.only 0xF#7) (match r.fn7.extractLsb' 0 2 with
    | 0#2 => minor (q == 0#2) (rsv (do
        let d ← tileF r.d
        let a ← tileF r.a
        optIf ok (.accmov r.guard (.cc d a))))
    | 1#2 => rsv (do
        let a ← tileF r.a
        optIf ok (.accmov r.guard (.rd q r.d a)))
    | 2#2 => rsv (do
        let d ← tileF r.d
        optIf ok (.accmov r.guard (.wr q d r.a)))
    | _ => .error 0x0002#16)

def decRowC (r : Raw) : Dec :=
  match r.op.extractLsb' 0 4 with
  | 0x0#4 => minor (r.only 0xF#7 && (r.f 0 || r.fn7.extractLsb' 2 2 == 0#2))
      (decMma r (.mma (if r.f 0 then some (r.fn7.extractLsb' 2 2) else none) (r.f 1)))
  | 0x1#4 => minor (r.only 2#7) (decMma r (.mmas (r.f 1)))
  | 0x2#4 => minor (r.only 2#7) (decMma r (.mmax (r.f 1)))
  | 0x3#4 => minor (r.only 0#7) (rsv (do
      let d ← tileF r.d
      optIf (r.noSF && r.noU && r.a == 0#8 && r.b == 0#8 && r.c.extractLsb' 3 5 == 0#5)
        (.accz r.guard d (r.c.setWidth 3))))
  | 0x4#4 => minor (r.only 0x18#7) (rsv (do
      let sp ← aspaceOf (r.fn7.extractLsb' 3 2)
      let d ← tileF r.d
      let a ← six r.a
      let b ← six r.b
      optIf (r.noSF && r.noU && r.c.extractLsb' 3 5 == 0#5) (.accld sp r.guard d a b (r.c.setWidth 3))))
  | 0x5#4 => minor (r.only 0x1B#7) (rsv (do
      let sp ← aspaceOf (r.fn7.extractLsb' 3 2)
      let d ← tileF r.d
      let a ← six r.a
      let b ← six r.b
      optIf (!r.r31 && r.noU && r.c.extractLsb' 3 5 == 0#5)
        (.accst (rmOf (r.fn7.extractLsb' 0 2)) sp r.flags r.guard d a b (r.c.setWidth 3))))
  | 0x6#4 => decAccmov r
  | 0x7#4 => minor (r.only 0#7) (rsv (do
      let d ← six r.d
      optIf (r.noSF && r.noU && r.a == 0#8 && r.b == 0#8 && r.c == 0#8) (.satrd r.guard d)))
  | 0x8#4 => minor (r.only 1#7) (rsv (
      if r.f 0 then optIf (r.noSF && r.noU && r.d == 0#8 && r.a == 0#8 && r.b == 0#8) (.satclr r.guard (.imm r.c))
      else do
        let a ← six r.a
        optIf (r.noSF && r.noU && r.d == 0#8 && r.b == 0#8 && r.c == 0#8) (.satclr r.guard (.k a))))
  | _ => .error 0x0001#16

/-! Row D (12_polder_copy). -/

/-- The common fields of a copy, given its scope (R330). -/
def Raw.cpy (r : Raw) (sc : Scope) : Option CpyMod := do
  let ss ← aspaceOf (r.fn7.extractLsb' 0 2)
  let ds ← aspaceOf (r.fn7.extractLsb' 2 2)
  let a ← six r.a
  let ke ← six r.c
  optIf (!r.r31 && r.noU && r.d == 0#8) ⟨ss, ds, sc, r.flags, r.guard, a, ke⟩

def scopeWide (s : Scope) : Bool := s != .group && s != .team

/-- A descriptor's four registers kA to kA+3: A lies from 1 to 60 (R325). -/
def quad6 (a : KReg) : Bool := decide (1 ≤ a.toNat ∧ a.toNat ≤ 60)

/-- Copies, tiles and seals. A CPYM from the core store or to another space, and a CPYG that does not read the core store, have a
reserved field value, cause 0x0004 (R330 names it for space code 11 alone; DESIGN CHOICE, log 53). -/
def decRowD (r : Raw) : Dec :=
  match r.op.extractLsb' 0 4 with
  | 0x0#4 => fieldOf (scopeOf (r.fn7.extractLsb' 4 3)) (fun sc => rsv ((r.cpy sc).bind (fun m =>
      if r.b = 0#8 then (if r.len = 3 then optIf (even6 m.a) (.cpyL96 m r.lit) else optIf (quad6 m.a) (.cpy m)) else none)))
  | 0x1#4 => fieldOf (scopeOf (r.fn7.extractLsb' 4 3)) (fun sc => rsv ((r.cpy sc).bind (fun m =>
      (six r.b).bind (fun k => optIf (scopeWide sc && m.ss != .cs && m.ds == .cs && quad6 m.a) (.cpym m k)))))
  | 0x2#4 => fieldOf (scopeOf (r.fn7.extractLsb' 4 3)) (fun sc => rsv ((r.cpy sc).bind (fun m =>
      (six r.b).bind (fun k => optIf (m.ss == .cs && quad6 m.a) (.cpyg m k)))))
  | 0x3#4 => minor (r.only 0#7) (rsv (do
      let a ← six r.a
      let b ← six r.b
      optIf (r.noSF && r.noU && r.d == 0#8 && r.c == 0#8) (.seal r.guard a b)))
  | 0x4#4 => minor (r.only 0#7) (rsv (do
      let a ← six r.a
      optIf (r.noSF && r.noU && r.d == 0#8 && r.b == 0#8 && r.c == 0#8) (.unseal r.guard a)))
  | 0x5#4 => minor (r.only 0#7) (rsv (do
      let a ← six r.a
      optIf (r.noSF && r.noU && r.d == 0#8 && r.b == 0#8 && r.c == 0#8) (.drop r.guard a)))
  | 0x6#4 => minor (r.only 3#7) (rsv (do
      let d ← six r.d
      let a ← six r.a
      let b ← six r.b
      let c ← six r.c
      let m := match r.fn7.extractLsb' 0 2 with
        | 0#2 => TileMode.open_
        | 1#2 => .held
        | 2#2 => .neg
        | _ => .req
      optIf (r.noSF && r.noU && even6 d && (m == .neg || m == .req || a == 0#6) && (m == .req || c == 0#6))
        (.tileget m r.guard d a b c)))
  | 0x7#4 => minor (r.only 0#7) (rsv (do
      let a ← six r.a
      optIf (r.noSF && r.noU && r.d == 0#8 && r.b == 0#8 && r.c == 0#8) (.tileput r.guard a)))
  | 0x8#4 => minor (r.only 3#7 && !(r.f 0 && r.f 1)) (rsv (do
      let a ← six r.a
      let b ← six r.b
      optIf (r.noSF && r.noU && r.d == 0#8 && r.c == 0#8 && (r.f 0 || (a == 0#6 && b == 0#6)))
        (.surrender (if r.f 0 then .summary a b else if r.f 1 then .refuse else .finish) r.guard)))
  | _ => .error 0x0001#16

/-! Row E (14_task_engine R361, 15_conflict_batcher R374). -/

def bindOf (x : BitVec 2) : Option Bind :=
  match x with
  | 0#2 => some .team
  | 1#2 => some .cluster
  | 2#2 => some .grid
  | _ => none

/-- The count of registers passed, 0 to 16, in C (R361). -/
def countF (c : Byte) : Option (BitVec 5) := optIf (decide (c.toNat ≤ 16)) (c.setWidth 5)

/-- The task engine's row. A CNTDEC whose space code is neither global nor polder has a reserved field value, cause 0x0004 (R361
names no cause; DESIGN CHOICE, log 53). -/
def decRowE (r : Raw) : Dec :=
  match r.op.extractLsb' 0 4 with
  | 0x0#4 => minor (r.only 3#7) (fieldOf (bindOf (r.fn7.extractLsb' 0 2)) (fun b => rsv (do
      let d ← six r.d
      let a ← six r.a
      let n ← countF r.c
      if r.noSF && r.noU then
        (if r.len = 3 then optIf (a == 0#6) (.spawnL96 b r.guard d r.lit r.b n) else some (.spawn b r.guard d a r.b n))
      else none)))
  | 0x1#4 => minor (r.only 1#7) (rsv (do
      let d ← six r.d
      let a ← six r.a
      optIf (r.noSF && r.noU && r.b == 0#8 && r.c == 0#8 && (r.f 0 || a == 0#6))
        (if r.f 0 then .evfree r.guard d a else .evnew r.guard d)))
  | 0x2#4 => minor (r.only 7#7) (fieldOf (scopeOf (r.fn7.extractLsb' 0 3)) (fun sc => minor (sc != .group) (rsv (do
      let a ← six r.a
      optIf (r.noSF && r.noU && r.d == 0#8 && r.b == 0#8 && r.c == 0#8) (.evsig sc r.guard a)))))
  | 0x3#4 => minor (r.only 7#7) (fieldOf (bindOf (r.fn7.extractLsb' 1 2)) (fun b => rsv (do
      let a ← six r.a
      let n ← countF r.c
      optIf (r.noSF && r.noU && r.d == 0#8) (.evwait (r.f 0) b r.guard a r.b n))))
  | 0x4#4 => minor (r.only 0x18#7) (rsv (do
      let sp ← gspaceOf (r.fn7.extractLsb' 3 2)
      let d ← six r.d
      let a ← r.base
      optIf (r.noSF && !r.ai && !r.bu && r.b == 0#8 && r.c == 0#8) (.cntdec sp r.guard d a)))
  | 0x5#4 => minor (r.fn == 0#4) (rsv (optIf r.zero1 .bar))
  | 0x6#4 => minor (r.only 0#7) (rsv (do
      let d ← six r.d
      optIf (r.noSF && r.noU && r.a == 0#8 && r.b == 0#8 && r.c.extractLsb' 4 4 == 0#4) (.grow r.guard d (r.c.setWidth 4))))
  | 0x7#4 => minor (r.fn == 0#4) (rsv (optIf r.zero1 .yield_))
  | 0x8#4 => minor (r.only 0#7) (rsv (do
      let d ← six r.d
      let a ← six r.a
      let b ← six r.b
      optIf (r.noSF && r.noU && r.c == 0#8) (.gridl r.guard d a b)))
  | 0x9#4 => minor (r.fn == 0#4) (rsv (optIf r.zero1 .hintnext))
  | 0xA#4 => minor (r.fn == 0#4) (rsv (optIf r.zero1 .waitpred))
  | 0xB#4 => minor (r.only 0#7) (rsv (do
      let a ← six r.a
      let b ← six r.b
      let c ← six r.c
      optIf (!r.r31 && r.noU) (.send r.flags r.guard r.d a b c)))
  | 0xC#4 => minor (r.only 7#7) (rsv (do
      let d ← six r.d
      optIf (r.noSF && r.noU && r.a == 0#8 && r.b == 0#8 && r.c == 0#8) (.cbopen (r.fn7.extractLsb' 0 3) r.guard d)))
  | 0xD#4 => minor (r.only 0x1F#7) (rsv (do
      let d ← six r.d
      optIf (r.noSF && r.noU && r.c == 0#8)
        (.cbpush (r.fn7.extractLsb' 0 3) (r.fn7.extractLsb' 3 2) r.guard d r.a r.b)))
  | 0xE#4 => minor (r.only 7#7) (rsv (do
      let b ← six r.b
      let c ← six r.c
      optIf (r.noSF && r.noU && r.a == 0#8) (.cbpull (r.fn7.extractLsb' 0 3) r.guard r.d b c)))
  | _ =>
    match r.fn7.extractLsb' 0 2 with
    | 0#2 => minor (r.only 0x1C#7) (rsv (do
        let d ← six r.d
        let a ← six r.a
        optIf (r.noSF && r.noU && r.b == 0#8 && r.c == 0#8) (.cbdone (r.fn7.extractLsb' 2 3) r.guard d a)))
    | 1#2 => minor (r.only 0x3D#7) (rsv (do
        let d ← six r.d
        optIf (r.noSF && r.noU && r.a == 0#8 && r.b == 0#8 && r.c == 0#8)
          (.cbflush (r.fn7.extractLsb' 2 3) (r.f 5) r.guard d)))
    | _ => .error 0x0002#16

/-! The opcode map (R51). -/

/-- How many cells of each row are assigned. -/
def rowCells (row : BitVec 4) : Nat :=
  match row with
  | 0x0#4 => 16
  | 0x1#4 => 11
  | 0x2#4 => 11
  | 0x3#4 => 16
  | 0x4#4 => 14
  | 0x5#4 => 5
  | 0x6#4 => 7
  | 0x7#4 => 7
  | 0x8#4 => 9
  | 0x9#4 => 6
  | 0xA#4 => 8
  | 0xB#4 => 5
  | 0xC#4 => 9
  | 0xD#4 => 9
  | 0xE#4 => 16
  | _ => 9

def opAssigned (op : Byte) : Bool := decide ((op.extractLsb' 0 4).toNat < rowCells (op.extractLsb' 4 4))

/-- The cells with a 32-bit form, and those with a 96-bit form; every other assigned cell has the 64-bit form alone. -/
def ops1 : List Byte :=
  [0x0F#8, 0x23#8, 0x34#8, 0x37#8, 0x85#8, 0x86#8, 0x87#8, 0x90#8, 0x91#8, 0xE5#8, 0xE7#8, 0xE9#8, 0xEA#8, 0xF1#8, 0xF2#8,
   0xF3#8, 0xF4#8]
def ops3 : List Byte :=
  [0x00#8, 0x01#8, 0x06#8, 0x08#8, 0x0A#8, 0x0B#8, 0x20#8, 0x21#8, 0x22#8, 0x24#8, 0x30#8, 0x31#8, 0x32#8, 0x35#8, 0x3B#8,
   0x3C#8, 0x3D#8, 0x3F#8, 0x40#8, 0x41#8, 0x42#8, 0x43#8, 0x50#8, 0x51#8, 0x52#8, 0x80#8, 0x81#8, 0x83#8, 0xA0#8, 0xA1#8,
   0xA7#8, 0xB2#8, 0xD0#8, 0xE0#8, 0xF4#8]
/-- The cells that lack the 64-bit form. -/
def opsNot2 : List Byte :=
  [0x0F#8, 0x24#8, 0x35#8, 0x3B#8, 0x80#8, 0x81#8, 0x83#8, 0x85#8, 0x86#8, 0x87#8, 0x90#8, 0x91#8, 0xE5#8, 0xE7#8, 0xE9#8,
   0xEA#8, 0xF1#8, 0xF2#8, 0xF3#8]

def lenAllowed (op : Byte) (n : Nat) : Bool :=
  match n with
  | 1 => ops1.contains op
  | 2 => !opsNot2.contains op
  | 3 => ops3.contains op
  | _ => false

/-- The clause-ending opcodes (R50): the OP byte alone is asked (DESIGN CHOICE, log 52). -/
def endsClause (op : Byte) : Bool :=
  [0x80#8, 0x81#8, 0x82#8, 0x83#8, 0x84#8, 0x85#8, 0x86#8, 0x87#8, 0x92#8, 0xD4#8, 0xD8#8, 0xE3#8, 0xE5#8, 0xE6#8, 0xE7#8,
   0xEA#8, 0xF0#8, 0xF1#8, 0xF2#8, 0xF3#8].contains op

def decRow (r : Raw) : Dec :=
  match r.op.extractLsb' 4 4 with
  | 0x0#4 => decRow0 r
  | 0x1#4 => decRow1 r
  | 0x2#4 => decRow2 r
  | 0x3#4 => decRow3 r
  | 0x4#4 => decRow4 r
  | 0x5#4 => decRow5 r
  | 0x6#4 => decRow6 r
  | 0x7#4 => decRow7 r
  | 0x8#4 => decRow8 r
  | 0x9#4 => decRow9 r
  | 0xA#4 => decRowA r
  | 0xB#4 => decRowB r
  | 0xC#4 => decRowC r
  | 0xD#4 => decRowD r
  | 0xE#4 => decRowE r
  | _ => decRowF r

/-- The instruction that the fields are, or the cause of R55, the first in R58's order. `mmas` tells whether the part has
MMAS (R2). -/
def decodeRaw (mmas : Bool) (r : Raw) : Dec :=
  if !opAssigned r.op then .error 0x0001#16
  else if !lenAllowed r.op r.len then .error 0x0003#16
  else if r.op = 0xC1#8 ∧ !mmas then .error 0x0006#16
  else decRow r

/-- The instruction that starts with three parcels read from its address: the decoding of R55, or the structural fault
that a header (0x0103) or a selvage mismatch (0x0105) is (R56). -/
def decode (mmas : Bool) (p0 p1 p2 : Word) : Dec :=
  if parcelLen p0 = 0 then .error 0x0103#16
  else match rawOf p0 p1 p2 with
    | none => .error 0x0105#16
    | some r => decodeRaw mmas r

/-! The encoder, from the same tables. -/

/-- The empty 64-bit or 96-bit form. -/
def form (len : Nat) (op : Byte) (g : Guard) (fn7 : BitVec 7) : Raw :=
  { len := len, op := op, d := 0#8, a := 0#8, fn := 0#4, au := false, bu := false, ai := false, sfa := false, sfb := false,
    r31 := false, b := 0#8, gp := g.p, gn := g.neg, c := 0#8, fn7 := fn7, lit := 0#32 }

/-- The empty 32-bit form. -/
def form1 (op : Byte) (fn : BitVec 4) : Raw :=
  { len := 1, op := op, d := 0#8, a := 0#8, fn := fn, au := false, bu := false, ai := false, sfa := false, sfb := false,
    r31 := false, b := 0#8, gp := 63#6, gn := false, c := 0#8, fn7 := 0#7, lit := 0#32 }

/-- A 6-bit name as a field. -/
def x6 (n : BitVec 6) : Byte := n.setWidth 8

def Raw.putA (r : Raw) (x : Src) : Raw :=
  match x with
  | .v n => { r with a := n }
  | .k n => { r with a := x6 n, au := true }
def Raw.putB (r : Raw) (x : Src) : Raw :=
  match x with
  | .v n => { r with b := n }
  | .k n => { r with b := x6 n, bu := true }
def Raw.putASrc (r : Raw) (x : ASrc) : Raw :=
  match x with
  | .v n => { r with a := n }
  | .k n => { r with a := x6 n, au := true }
  | .ind k off => { r with a := off, c := x6 k, ai := true }
def Raw.putLSrc (r : Raw) (x : LSrc) : Raw :=
  match x with
  | .v n => { r with a := n }
  | .ind k off => { r with a := off, c := x6 k, ai := true }
def Raw.putD (r : Raw) (d : Byte) : Raw := { r with d := d }
def Raw.putD6 (r : Raw) (d : BitVec 6) : Raw := { r with d := x6 d }
def Raw.putA6 (r : Raw) (x : BitVec 6) : Raw := { r with a := x6 x }
def Raw.putB6 (r : Raw) (x : BitVec 6) : Raw := { r with b := x6 x }
def Raw.putC (r : Raw) (x : Byte) : Raw := { r with c := x }
def Raw.putC6 (r : Raw) (x : BitVec 6) : Raw := { r with c := x6 x }
def Raw.putLit (r : Raw) (x : Word) : Raw := { r with lit := x }
def Raw.putSF (r : Raw) (f : SFlags) : Raw := { r with sfa := f.fa, sfb := f.fb }

def encL1 (op : Byte) (fn7 : BitVec 7) (o : L1) : Raw := ((form 2 op o.g fn7).putD o.d).putASrc o.a
def encL2 (op : Byte) (fn7 : BitVec 7) (o : L2) : Raw := (((form 2 op o.g fn7).putD o.d).putASrc o.a).putB o.b
def encL2L (op : Byte) (fn7 : BitVec 7) (o : L2L) : Raw := (((form 3 op o.g fn7).putD o.d).putASrc o.a).putLit o.lit
def encL3 (op : Byte) (fn7 : BitVec 7) (o : L3) : Raw := ((((form 2 op o.g fn7).putD o.d).putA o.a).putB o.b).putC o.c
def encL3L (op : Byte) (fn7 : BitVec 7) (o : L3L) : Raw :=
  ((((form 3 op o.g fn7).putD o.d).putA o.a).putLit o.lit).putC o.c
def encP2 (op : Byte) (fn7 : BitVec 7) (o : P2) : Raw := (((form 2 op o.g fn7).putD6 o.d).putA6 o.a).putB6 o.b
def encK2 (op : Byte) (fn7 : BitVec 7) (o : K2) : Raw := (((form 2 op o.g fn7).putD6 o.d).putA6 o.a).putB6 o.b
def encK2L (op : Byte) (fn7 : BitVec 7) (o : K2L) : Raw := (((form 3 op o.g fn7).putD6 o.d).putA6 o.a).putLit o.lit
def encSetP (op : Byte) (fn7 : BitVec 7) (o : SetP) : Raw :=
  ((((form 2 op o.g fn7).putD6 o.d).putA o.a).putB o.b).putC6 o.c
def encSetPL (op : Byte) (fn7 : BitVec 7) (o : SetPL) : Raw :=
  ((((form 3 op o.g fn7).putD6 o.d).putA o.a).putLit o.lit).putC6 o.c
def encShift (op : Byte) (o : Shift) : Raw :=
  match o with
  | .src o => encL2 op 0#7 o
  | .imm g d a n => (((form 2 op g 1#7).putD d).putA a).putC6 n

/-! Modifier bits. -/

def f1 (i : Nat) (b : Bool) : BitVec 7 := if b then BitVec.twoPow 7 i else 0#7
def ccBits : Cc → BitVec 7
  | .eq => 0#7
  | .ne => 1#7
  | .lt => 2#7
  | .le => 3#7
  | .gt => 4#7
  | .ge => 5#7
def fccBits : FCc → BitVec 7
  | .eq => 0#7
  | .ne => 1#7
  | .lt => 2#7
  | .le => 3#7
  | .gt => 4#7
  | .ge => 5#7
  | .num => 6#7
  | .nan => 7#7
def bopBits : Bop → BitVec 7
  | .and => 0x00#7
  | .or => 0x10#7
  | .xor => 0x20#7
def rmBits : Rm → BitVec 7
  | .rn => 0#7
  | .rz => 1#7
  | .ru => 2#7
  | .rd => 3#7
def fmodBits (m : FMod) : BitVec 7 := rmBits m.rm ||| f1 2 m.abs ||| f1 3 m.neg
def anegBits7 (m : ANeg) : BitVec 7 := f1 2 m.abs ||| f1 3 m.neg
def pkBits (m : PkMod) : BitVec 7 := rmBits m.rm ||| f1 2 m.bf16 ||| f1 3 m.neg ||| f1 4 m.x
def ffmtBits : FFmt → BitVec 7
  | .f32 => 0#7
  | .f16 => 1#7
  | .bf16 => 2#7
def cvtCode : CvtType → BitVec 4
  | .i8 => 0x0#4
  | .i16 => 0x1#4
  | .i32 => 0x2#4
  | .i64 => 0x3#4
  | .z8 => 0x4#4
  | .z16 => 0x5#4
  | .z32 => 0x6#4
  | .z64 => 0x7#4
  | .f16 => 0x8#4
  | .bf16 => 0x9#4
  | .f32 => 0xA#4
def segBits : Seg → BitVec 7
  | .s1 => 0x00#7
  | .s2 => 0x04#7
  | .s4 => 0x08#7
  | .s8 => 0x0C#7
  | .s16 => 0x10#7
  | .s32 => 0x14#7
def lgBits : LgMode → BitVec 7
  | .at_ => 0#7
  | .below => 1#7
  | .above => 2#7
  | .mirror => 3#7
def redBits : RedOp → BitVec 7
  | .add => 0#7
  | .min => 1#7
  | .max => 2#7
  | .and => 3#7
  | .or => 4#7
  | .xor => 5#7
def sizeBits : Size → BitVec 7
  | .b8 => 0#7
  | .b16 => 1#7
  | .b32 => 2#7
  | .b64 => 3#7
  | .b128 => 4#7
  | .i8 => 5#7
  | .i16 => 6#7
  | .i32 => 7#7
def spaceBits : Space → BitVec 7
  | .global => 0x00#7
  | .polder => 0x08#7
  | .cs => 0x10#7
  | .priv => 0x18#7
def policyBits : Policy → BitVec 7
  | .none => 0x00#7
  | .nl1 => 0x20#7
  | .stream => 0x40#7
  | .pcache => 0x60#7
def memBits (m : MemMod) : BitVec 7 := sizeBits m.size ||| spaceBits m.space ||| policyBits m.policy
def scopeCode : Scope → Nat
  | .group => 0
  | .team => 1
  | .cluster => 2
  | .die => 3
  | .device => 4
  | .system => 5
def gspaceCode : GSpace → Nat
  | .global => 0
  | .polder => 1
def aspaceCode : ASpace → Nat
  | .global => 0
  | .polder => 1
  | .cs => 2
def fenceBits : FenceKind → BitVec 7
  | .acq => 0#7
  | .rel => 1#7
  | .full => 2#7
def orderCode : AOrder → Nat
  | .relaxed => 0
  | .acq => 1
  | .rel => 2
  | .ar => 3
def aopBits : AOp → BitVec 7
  | .add => 0x00#7
  | .sub => 0x01#7
  | .and => 0x02#7
  | .or => 0x03#7
  | .xor => 0x04#7
  | .min => 0x05#7
  | .minz => 0x15#7
  | .max => 0x06#7
  | .maxz => 0x16#7
  | .exch => 0x07#7
  | .incw => 0x08#7
  | .decw => 0x09#7
def gradeBits : Grade → BitVec 7
  | .off => 0#7
  | .mark => 1#7
  | .step => 2#7
def queryBits : Query → BitVec 7
  | .used => 0#7
  | .room => 1#7
  | .floor => 2#7
  | .mark => 3#7
  | .stash => 4#7
def bindCode : Bind → Nat
  | .team => 0
  | .cluster => 1
  | .grid => 2
def kmoviBits : KmoviMode → BitVec 7
  | .sx => 0#7
  | .hi => 1#7
  | .zx => 2#7
/-- A number placed at bit i of FN7, and of C. -/
def at7 (i n : Nat) : BitVec 7 := BitVec.ofNat 7 (n * 2 ^ i)
def at8 (i n : Nat) : BitVec 8 := BitVec.ofNat 8 (n * 2 ^ i)

/-- C of an atomic (R193). -/
def amodC (m : AMod) : Byte :=
  at8 0 (scopeCode m.scope) ||| at8 3 (orderCode m.order) ||| (if m.w64 then 0x20#8 else 0#8)
def amodSpace (m : AMod) : BitVec 7 := at7 5 (aspaceCode m.space)

def Raw.putAddr (r : Raw) (x : Addr) : Raw := ((r.putA x.base).putB x.idx).putC x.disp
def Raw.putAddrL (r : Raw) (x : AddrL) : Raw := ((r.putA x.base).putB x.idx).putLit x.lit
def Raw.putOptC (r : Raw) (x : Option (BitVec 6)) : Raw :=
  match x with
  | some n => r.putC6 n
  | none => r

def encCvt8 (o : Cvt8Op) : Raw :=
  match o with
  | .to rm hd g d a b s =>
    (((form 2 0x62#8 g (rmBits rm <<< 1 ||| f1 4 hd)).putD d).putA a |>.putB b).putC (s.setWidth 8)
  | .from_ hs g d a s => (((form 2 0x62#8 g (1#7 ||| f1 3 hs)).putD d).putA a).putC (s.setWidth 8)
def encXSrc : XSrc → BitVec 7
  | .int4 => 0#7
  | .e3m2 => 1#7
  | .e2m3 => 2#7
def encMxSrc : MxSrc → BitVec 7
  | .f32 => 0#7
  | .bf16 => 1#7
  | .bf16hs => 3#7
def encCpy (len : Nat) (op : Byte) (m : CpyMod) : Raw :=
  (((form len op m.g (at7 0 (aspaceCode m.ss) ||| at7 2 (aspaceCode m.ds) ||| at7 4 (scopeCode m.scope))).putA6 m.a).putC6
    m.ke).putSF m.fl

/-- The fields of an instruction; `none` for the engines' steps, which have no encoding. -/
def enc (i : Instr) : Option Raw :=
  match i with
  | .iadd z sat o => some (encL2 0x00#8 (f1 0 z ||| f1 1 sat) o)
  | .iaddL96 z sat o => some (encL2L 0x00#8 (f1 0 z ||| f1 1 sat) o)
  | .isub z sat o => some (encL2 0x01#8 (f1 0 z ||| f1 1 sat) o)
  | .isubL96 z sat o => some (encL2L 0x01#8 (f1 0 z ||| f1 1 sat) o)
  | .ineg sat o => some (encL1 0x02#8 (f1 1 sat) o)
  | .iadd3 o => some (encL3 0x03#8 0#7 o)
  | .iadd64 z sat o => some (encL2 0x04#8 (f1 0 z ||| f1 1 sat) o)
  | .isub64 z sat o => some (encL2 0x05#8 (f1 0 z ||| f1 1 sat) o)
  | .imul o => some (encL2 0x06#8 0#7 o)
  | .imulL96 o => some (encL2L 0x06#8 0#7 o)
  | .imulhi z o => some (encL2 0x07#8 (f1 0 z) o)
  | .imad o => some (encL3 0x08#8 0#7 o)
  | .imadL96 o => some (encL3L 0x08#8 0#7 o)
  | .imadhi z o => some (encL3 0x09#8 (f1 0 z) o)
  | .imin z o => some (encL2 0x0A#8 (f1 0 z) o)
  | .iminL96 z o => some (encL2L 0x0A#8 (f1 0 z) o)
  | .imax z o => some (encL2 0x0B#8 (f1 0 z) o)
  | .imaxL96 z o => some (encL2L 0x0B#8 (f1 0 z) o)
  | .iabs sat o => some (encL1 0x0C#8 (f1 1 sat) o)
  | .idiv z o => some (encL2 0x0D#8 (f1 0 z) o)
  | .irem z o => some (encL2 0x0E#8 (f1 0 z) o)
  | .addS d a => some { form1 0x0F#8 0#4 with d := d, a := a }
  | .subS d a => some { form1 0x0F#8 1#4 with d := d, a := a }
  | .xorS d a => some { form1 0x0F#8 2#4 with d := d, a := a }
  | .rotlS d a => some { form1 0x0F#8 3#4 with d := d, a := a }
  | .negS d => some { form1 0x0F#8 4#4 with d := d }
  | .shl o => some (encShift 0x10#8 o)
  | .shr o => some (encShift 0x11#8 o)
  | .sar o => some (encShift 0x12#8 o)
  | .rotl o => some (encShift 0x13#8 o)
  | .rotr o => some (encShift 0x14#8 o)
  | .shf r g d hi lo amt => some (match amt with
      | .v n => ((((form 2 0x15#8 g (f1 1 r)).putD d).putA hi).putB lo).putC n
      | .imm n => ((((form 2 0x15#8 g (1#7 ||| f1 1 r)).putD d).putA hi).putB lo).putC6 n)
  | .popc o => some (encL1 0x16#8 0#7 o)
  | .clz o => some (encL1 0x17#8 0#7 o)
  | .brev o => some (encL1 0x18#8 0#7 o)
  | .bfe sx o => some (encL2 0x19#8 (f1 0 sx) o)
  | .bfi o => some (encL3 0x1A#8 0#7 o)
  | .and o => some (encL2 0x20#8 0#7 o)
  | .andL96 o => some (encL2L 0x20#8 0#7 o)
  | .or o => some (encL2 0x21#8 0#7 o)
  | .orL96 o => some (encL2L 0x21#8 0#7 o)
  | .xor o => some (encL2 0x22#8 0#7 o)
  | .xorL96 o => some (encL2L 0x22#8 0#7 o)
  | .not d a => some { form1 0x23#8 0#4 with d := d, a := a }
  | .notW64 o => some (encL1 0x23#8 0#7 o)
  | .tril g d a b c table => some
      (((((form 3 0x24#8 g 0#7).putD d).putA a).putB b).putC c |>.putLit (table.setWidth 32))
  | .pand na nb o => some (encP2 0x25#8 (f1 0 na ||| f1 1 nb) o)
  | .por na nb o => some (encP2 0x26#8 (f1 0 na ||| f1 1 nb) o)
  | .pxor na nb o => some (encP2 0x27#8 (f1 0 na ||| f1 1 nb) o)
  | .pnot g d a => some (((form 2 0x28#8 g 0#7).putD6 d).putA6 a)
  | .ptov g d a n => some ((((form 2 0x29#8 g 0#7).putD d).putA6 a).putC n)
  | .vtop g d a n => some ((((form 2 0x2A#8 g 0#7).putD6 d).putA a).putC n)
  | .isetp cc z bop o => some (encSetP 0x30#8 (ccBits cc ||| f1 3 z ||| bopBits bop) o)
  | .isetpL96 cc z bop o => some (encSetPL 0x30#8 (ccBits cc ||| f1 3 z ||| bopBits bop) o)
  | .fsetp cc u bop o => some (encSetP 0x31#8 (fccBits cc ||| f1 3 u ||| bopBits bop) o)
  | .fsetpL96 cc u bop o => some (encSetPL 0x31#8 (fccBits cc ||| f1 3 u ||| bopBits bop) o)
  | .ksetp cc z bop g d a b c => some
      (((((form 2 0x32#8 g (ccBits cc ||| f1 3 z ||| bopBits bop)).putD6 d).putA6 a).putB6 b).putC6 c)
  | .ksetpL96 cc z bop g d a lit c => some
      (((((form 3 0x32#8 g (ccBits cc ||| f1 3 z ||| bopBits bop)).putD6 d).putA6 a).putLit lit).putC6 c)
  | .sel nc g d a b c => some (((((form 2 0x33#8 g (f1 0 nc)).putD d).putA a).putB b).putC6 c)
  | .mov d a => some { form1 0x34#8 0#4 with d := d, a := a }
  | .movW64 g d a => some (((form 2 0x34#8 g 0#7).putD d).putLSrc a)
  | .movi g d lit => some (((form 3 0x35#8 g 0#7).putD d).putLit lit)
  | .movk hi g d a => some (((form 2 0x36#8 g (f1 0 hi)).putD d).putA6 a)
  | .swap d a => some { form1 0x37#8 0#4 with d := d, a := a }
  | .swapW64 g d a => some (((form 2 0x37#8 g 0#7).putD d).putLSrc a)
  | .mfs g d sr => some (match d with
      | .lane d hi => ((form 2 0x38#8 g (f1 1 hi)).putD d).putC sr
      | .uni d => ((form 2 0x38#8 g 1#7).putD6 d).putC sr)
  | .mts g sr a => some (((form 2 0x39#8 g 0#7).putA6 a).putC sr)
  | .kmov g d a => some (((form 2 0x3A#8 g 0#7).putD6 d).putA6 a)
  | .kmovi g d m lit => some (((form 3 0x3B#8 g (kmoviBits m)).putD6 d).putLit lit)
  | .kadd o => some (encK2 0x3C#8 0#7 o)
  | .kaddL96 o => some (encK2L 0x3C#8 0#7 o)
  | .ksub o => some (encK2 0x3C#8 1#7 o)
  | .ksubL96 o => some (encK2L 0x3C#8 1#7 o)
  | .kmul o => some (encK2 0x3D#8 0#7 o)
  | .kmulL96 o => some (encK2L 0x3D#8 0#7 o)
  | .kshl g d a n => some (match n with
      | .k b => (((form 2 0x3E#8 g 0#7).putD6 d).putA6 a).putB6 b
      | .imm n => (((form 2 0x3E#8 g 4#7).putD6 d).putA6 a).putC6 n)
  | .kshr g d a n => some (match n with
      | .k b => (((form 2 0x3E#8 g 1#7).putD6 d).putA6 a).putB6 b
      | .imm n => (((form 2 0x3E#8 g 5#7).putD6 d).putA6 a).putC6 n)
  | .kand o => some (encK2 0x3F#8 0#7 o)
  | .kandL96 o => some (encK2L 0x3F#8 0#7 o)
  | .kor o => some (encK2 0x3F#8 1#7 o)
  | .korL96 o => some (encK2L 0x3F#8 1#7 o)
  | .kxor o => some (encK2 0x3F#8 2#7 o)
  | .kxorL96 o => some (encK2L 0x3F#8 2#7 o)
  | .bra g off => some ((form 3 0x80#8 g 0#7).putLit off)
  | .bru g off => some ((form 3 0x81#8 g 0#7).putLit off)
  | .brx g t => some ((form 2 0x82#8 g 0#7).putA t)
  | .call g d off => some (((form 3 0x83#8 g 0#7).putD d).putLit off)
  | .calli g d t => some (((form 2 0x84#8 g 0#7).putD d).putA t)
  | .ret a => some { form1 0x85#8 0#4 with a := a }
  | .exit => some (form1 0x86#8 0#4)
  | .conv => some (form1 0x87#8 0#4)
  | .rdcf g d => some ((form 2 0x88#8 g 0#7).putD6 d)
  | .fadd m o => some (encL2 0x40#8 (fmodBits m) o)
  | .faddL96 m o => some (encL2L 0x40#8 (fmodBits m) o)
  | .fsub m o => some (encL2 0x41#8 (fmodBits m) o)
  | .fsubL96 m o => some (encL2L 0x41#8 (fmodBits m) o)
  | .fmul m o => some (encL2 0x42#8 (fmodBits m) o)
  | .fmulL96 m o => some (encL2L 0x42#8 (fmodBits m) o)
  | .ffma m o => some (encL3 0x43#8 (fmodBits m) o)
  | .ffmaL96 m o => some (encL3L 0x43#8 (fmodBits m) o)
  | .fmin m o => some (encL2 0x44#8 (anegBits7 m) o)
  | .fmax m o => some (encL2 0x45#8 (anegBits7 m) o)
  | .fclass fmt hs o => some (encL1 0x46#8 (ffmtBits fmt ||| f1 2 hs) o)
  | .frcp m o => some (encL1 0x47#8 (fmodBits m) o)
  | .frsq m o => some (encL1 0x48#8 (anegBits7 m) o)
  | .fsqrt m o => some (encL1 0x49#8 (fmodBits m) o)
  | .fexp2 m o => some (encL1 0x4A#8 (anegBits7 m) o)
  | .flog2 m o => some (encL1 0x4B#8 (anegBits7 m) o)
  | .fsin m o => some (encL1 0x4C#8 (anegBits7 m) o)
  | .fcos m o => some (encL1 0x4D#8 (anegBits7 m) o)
  | .pkadd m o => some (encL2 0x50#8 (pkBits m) o)
  | .pkaddL96 m o => some (encL2L 0x50#8 (pkBits m) o)
  | .pkmul m o => some (encL2 0x51#8 (pkBits m) o)
  | .pkmulL96 m o => some (encL2L 0x51#8 (pkBits m) o)
  | .pkfma m o => some (encL3 0x52#8 (pkBits m) o)
  | .pkfmaL96 m o => some (encL3L 0x52#8 (pkBits m) o)
  | .pkmin bf neg x o => some (encL2 0x53#8 (f1 2 bf ||| f1 3 neg ||| f1 4 x) o)
  | .pkmax bf neg x o => some (encL2 0x54#8 (f1 2 bf ||| f1 3 neg ||| f1 4 x) o)
  | .cvt m dst src g d a => some
      ((((form 2 0x60#8 g (rmBits m.rm ||| f1 2 m.sat ||| f1 3 m.hs ||| f1 4 m.hd ||| f1 5 m.int_)).putD d).putA a).putC
        (cvtCode dst ++ cvtCode src))
  | .cvts bf sat hd o => some (encL2 0x61#8 (f1 0 bf ||| f1 2 sat ||| f1 4 hd) o)
  | .cvt8 o => some (encCvt8 o)
  | .cvtx code e5 hs o => some (encL1 0x63#8 (encXSrc code ||| f1 3 e5 ||| f1 4 hs) o)
  | .cvtmx src g d ks a n => some
      ({ (((form 2 0x64#8 g (encMxSrc src)).putD d).putB6 ks).putC (n.setWidth 8) with a := a })
  | .pack m o => some (encL2 0x65#8 (match m with | .lo => 0#7 | .hi => 1#7 | .lh => 2#7) o)
  | .unpack b16 z g d a n => some ((((form 2 0x66#8 g (f1 0 b16 ||| f1 1 z)).putD d).putA a).putC (n.setWidth 8))
  | .lget m seg g d a b pc => some (
      let fn := lgBits m ||| segBits seg ||| f1 5 pc.isSome
      match b with
      | .src b => ({ (form 2 0x70#8 g fn) with d := d, a := a }.putB b).putOptC pc
      | .imm n => { (form 2 0x70#8 g (fn ||| 0x40#7)) with d := d, a := a, b := n.setWidth 8 }.putOptC pc)
  | .perm b8 g d a b pc => some
      (({ (form 2 0x71#8 g (f1 0 b8 ||| f1 5 pc.isSome)) with d := d, a := a }.putB b).putOptC pc)
  | .vote dst na g a => some (match dst with
      | .all d => ((form 2 0x72#8 g (f1 3 na)).putD6 d).putA6 a
      | .any d => ((form 2 0x72#8 g (1#7 ||| f1 3 na)).putD6 d).putA6 a
      | .ballot d => ((form 2 0x72#8 g (2#7 ||| f1 3 na)).putD d).putA6 a
      | .ballotK d => ((form 2 0x72#8 g (6#7 ||| f1 3 na)).putD6 d).putA6 a)
  | .redux op z g d a => some (((form 2 0x73#8 g (redBits op ||| f1 3 z)).putD6 d).putLSrc a)
  | .scan exc g d a kc => some (match kc with
      | some k => (((form 2 0x74#8 g (f1 0 exc ||| 2#7)).putD d).putLSrc a).putC6 k
      | none => ((form 2 0x74#8 g (f1 0 exc)).putD d).putLSrc a)
  | .match_ w64 g d a pc => some
      ({ (form 2 0x75#8 g (f1 0 w64 ||| f1 5 pc.isSome)) with d := d, a := a }.putOptC pc)
  | .isect g d kc a b => some { (form 2 0x76#8 g 0#7) with d := d, a := a, b := b, c := x6 kc }
  | .ld m g d ad => some (((form 2 0xA0#8 g (memBits m)).putD d).putAddr ad)
  | .ldL96 m g d ad => some (((form 3 0xA0#8 g (memBits m)).putD d).putAddrL ad)
  | .st m fl g d ad => some ((((form 2 0xA1#8 g (memBits m)).putD d).putAddr ad).putSF fl)
  | .stL96 m fl g d ad => some ((((form 3 0xA1#8 g (memBits m)).putD d).putAddrL ad).putSF fl)
  | .kld m g d a b disp => some (((((form 2 0xA7#8 g (memBits m)).putD6 d).putA6 a).putB6 b).putC disp)
  | .kldL96 m g d a b lit => some (((((form 3 0xA7#8 g (memBits m)).putD6 d).putA6 a).putB6 b).putLit lit)
  | .ldx m g d ad => some (((form 2 0xA2#8 g (memBits m)).putD d).putAddr ad)
  | .stx m fl g d ad => some ((((form 2 0xA3#8 g (memBits m)).putD d).putAddr ad).putSF fl)
  | .xchg m g d ad => some (((form 2 0xA4#8 g (memBits m)).putD d).putAddr ad)
  | .pref pc sp fl g ad => some (((form 2 0xA5#8 g (at7 3 (gspaceCode sp) ||| f1 5 pc)).putAddr ad).putSF fl)
  | .fence kind sc g => some (form 2 0xA6#8 g (fenceBits kind ||| at7 2 (scopeCode sc)))
  | .atom op m g d a b => some (((((form 2 0xB0#8 g (aopBits op ||| amodSpace m)).putD d).putA a).putB b).putC (amodC m))
  | .atomcas m g d a b => some (((((form 2 0xB1#8 g (amodSpace m)).putD d).putA a).putB b).putC (amodC m))
  | .red op m fl g a b => some
      (((((form 2 0xB2#8 g (aopBits op ||| amodSpace m)).putA a).putB b).putC (amodC m)).putSF fl)
  | .redL96 op m fl g a lit => some
      (((((form 3 0xB2#8 g (aopBits op ||| amodSpace m)).putA a).putLit lit).putC (amodC m)).putSF fl)
  | .enq sp sc g pc a d => some
      ((((form 2 0xB3#8 g (at7 0 (scopeCode sc) ||| at7 3 (gspaceCode sp))).putD d).putA6 a).putC6 pc)
  | .deq sp sc g pc a d => some
      ((((form 2 0xB4#8 g (at7 0 (scopeCode sc) ||| at7 3 (gspaceCode sp))).putD d).putA6 a).putC6 pc)
  | .commit => some (form1 0x90#8 0#4)
  | .mark => some (form1 0x91#8 0#4)
  | .reverse g d a b => some ((((form 2 0x92#8 g 0#7).putD6 d).putA6 a).putB6 b)
  | .grade g gr => some (form 2 0x93#8 g (gradeBits gr))
  | .hstash g a => some ((form 2 0x94#8 g 0#7).putA6 a)
  | .hquery q g d a => some (((form 2 0x95#8 g (queryBits q)).putD6 d).putA6 a)
  | .mma small st g d a b fa fb => some
      ({ ((form 2 0xC0#8 g (match small with
          | some q => 1#7 ||| f1 1 st ||| (q.setWidth 7 <<< 2)
          | none => f1 1 st)).putD6 d) with a := a, b := b, c := (fb.setWidth 8 <<< 3) ||| fa.setWidth 8 })
  | .mmas st g d a b fa fb => some
      ({ ((form 2 0xC1#8 g (f1 1 st)).putD6 d) with a := a, b := b, c := (fb.setWidth 8 <<< 3) ||| fa.setWidth 8 })
  | .mmax st g d a b fa fb => some
      ({ ((form 2 0xC2#8 g (f1 1 st)).putD6 d) with a := a, b := b, c := (fb.setWidth 8 <<< 3) ||| fa.setWidth 8 })
  | .accz g d n => some (((form 2 0xC3#8 g 0#7).putD6 d).putC (n.setWidth 8))
  | .accld sp g d a b slot => some
      (((((form 2 0xC4#8 g (at7 3 (aspaceCode sp))).putD6 d).putA6 a).putB6 b).putC (slot.setWidth 8))
  | .accst rm sp fl g d a b slot => some
      ((((((form 2 0xC5#8 g (rmBits rm ||| at7 3 (aspaceCode sp))).putD6 d).putA6 a).putB6 b).putC (slot.setWidth 8)).putSF fl)
  | .accmov g m => some (match m with
      | .cc d a => ((form 2 0xC6#8 g 0#7).putD6 d).putA6 a
      | .rd q d a => ((form 2 0xC6#8 g (1#7 ||| (q.setWidth 7 <<< 2))).putD d).putA6 a
      | .wr q d a => { (form 2 0xC6#8 g (2#7 ||| (q.setWidth 7 <<< 2))).putD6 d with a := a })
  | .satrd g d => some ((form 2 0xC7#8 g 0#7).putD6 d)
  | .satclr g m => some (match m with
      | .k a => (form 2 0xC8#8 g 0#7).putA6 a
      | .imm m => (form 2 0xC8#8 g 1#7).putC m)
  | .cpy m => some (encCpy 2 0xD0#8 m)
  | .cpyL96 m len => some ((encCpy 3 0xD0#8 m).putLit len)
  | .cpym m km => some ((encCpy 2 0xD1#8 m).putB6 km)
  | .cpyg m km => some ((encCpy 2 0xD2#8 m).putB6 km)
  | .seal g a b => some (((form 2 0xD3#8 g 0#7).putA6 a).putB6 b)
  | .unseal g a => some ((form 2 0xD4#8 g 0#7).putA6 a)
  | .drop g a => some ((form 2 0xD5#8 g 0#7).putA6 a)
  | .tileget m g d a b c => some
      (((((form 2 0xD6#8 g (match m with | .open_ => 0#7 | .held => 1#7 | .neg => 2#7 | .req => 3#7)).putD6 d).putA6 a).putB6
        b).putC6 c)
  | .tileput g a => some ((form 2 0xD7#8 g 0#7).putA6 a)
  | .surrender o g => some (match o with
      | .finish => form 2 0xD8#8 g 0#7
      | .summary a b => ((form 2 0xD8#8 g 1#7).putA6 a).putB6 b
      | .refuse => form 2 0xD8#8 g 2#7)
  | .spawn bind g d a b n => some
      ({ ((form 2 0xE0#8 g (at7 0 (bindCode bind))).putD6 d).putA6 a with b := b, c := n.setWidth 8 })
  | .spawnL96 bind g d off b n => some
      ({ ((form 3 0xE0#8 g (at7 0 (bindCode bind))).putD6 d).putLit off with b := b, c := n.setWidth 8 })
  | .evnew g d => some ((form 2 0xE1#8 g 0#7).putD6 d)
  | .evfree g d a => some (((form 2 0xE1#8 g 1#7).putD6 d).putA6 a)
  | .evsig sc g a => some ((form 2 0xE2#8 g (at7 0 (scopeCode sc))).putA6 a)
  | .evwait cnt bind g a b n => some
      ({ (form 2 0xE3#8 g (f1 0 cnt ||| at7 1 (bindCode bind))).putA6 a with b := b, c := n.setWidth 8 })
  | .cntdec sp g d a => some (((form 2 0xE4#8 g (at7 3 (gspaceCode sp))).putD6 d).putA a)
  | .bar => some (form1 0xE5#8 0#4)
  | .grow g d n => some (((form 2 0xE6#8 g 0#7).putD6 d).putC (n.setWidth 8))
  | .yield_ => some (form1 0xE7#8 0#4)
  | .gridl g d a b => some ((((form 2 0xE8#8 g 0#7).putD6 d).putA6 a).putB6 b)
  | .hintnext => some (form1 0xE9#8 0#4)
  | .waitpred => some (form1 0xEA#8 0#4)
  | .send fl g d a b c => some
      (((((form 2 0xEB#8 g 0#7).putD d).putA6 a).putB6 b).putC6 c |>.putSF fl)
  | .cbopen s g d => some ((form 2 0xEC#8 g (s.setWidth 7)).putD6 d)
  | .cbpush s n g d a b => some
      ({ (form 2 0xED#8 g (s.setWidth 7 ||| (n.setWidth 7 <<< 3))).putD6 d with a := a, b := b })
  | .cbpull s g d b c => some ((((form 2 0xEE#8 g (s.setWidth 7)).putD d).putB6 b).putC6 c)
  | .cbdone s g d a => some (((form 2 0xEF#8 g (s.setWidth 7 <<< 2)).putD6 d).putA6 a)
  | .cbflush s close g d => some ((form 2 0xEF#8 g (1#7 ||| (s.setWidth 7 <<< 2) ||| f1 5 close)).putD6 d)
  | .trap g d a code => some ((((form 2 0xF0#8 g 0#7).putD6 d).putA6 a).putC code)
  | .eret => some (form1 0xF1#8 0#4)
  | .eretSkip => some (form1 0xF1#8 1#4)
  | .emuret => some (form1 0xF2#8 0#4)
  | .emuretRetry => some (form1 0xF2#8 1#4)
  | .bkpt tag => some { form1 0xF3#8 0#4 with a := tag }
  | .nop => some (form1 0xF4#8 0#4)
  | .nopW g => some (form 2 0xF4#8 g 0#7)
  | .nopL g lit => some ((form 3 0xF4#8 g 0#7).putLit lit)
  | .mfg g d a b => some ((((form 2 0xF5#8 g 0#7).putD6 d).putA6 a).putB6 b)
  | .mtg g d a b => some ((((form 2 0xF6#8 g 0#7).putD6 d).putA6 a).putB6 b)
  | .revg g d a b c => some (((((form 2 0xF7#8 g 0#7).putD6 d).putA6 a).putB6 b).putC6 c)
  | .launch g d a b c => some (((((form 2 0xF8#8 g 0#7).putD6 d).putA6 a).putB6 b).putC6 c)
  | .emulationEntry _ _ _ _ => none
  | .clauseStart _ => none
  | .convComplete _ => none
  | .barComplete _ => none
  | .growGrant _ _ => none
  | .growFail _ => none
  | .loadReturn _ => none
  | .storePerformed _ => none
  | .atomicReturn _ => none
  | .atomicMovedReissue _ => none
  | .prefetchComplete _ => none
  | .wcbDrainTimer _ _ => none
  | .l1MissFill _ _ _ => none
  | .invalidation _ _ => none
  | .pageServiceDone _ _ _ => none
  | .rangeLockReplay _ _ => none
  | .sweepComplete _ => none
  | .matrixResult _ => none
  | .copyComplete _ => none
  | .copyResume _ => none
  | .copyAbort _ _ _ => none
  | .surrenderEntry _ => none
  | .surrenderOverrun _ => none
  | .historyRefill _ _ => none
  | .reverseWalkStep _ => none
  | .rollback _ _ => none
  | .faultReplay _ _ => none
  | .faultContinue _ _ _ => none
  | .removeGrid _ _ => none
  | .removeContext _ => none
  | .handlerTableReplace _ _ _ _ => none
  | .teamResident _ _ _ => none
  | .clusterStart _ _ _ => none
  | .binTimerExpiry _ _ => none
  | .binLaunch _ _ => none
  | .poolExtend _ _ => none
  | .teamEnd _ => none
  | .gridEnd _ => none
  | .doorbell _ _ _ => none
  | .preemptRequest _ => none
  | .preemptAck _ _ => none
  | .contextRestore _ _ => none
  | .thohelFrameRx _ => none
  | .peerHeldEnqueue _ => none
  | .thohelAck _ _ => none
  | .messageReturn _ _ => none
  | .linkRetrain _ => none
  | .cxlLinkFail _ _ _ => none
  | .attach _ _ => none
  | .detach _ _ => none
  | .halt _ _ _ => none
  | .groupHalt _ => none
  | .resume _ _ _ => none
  | .step _ _ _ => none
  | .rewind _ _ _ _ _ => none
  | .read _ _ _ _ => none
  | .write _ _ _ _ _ => none
  | .readmem _ _ _ _ _ _ => none
  | .writemem _ _ _ _ _ _ => none
  | .dump _ _ _ _ => none
  | .evtHead _ _ => none
  | .debugRevoke _ => none
  | .coreDump _ _ _ => none
  | .dumpWriteFault _ _ _ _ => none
  | .mctpDumpRead _ => none
  | .dumpflt => none
  | .registerWrite _ _ => none
  | .attestationRequest _ => none
  | .powerLimitSet _ => none
  | .fieldHourRollover => none
  | .coreRetire _ => none
  | .coreDisable _ => none
  | .thermalThrottle _ => none
  | .thermalCritical _ => none
  | .thermalNormal => none
  | .deviceReset _ => none
  | .spawnRateExpiry _ => none
  | .contextCreation _ => none
  | .pageMigration _ _ _ => none

/-- The parcels of an instruction; none for the engines' steps. -/
def encode (i : Instr) : List Word := ((enc i).map Raw.parcels).getD []

/-! The table's words. -/

/-- The parcel at index i of an instruction whose bits are w, bit 0 the least significant of the first parcel. -/
def tableParcel (w i : Nat) : Word := BitVec.ofNat 32 (w / 2 ^ (32 * i))

/-- The instruction that the decoder reads from the `nbits` low bits of w. -/
def decodeTableWord (nbits w : Nat) : Option Instr :=
  let x := w % 2 ^ nbits
  match decode true (tableParcel x 0) (tableParcel x 1) (tableParcel x 2) with
  | .ok i => some i
  | .error _ => none

end Sys2Proof
end

