-- ==== Sys2Proof/WellFormed.lean ====
section
/-! DEFINITION. WellFormed.lean: the instructions that have an encoding: pairs even (02 R46, 03 R69), field values assigned
and combinations allowed (R95 and the entries). An engine's step has no encoding and no check here. -/

namespace Sys2Proof

def Addr.wf (a : Addr) : Bool := pairSrc a.base
def AddrL.wf (a : AddrL) : Bool := pairSrc a.base

/-- What every memory access's modifiers and register must satisfy (R181, R190). -/
def memWf (m : MemMod) (d : VReg) : Bool := m.ok && sizeAligned m.size d

/-- A load names no .i32 size, a store none of the .i sizes (R188, R191). -/
def loadSize (s : Size) : Bool := s != .i32
def storeSize (s : Size) : Bool := s != .i8 && s != .i16 && s != .i32

/-- The modifiers of CVT are allowed with the types (R150), pair fields even. -/
def cvtWf (m : CvtMod) (dst src : CvtType) (d : VReg) (a : Src) : Bool :=
  (!m.hs || is16 (some src)) && (!m.hd || is16 (some dst)) && (!m.int_ || (isFloat (some src) && src == dst)) &&
    (!isWide dst || even8 d) && (!isWide src || pairSrc a)

/-- A tile field below 48 (R277). -/
def tileWf (t : TileReg) : Bool := decide (t.toNat < 48)

/-- The pair fields of an atomic (R193). -/
def atomWf (m : AMod) (a : Src) (b : Src) : Bool := pairSrc a && pairIf m.w64 b

def Cvt8Op.wf : Cvt8Op → Bool
  | .to .. => true
  | .from_ _ _ d _ _ => even8 d

def MfsDst.wf (sr : BitVec 8) : MfsDst → Bool
  | .lane .. => true
  | .uni d => sr != 0x22#8 && (sr != 0x01#8 || even6 d)

def AccMode.wf : AccMode → Bool
  | .cc d a => tileWf d && tileWf a
  | .rd _ _ a => tileWf a
  | .wr _ d _ => tileWf d

/-- SCAN with a total names its source directly (R168). -/
def scanWf (a : LSrc) (kc : Option KReg) : Bool :=
  match a with
  | .v _ => true
  | .ind .. => kc.isNone

def Instr.wf (i : Instr) : Bool :=
  match i with
  | .iadd .. => true
  | .iaddL96 .. => true
  | .isub .. => true
  | .isubL96 .. => true
  | .ineg .. => true
  | .iadd3 .. => true
  | .iadd64 _ _ o => o.pairs
  | .isub64 _ _ o => o.pairs
  | .imul .. => true
  | .imulL96 .. => true
  | .imulhi .. => true
  | .imad .. => true
  | .imadL96 .. => true
  | .imadhi .. => true
  | .imin .. => true
  | .iminL96 .. => true
  | .imax .. => true
  | .imaxL96 .. => true
  | .iabs .. => true
  | .idiv .. => true
  | .irem .. => true
  | .addS .. => true
  | .subS .. => true
  | .xorS .. => true
  | .rotlS .. => true
  | .negS .. => true
  | .shl .. => true
  | .shr .. => true
  | .sar .. => true
  | .rotl .. => true
  | .rotr .. => true
  | .shf .. => true
  | .popc .. => true
  | .clz .. => true
  | .brev .. => true
  | .bfe .. => true
  | .bfi .. => true
  | .and .. => true
  | .andL96 .. => true
  | .or .. => true
  | .orL96 .. => true
  | .xor .. => true
  | .xorL96 .. => true
  | .not .. => true
  | .notW64 .. => true
  | .tril .. => true
  | .pand .. => true
  | .por .. => true
  | .pxor .. => true
  | .pnot .. => true
  | .ptov _ _ a n => decide (1 ≤ n.toNat ∧ n.toNat ≤ 32 ∧ a.toNat + n.toNat ≤ 64)
  | .vtop _ d _ n => decide (1 ≤ n.toNat ∧ n.toNat ≤ 32 ∧ d.toNat + n.toNat ≤ 64)
  | .isetp .. => true
  | .isetpL96 .. => true
  | .fsetp cc u _ _ => fccOk cc u
  | .fsetpL96 cc u _ _ => fccOk cc u
  | .ksetp .. => true
  | .ksetpL96 .. => true
  | .sel .. => true
  | .mov .. => true
  | .movW64 .. => true
  | .movi .. => true
  | .movk .. => true
  | .swap .. => true
  | .swapW64 .. => true
  | .mfs _ d sr => srAssigned sr && d.wf sr
  | .mts _ sr a => srAssigned sr && (sr != 0x01#8 || even6 a)
  | .kmov .. => true
  | .kmovi .. => true
  | .kadd .. => true
  | .kaddL96 .. => true
  | .ksub .. => true
  | .ksubL96 .. => true
  | .kmul .. => true
  | .kmulL96 .. => true
  | .kshl .. => true
  | .kshr .. => true
  | .kand .. => true
  | .kandL96 .. => true
  | .kor .. => true
  | .korL96 .. => true
  | .kxor .. => true
  | .kxorL96 .. => true
  | .bra .. => true
  | .bru .. => true
  | .brx _ t => pairSrc t
  | .call _ d _ => even8 d
  | .calli _ d t => even8 d && pairSrc t
  | .ret a => even8 a
  | .exit => true
  | .conv => true
  | .rdcf _ d => even6 d
  | .fadd .. => true
  | .faddL96 .. => true
  | .fsub .. => true
  | .fsubL96 .. => true
  | .fmul .. => true
  | .fmulL96 .. => true
  | .ffma .. => true
  | .ffmaL96 .. => true
  | .fmin .. => true
  | .fmax .. => true
  | .fclass f hs _ => !(f == .f32 && hs)
  | .frcp .. => true
  | .frsq .. => true
  | .fsqrt .. => true
  | .fexp2 .. => true
  | .flog2 .. => true
  | .fsin .. => true
  | .fcos .. => true
  | .pkadd .. => true
  | .pkaddL96 .. => true
  | .pkmul .. => true
  | .pkmulL96 .. => true
  | .pkfma .. => true
  | .pkfmaL96 .. => true
  | .pkmin .. => true
  | .pkmax .. => true
  | .cvt m dst src _ d a => cvtWf m dst src d a
  | .cvts .. => true
  | .cvt8 o => o.wf
  | .cvtx code _ hs _ => !hs || code == .int4
  | .cvtmx .. => true
  | .pack .. => true
  | .unpack b16 _ _ _ _ n => !b16 || decide (n.toNat < 2)
  | .lget .. => true
  | .perm .. => true
  | .vote .. => true
  | .redux op z _ _ _ => !z || redSigned op
  | .scan _ _ _ a kc => scanWf a kc
  | .match_ w _ _ a _ => !w || even8 a
  | .isect .. => true
  | .ld m _ d ad => loadSize m.size && memWf m d && ad.wf
  | .ldL96 m _ d ad => loadSize m.size && memWf m d && ad.wf
  | .st m _ _ d ad => storeSize m.size && memWf m d && ad.wf
  | .stL96 m _ _ d ad => storeSize m.size && memWf m d && ad.wf
  | .kld m _ _ _ _ _ => m.size != .b128 && m.space != .priv && m.ok
  | .kldL96 m _ _ _ _ _ => m.size != .b128 && m.space != .priv && m.ok
  | .ldx m _ d ad => m.size != .b128 && memWf m d && ad.wf
  | .stx m _ _ d ad => m.size != .b128 && m.policy == .none && sizeAligned m.size d && ad.wf
  | .xchg m _ d ad => m.size != .b128 && m.policy == .none && sizeAligned m.size d && ad.wf
  | .pref pc sp _ _ ad => (pc || sp == .global) && ad.wf
  | .fence .. => true
  | .atom _ m _ d a b => atomWf m a b && (!m.w64 || even8 d)
  | .atomcas m _ d a b => atomWf m a b && (!m.w64 || even8 d)
  | .red op m _ _ a b => op != .exch && atomWf m a b
  | .redL96 op _ _ _ a _ => op != .exch && pairSrc a
  | .enq .. => true
  | .deq .. => true
  | .commit => true
  | .mark => true
  | .reverse .. => true
  | .grade .. => true
  | .hstash .. => true
  | .hquery q _ d a => even6 d && (q == .mark || a == 0#6)
  | .mma _ _ _ d _ _ _ _ => tileWf d
  | .mmas _ _ d _ _ _ _ => tileWf d
  | .mmax _ _ d _ _ _ _ => tileWf d
  | .accz _ d _ => tileWf d
  | .accld _ _ d _ _ _ => tileWf d
  | .accst _ _ _ _ d _ _ _ => tileWf d
  | .accmov _ m => m.wf
  | .satrd .. => true
  | .satclr .. => true
  | .cpy m => quad6 m.a
  | .cpyL96 m _ => even6 m.a
  | .cpym m _ => scopeWide m.scope && m.ss != .cs && m.ds == .cs && quad6 m.a
  | .cpyg m _ => m.ss == .cs && quad6 m.a
  | .seal .. => true
  | .unseal .. => true
  | .drop .. => true
  | .tileget m _ d a _ c => even6 d && (m == .neg || m == .req || a == 0#6) && (m == .req || c == 0#6)
  | .tileput .. => true
  | .surrender .. => true
  | .spawn _ _ _ _ _ n => decide (n.toNat ≤ 16)
  | .spawnL96 _ _ _ _ _ n => decide (n.toNat ≤ 16)
  | .evnew .. => true
  | .evfree .. => true
  | .evsig sc _ _ => sc != .group
  | .evwait _ _ _ _ _ n => decide (n.toNat ≤ 16)
  | .cntdec _ _ _ a => pairSrc a
  | .bar => true
  | .grow .. => true
  | .yield_ => true
  | .gridl .. => true
  | .hintnext => true
  | .waitpred => true
  | .send .. => true
  | .cbopen .. => true
  | .cbpush .. => true
  | .cbpull .. => true
  | .cbdone .. => true
  | .cbflush .. => true
  | .trap .. => true
  | .eret => true
  | .eretSkip => true
  | .emuret => true
  | .emuretRetry => true
  | .bkpt .. => true
  | .nop => true
  | .nopW .. => true
  | .nopL .. => true
  | .mfg _ d _ _ => even6 d
  | .mtg _ d _ _ => even6 d
  | .revg _ d _ _ _ => even6 d
  | .launch _ d _ _ _ => even6 d
  | .emulationEntry .. => true
  | .clauseStart .. => true
  | .convComplete .. => true
  | .barComplete .. => true
  | .growGrant .. => true
  | .growFail .. => true
  | .loadReturn .. => true
  | .storePerformed .. => true
  | .atomicReturn .. => true
  | .atomicMovedReissue .. => true
  | .prefetchComplete .. => true
  | .wcbDrainTimer .. => true
  | .l1MissFill .. => true
  | .invalidation .. => true
  | .pageServiceDone .. => true
  | .rangeLockReplay .. => true
  | .sweepComplete .. => true
  | .matrixResult .. => true
  | .copyComplete .. => true
  | .copyResume .. => true
  | .copyAbort .. => true
  | .surrenderEntry .. => true
  | .surrenderOverrun .. => true
  | .historyRefill .. => true
  | .reverseWalkStep .. => true
  | .rollback .. => true
  | .faultReplay .. => true
  | .faultContinue .. => true
  | .removeGrid .. => true
  | .removeContext .. => true
  | .handlerTableReplace .. => true
  | .teamResident .. => true
  | .clusterStart .. => true
  | .binTimerExpiry .. => true
  | .binLaunch .. => true
  | .poolExtend .. => true
  | .teamEnd .. => true
  | .gridEnd .. => true
  | .doorbell .. => true
  | .preemptRequest .. => true
  | .preemptAck .. => true
  | .contextRestore .. => true
  | .thohelFrameRx .. => true
  | .peerHeldEnqueue .. => true
  | .thohelAck .. => true
  | .messageReturn .. => true
  | .linkRetrain .. => true
  | .cxlLinkFail .. => true
  | .attach .. => true
  | .detach .. => true
  | .halt .. => true
  | .groupHalt .. => true
  | .resume .. => true
  | .step .. => true
  | .rewind .. => true
  | .read .. => true
  | .write .. => true
  | .readmem .. => true
  | .writemem .. => true
  | .dump .. => true
  | .evtHead .. => true
  | .debugRevoke .. => true
  | .coreDump .. => true
  | .dumpWriteFault .. => true
  | .mctpDumpRead .. => true
  | .dumpflt => true
  | .registerWrite .. => true
  | .attestationRequest .. => true
  | .powerLimitSet .. => true
  | .fieldHourRollover => true
  | .coreRetire .. => true
  | .coreDisable .. => true
  | .thermalThrottle .. => true
  | .thermalCritical .. => true
  | .thermalNormal => true
  | .deviceReset .. => true
  | .spawnRateExpiry .. => true
  | .contextCreation .. => true
  | .pageMigration .. => true

end Sys2Proof
end

