-- ==== Sys2Proof/Machine/Fetch.lean ====
section
/-! DEFINITION. Machine/Fetch.lean: clause headers and the checks of a clause (02_encoding R36 to R42, R56, R57, R60), the
instruction at an address (R55), the previous instruction (R48). -/

namespace Sys2Proof.Machine

/-- A clause header's fields (R39 to R41). -/
structure Header where
  count : Nat
  yld   : Bool
  ver   : Nat
  fa    : Nat
  fb    : Nat
  wait  : BitVec 12
  deriving DecidableEq, Repr

def headerOf (w : Word) : Header :=
  let ver := (w.extractLsb' 22 2).toNat
  if ver = 1 then
    let f (i : Nat) : Nat := if w.extractLsb' i 3 = 7#3 then 15 else (w.extractLsb' i 3).toNat
    { count := (w.extractLsb' 24 5).toNat, yld := w.getLsbD 29, ver := ver, fa := f 14, fb := f 18,
      wait := (w.extractLsb' 2 8).setWidth 12 }
  else
    { count := (w.extractLsb' 24 5).toNat, yld := w.getLsbD 29, ver := ver, fa := (w.extractLsb' 14 4).toNat,
      fb := (w.extractLsb' 18 4).toNat, wait := w.extractLsb' 2 12 }

/-- The flag that a header field names; 15 names none (R42). -/
def flagName (n : Nat) : Option Nat := if n < 12 then some n else none

/-- What stops a fetch, or a structural subcode, with the address of the parcel. -/
abbrev Found (α : Type) := Except (Cause × CAddr) α

def State.fetch (s : State) (ctx : Nat) (a : CAddr) : Found Word :=
  match s.fetchAt ctx a with
  | .ok p => .ok p
  | .error c => .error (c, a)

/-- The length code of a parcel as a number. -/
def lenCode (p : Word) : Nat := (p.extractLsb' 0 2).toNat
/-- The selvage bits of a parcel as a number (R37). -/
def selvage (p : Word) : Nat := (p.extractLsb' 30 2).toNat

/-- The opcodes of n instructions from a, and the address after them (R57 item 3). -/
def State.scan (s : State) (ctx : Nat) : Nat → CAddr → Found (List Byte × CAddr)
  | 0, a => .ok ([], a)
  | n + 1, a => do
    let p ← s.fetch ctx a
    if lenCode p = 3 then .error (0x0103#16, a)
    else do
      let q ← s.fetch ctx (a + BitVec.ofNat 57 (4 * lenCode p))
      if selvage q ≠ lenCode p then .error (0x0105#16, a)
      else do
        let (ops, e) ← s.scan ctx n (a + BitVec.ofNat 57 (4 * (lenCode p + 1)))
        return (p.extractLsb' 2 8 :: ops, e)

/-- The checks of a clause (R57, R60): its header and the address after its last instruction. The header's own selvage stands
after its flag fields and before the instructions', a place that R57 does not give it; an encoding ends a clause by its OP byte,
native or not, since the fetch unit decodes no more (R50; DESIGN CHOICE, log 52). -/
def State.clauseCheck (s : State) (ctx : Nat) (a : CAddr) : Found (Header × CAddr) := do
  if a.toNat % 4 ≠ 0 then .error (0x0101#16, a)
  else do
    let w ← s.fetch ctx a
    if lenCode w ≠ 3 then .error (0x0101#16, a)
    else
      let h := headerOf w
      if h.count = 0 then .error (0x0102#16, a)
      else if h.ver = 0 && ((decide (12 ≤ h.fa) && decide (h.fa < 15)) || (decide (12 ≤ h.fb) && decide (h.fb < 15))) then
        .error (0x0107#16, a)
      else if selvage w ≠ 3 then .error (0x0105#16, a)
      else do
        let (ops, e) ← s.scan ctx h.count (a + 4#57)
        if decide (h.ver < 2) && (ops.dropLast).any endsClause then .error (0x0104#16, a)
        else do
          let q ← s.fetch ctx e
          if lenCode q ≠ 3 then .error (0x0103#16, a) else return (h, e)

/-- The clause of a header, with `left` instructions to issue. -/
def clauseOf (a : CAddr) (h : Header) (left : Nat) : Clause :=
  { hdr := a, fa := flagName h.fa, fb := flagName h.fb, left := left, yld := h.yld }

/-- The instruction at an address on this part, or its cause (R55). -/
def State.instrAt (s : State) (ctx : Nat) (a : CAddr) : Except Cause Instr :=
  decode (s.part != .gxv240M) (s.rawParcel ctx a) (s.rawParcel ctx (a + 4#57)) (s.rawParcel ctx (a + 8#57))

/-- The previous instruction or header (R48, R49). -/
def State.predecessor (s : State) (ctx : Nat) (a : CAddr) : Found CAddr := do
  let q ← s.fetch ctx (a - 4#57)
  let prev := if selvage q = 3 then a - 4#57 else a - BitVec.ofNat 57 (4 * (selvage q + 1))
  let p ← s.fetch ctx prev
  if lenCode p ≠ selvage q then .error (0x0106#16, a) else return prev

/-- An instruction that is the first of its clause stands for the clause's header; a header stands for itself (R242). -/
def State.normal (s : State) (ctx : Nat) (a : CAddr) : CAddr :=
  if lenCode (s.rawParcel ctx a) = 3 then a
  else match s.parcel ctx (a - 4#57) with
    | some p => if selvage p = 3 then a - 4#57 else a
    | none => a

/-- The clause in which an instruction lies, with the instructions left from it: back to the header, counting (R245). -/
def State.clauseBack (s : State) (ctx : Nat) : Nat → CAddr → Nat → Option Clause
  | 0, _, _ => none
  | fuel + 1, a, done =>
    match s.predecessor ctx a with
    | .error _ => none
    | .ok prev =>
      let w := s.rawParcel ctx prev
      if lenCode w = 3 then
        let h := headerOf w
        some (clauseOf prev h (h.count - done))
      else s.clauseBack ctx fuel prev (done + 1)

/-- The clause in which the instruction at a lies; `none` at a header. -/
def State.clauseAt (s : State) (ctx : Nat) (a : CAddr) : Option Clause :=
  if lenCode (s.rawParcel ctx a) = 3 then none else s.clauseBack ctx 32 a 0

end Sys2Proof.Machine
end

