-- ==== Sys2Proof/Machine/Score.lean ====
section
/-! DEFINITION. Machine/Score.lean: the scoreboards (03_group_state R76, R80, R86, 05 R163): which registers an instruction
reads or writes, and whether a result that one of them still awaits holds it at issue. -/

namespace Sys2Proof

open Sys2Proof.Machine

/-! The registers of an instruction (R86). -/

/-- A run of lane registers: named by a direct field, or by an index (R46). -/
inductive LaneUse where
  | dir (n count : Nat)
  /-- Registers of the group's own, in every mode: a fragment's (R291). -/
  | own (n count : Nat)
  | ind (k : KReg) (off : VReg) (count : Nat)
  deriving DecidableEq, Repr

/-- What an instruction reads or writes: lane registers, uniform registers, and the lane registers that it reads across
lanes (R163). -/
structure Uses where
  lanes : List LaneUse := []
  unis  : List Nat := []
  cross : List LaneUse := []
  deriving DecidableEq, Repr

def Uses.add (a b : Uses) : Uses := ⟨a.lanes ++ b.lanes, a.unis ++ b.unis, a.cross ++ b.cross⟩

def useV (n : VReg) (count : Nat) : Uses := { lanes := [.dir n.toNat count] }
def useFrag (n : VReg) (count : Nat) : Uses := { lanes := [.own n.toNat count] }
def useK (n : KReg) (count : Nat) : Uses := { unis := (List.range count).map (n.toNat + ·) }

/-- A source of `count` lane registers, or one uniform register. -/
def Src.uses (x : Src) (count : Nat) : Uses :=
  match x with
  | .v n => useV n count
  | .k n => useK n 1

def ASrc.uses (x : ASrc) (count : Nat) : Uses :=
  match x with
  | .v n => useV n count
  | .k n => useK n 1
  | .ind kr off => { lanes := [.ind kr off count], unis := [kr.toNat] }

def LSrc.uses (x : LSrc) : Uses :=
  match x with
  | .v n => useV n 1
  | .ind kr off => { lanes := [.ind kr off 1], unis := [kr.toNat] }

/-- An operand read across lanes. -/
def LSrc.across (x : LSrc) : Uses :=
  match x with
  | .v n => { cross := [.dir n.toNat 1] }
  | .ind kr off => { cross := [.ind kr off 1], unis := [kr.toNat] }

def acrossV (n : VReg) : Uses := { cross := [.dir n.toNat 1] }

def Uses.all (l : List Uses) : Uses := l.foldl Uses.add {}

def L1.uses (o : L1) : Uses := (useV o.d 1).add (o.a.uses 1)
/-- Operands of `n` registers each: 1, or 2 in the pair forms (R97). -/
def L2.uses (o : L2) (n : Nat) : Uses := .all [useV o.d n, o.a.uses n, o.b.uses n]
def L2L.uses (o : L2L) : Uses := (useV o.d 1).add (o.a.uses 1)
def L3.uses (o : L3) : Uses := .all [useV o.d 1, o.a.uses 1, o.b.uses 1, useV o.c 1]
def L3L.uses (o : L3L) : Uses := .all [useV o.d 1, o.a.uses 1, useV o.c 1]
def Shift.uses : Shift → Uses
  | .src o => o.uses 1
  | .imm _ d a _ => (useV d 1).add (a.uses 1)
def K2.uses (o : K2) : Uses := .all [useK o.d 1, useK o.a 1, useK o.b 1]
def K2L.uses (o : K2L) : Uses := (useK o.d 1).add (useK o.a 1)
def Addr.uses (a : Addr) : Uses := (a.base.uses 2).add (a.idx.uses 1)
def AddrL.uses (a : AddrL) : Uses := (a.base.uses 2).add (a.idx.uses 1)
/-- CVT's operands of 64 bits are pairs (R150). -/
def cvtRegs : CvtType → Nat
  | .i64 => 2
  | .z64 => 2
  | _ => 1
def AMod.regs (m : AMod) : Nat := if m.w64 then 2 else 1

/-- The registers of a transfer's target, as a pair (R124). -/
def twoV (d a : VReg) : Uses := (useV d 1).add (useV a 1)

/-- Lane engine, integer and control (04). -/
def usesInt : Instr → Uses
  | .iadd _ _ o | .isub _ _ o | .imul o | .imulhi _ o | .imin _ o | .imax _ o | .idiv _ o | .irem _ o | .bfe _ o | .and o
  | .or o | .xor o => o.uses 1
  | .iadd64 _ _ o | .isub64 _ _ o => o.uses 2
  | .iaddL96 _ _ o | .isubL96 _ _ o | .imulL96 o | .iminL96 _ o | .imaxL96 _ o | .andL96 o | .orL96 o | .xorL96 o => o.uses
  | .ineg _ o | .iabs _ o | .popc o | .clz o | .brev o | .notW64 o => o.uses
  | .iadd3 o | .imad o | .imadhi _ o | .bfi o => o.uses
  | .imadL96 o => o.uses
  | .addS d a | .subS d a | .xorS d a | .rotlS d a | .not d a | .mov d a | .swap d a => twoV d a
  | .negS d => useV d 1
  | .shl o | .shr o | .sar o | .rotl o | .rotr o => o.uses
  | .shf _ _ d h l amt => .all [useV d 1, h.uses 1, l.uses 1, match amt with
    | .v n => useV n 1
    | .imm _ => {}]
  | .tril _ d a b c _ => .all [useV d 1, a.uses 1, b.uses 1, useV c 1]
  | .ptov _ d _ _ => useV d 1
  | .vtop _ _ a _ => a.uses 1
  | .isetp _ _ _ o => (o.a.uses 1).add (o.b.uses 1)
  | .fsetp _ _ _ o => (o.a.uses 1).add (o.b.uses 1)
  | .isetpL96 _ _ _ o => o.a.uses 1
  | .fsetpL96 _ _ _ o => o.a.uses 1
  | .ksetp _ _ _ _ _ a b _ => (useK a 1).add (useK b 1)
  | .ksetpL96 _ _ _ _ _ a _ _ => useK a 1
  | .sel _ _ d a b _ => .all [useV d 1, a.uses 1, b.uses 1]
  | .movW64 _ d a | .swapW64 _ d a => (useV d 1).add a.uses
  | .movi _ d _ => useV d 1
  | .movk _ _ d a => (useV d 1).add (useK a 1)
  | .mfs _ d sr => match d with
    | .lane d _ => useV d 1
    | .uni d => useK d (if sr = 1#8 then 2 else 1)
  | .mts _ sr a => useK a (if sr = 1#8 then 2 else 1)
  | .kmov _ d a => (useK d 1).add (useK a 1)
  | .kmovi _ d _ _ => useK d 1
  | .kadd o | .ksub o | .kmul o | .kand o | .kor o | .kxor o => o.uses
  | .kaddL96 o | .ksubL96 o | .kmulL96 o | .kandL96 o | .korL96 o | .kxorL96 o => o.uses
  | .kshl _ d a n | .kshr _ d a n => .all [useK d 1, useK a 1, match n with
    | .k n => useK n 1
    | .imm _ => {}]
  | .brx _ t => t.uses 2
  | .call _ d _ => useV d 2
  | .calli _ d t => (useV d 2).add (t.uses 2)
  | .ret a => useV a 2
  | .rdcf _ d => useK d 2
  | _ => {}

/-- Lane engine, floating point, conversion and cross-lane (05). -/
def usesFloat : Instr → Uses
  | .fadd _ o | .fsub _ o | .fmul _ o | .fmin _ o | .fmax _ o | .pkadd _ o | .pkmul _ o | .pkmin _ _ _ o | .pkmax _ _ _ o
  | .cvts _ _ _ o | .pack _ o => o.uses 1
  | .faddL96 _ o | .fsubL96 _ o | .fmulL96 _ o | .pkaddL96 _ o | .pkmulL96 _ o => o.uses
  | .ffma _ o | .pkfma _ o => o.uses
  | .ffmaL96 _ o | .pkfmaL96 _ o => o.uses
  | .fclass _ _ o | .cvtx _ _ _ o => o.uses
  | .frcp _ o | .fsqrt _ o => o.uses
  | .frsq _ o | .fexp2 _ o | .flog2 _ o | .fsin _ o | .fcos _ o => o.uses
  | .cvt _ dst src _ d a => (useV d (cvtRegs dst)).add (a.uses (cvtRegs src))
  | .cvt8 (.to _ _ _ d a b _) => .all [useV d 1, a.uses 1, b.uses 1]
  | .cvt8 (.from_ _ _ d a _) => (useV d 2).add (a.uses 1)
  | .cvtmx _ _ d ks a _ => .all [useV d 1, useV a 1, useK ks 1]
  | .unpack _ _ _ d a _ => (useV d 1).add (a.uses 1)
  | .lget _ _ _ d a b _ => .all [useV d 1, acrossV a, match b with
    | .src b => b.uses 1
    | .imm _ => {}]
  | .perm _ _ d a b _ => .all [useV d 1, acrossV a, b.uses 1]
  | .vote dst _ _ _ => match dst with
    | .ballot d => useV d 1
    | .ballotK d => useK d 1
    | _ => {}
  | .redux _ _ _ d a => (useK d 1).add a.across
  | .scan _ _ d a kc => .all [useV d 1, a.across, match kc with
    | some k => useK k 1
    | none => {}]
  | .match_ w64 _ d a _ => (useV d 1).add { cross := [.dir a.toNat (if w64 then 2 else 1)] }
  | .isect _ d kc a b => .all [useV d 1, useK kc 1, acrossV a, acrossV b]
  | _ => {}

/-- The memory port (06) and the history instructions (09). ENQ and DEQ count sixteen registers, the most that an element
takes (R196). -/
def usesMem : Instr → Uses
  | .ld m _ d ad | .ldx m _ d ad | .xchg m _ d ad => (useV d (sizeRegs m.size)).add ad.uses
  | .ldL96 m _ d ad => (useV d (sizeRegs m.size)).add ad.uses
  | .st m _ _ d ad | .stx m _ _ d ad => (useV d (sizeRegs m.size)).add ad.uses
  | .stL96 m _ _ d ad => (useV d (sizeRegs m.size)).add ad.uses
  | .kld _ _ d a b _ => .all [useK d 1, useK a 1, useK b 1]
  | .kldL96 _ _ d a b _ => .all [useK d 1, useK a 1, useK b 1]
  | .pref _ _ _ _ ad => ad.uses
  | .atom _ m _ d a b => .all [useV d m.regs, a.uses 2, b.uses m.regs]
  | .atomcas m _ d a b => .all [useV d m.regs, a.uses 2, b.uses m.regs]
  | .red _ m _ _ a b => (a.uses 2).add (b.uses m.regs)
  | .redL96 _ _ _ _ a _ => a.uses 2
  | .enq _ _ _ _ a d | .deq _ _ _ _ a d => (useK a 1).add (useV d 16)
  | .reverse _ _ a b => (useK a 1).add (useK b 1)
  | .hstash _ a => useK a 1
  | .hquery _ _ d a => (useK d 2).add (useK a 1)
  | _ => {}

/-- The matrix engine (11), copies and tiles (12): a fragment counts as many registers as any format of the form takes
(R285). -/
def usesTile : Instr → Uses
  | .mma small _ _ _ a b _ _ => let n := if small.isSome then 16 else 32
    (useFrag a n).add (useFrag b n)
  | .mmas _ _ _ a b _ _ => (useFrag a 40).add (useFrag b 64)
  | .mmax _ _ _ a b _ _ => (useFrag a 34).add (useFrag b 34)
  | .accld _ _ _ a b _ | .accst _ _ _ _ _ a b _ => (useK a 1).add (useK b 1)
  | .accmov _ (.rd _ d _) => useFrag d 32
  | .accmov _ (.wr _ _ a) => useFrag a 32
  | .satrd _ d => useK d 1
  | .satclr _ (.k a) => useK a 1
  | .cpy m => (useK m.a 4).add (useK m.ke 1)
  | .cpyL96 m _ => (useK m.a 2).add (useK m.ke 1)
  | .cpym m km | .cpyg m km => .all [useK m.a 4, useK m.ke 1, useK km 1]
  | .seal _ a b => (useK a 1).add (useK b 1)
  | .unseal _ a => (useK a 1).add (useV 0 16)
  | .drop _ a | .tileput _ a => useK a 1
  | .tileget _ _ d a b c => .all [useK d 2, useK a 1, useK b 1, useK c 1]
  | .surrender (.summary a b) _ => (useK a 1).add (useK b 1)
  | _ => {}

/-- The task engine and the batcher (14, 15), row F (17). -/
def usesTask : Instr → Uses
  | .spawn _ _ _ a b n => (useK a 1).add (useV b n.toNat)
  | .spawnL96 _ _ _ _ b n => useV b n.toNat
  | .evnew _ d => useK d 1
  | .evfree _ d a => (useK d 1).add (useK a 1)
  | .evsig _ _ a => useK a 1
  | .evwait _ _ _ a b n => (useK a 1).add (useV b n.toNat)
  | .waitpred => useV 0 16
  | .cntdec _ _ _ a => a.uses 2
  | .gridl _ d a b => .all [useK d 1, useK a 1, useK b 1]
  | .send _ _ d a b _ => .all [useV d 16, useK a 1, useK b 1]
  | .cbopen _ _ d => useK d 1
  | .cbpush _ n _ _ a b => (useV a 1).add (useV b (n.toNat + 1))
  | .cbpull _ _ d b _ => (useV d 1).add (useK b 1)
  | .cbdone _ _ d a => (useK d 1).add (useK a 1)
  | .cbflush _ _ _ d => useK d 1
  | .trap _ d a _ => (useK d 1).add (useK a 1)
  | .mfg _ d a b | .mtg _ d a b => .all [useK d 2, useK a 1, useK b 1]
  | .revg _ d a b c | .launch _ d a b c => .all [useK d 2, useK a 1, useK b 1, useK c 1]
  | _ => {}

/-- The registers that an instruction reads or writes. -/
def Instr.uses (i : Instr) : Uses := .all [usesInt i, usesFloat i, usesMem i, usesTile i, usesTask i]

/-- A return from a handler, whose window goes with it. -/
def Instr.leavesHandler : Instr → Bool
  | .eret | .eretSkip | .emuret | .emuretRetry | .surrender _ _ => true
  | _ => false

end Sys2Proof

namespace Sys2Proof.Machine

/-! Pending results (R76). -/

/-- A result that is still to be written: a lane register in a lane, or a uniform register for the split that issued and the
lanes of its Exec. -/
inductive Due where
  | lane (l : Loc) (lane split : Nat)
  | uni (n split : Nat) (lanes : Mask)
  deriving DecidableEq, Repr

def dueLanes (ls : List Loc) (m : Mask) (split : Nat) : List Due := ls.flatMap (fun l => (lanesOf m).map (fun i => Due.lane l i split))

/-- The results of one piece of issued work. -/
def Pending.due (p : Pending) : List Due :=
  match p with
  | .load _ n _ vw _ => vw.map (fun w => .lane w.loc w.lane n)
  | .kload _ n m kw => kw.map (fun w => .uni w.1 n m)
  | .atomic _ n _ vw _ => vw.map (fun w => .lane w.loc w.lane n)
  | .moved _ n x _ => dueLanes x.dst x.mask n
  | _ => []

/-- The group whose work it is. -/
def Pending.group (p : Pending) : Nat :=
  match p with
  | .load g .. => g
  | .kload g .. => g
  | .atomic g .. => g
  | .store g _ => g
  | .pref g _ => g
  | .moved g .. => g

/-- The results that a group still awaits. -/
def State.dues (s : State) (gid : Nat) : List Due :=
  s.pend.flatMap (fun p => if p.2.group = gid then p.2.due else [])

/-- The lane registers that a run names (R69, R70, R388). -/
def Group.useLocs (g : Group) (u : LaneUse) : List Loc :=
  match u with
  | .dir n c => (List.range c).map (fun i => if g.inHandler then .win (n + i) else .own (n + i))
  | .own n c => (List.range c).map (fun i => .own (n + i))
  | .ind k off c => (List.range c).map (fun i =>
      let j := (g.rdK k.toNat + zext64 (off.setWidth 32)).toNat + i
      if j < g.regs then .own j else .saved (j - 256))

/-- Whether the scoreboard of split n with the lanes m holds a result: one that it has issued, or that was issued for lanes
which are its own now (R76, R80, R86; that a result follows its lanes is DEDUCED, log 54). -/
def Due.of (d : Due) (n : Nat) (m : Mask) : Bool :=
  match d with
  | .lane _ l split => split == n || m.getLsbD l
  | .uni _ split lanes => split == n || lanes &&& m != 0#32

def Due.names (d : Due) (ls : List Loc) (unis : List Nat) : Bool :=
  match d with
  | .lane l _ _ => ls.contains l
  | .uni n _ _ => unis.contains n

/-- Whether an instruction of a split waits at issue for a result: one of its own split in a register that it reads or
writes, or one of any split in a register that it reads across lanes (R86, R163). -/
def State.held (s : State) (gid : Nat) (g : Group) (n : Nat) (m : Mask) (u : Uses) : Bool :=
  let ls := (u.lanes ++ u.cross).flatMap g.useLocs
  let xs := u.cross.flatMap g.useLocs
  (s.dues gid).any (fun d => (d.of n m && d.names ls u.unis) || d.names xs [])

/-- The scoreboards of two splits that merge are combined (R80): what split r had issued is split k's. -/
def State.joinScores (s : State) (gid k r : Nat) : State :=
  let of (g n : Nat) : Nat := if g = gid ∧ n = r then k else n
  { s with pend := s.pend.map (fun p => (p.1, match p.2 with
      | .load g n m vw kw => .load g (of g n) m vw kw
      | .kload g n m kw => .kload g (of g n) m kw
      | .atomic g n m vw fl => .atomic g (of g n) m vw fl
      | .moved g n x fl => .moved g (of g n) x fl
      | q => q)) }

/-- Whether any result of the group is still to be written. -/
def State.resultsDue (s : State) (gid : Nat) : Bool :=
  s.pend.any (fun p => p.2.group == gid && match p.2 with
    | .load .. => true
    | .kload .. => true
    | .atomic _ _ _ vw _ => !vw.isEmpty
    | .moved .. => true
    | _ => false)

end Sys2Proof.Machine
end

