-- ==== Sys2Proof/Machine/History.lean ====
section
/-! DEFINITION. Machine/History.lean: the history instructions (09 R258 to R263), where a reversal lands (R222, R241), how
an entry is undone (R243), the landing (R245, R246). The walk itself is Walk.lean's. -/

namespace Sys2Proof.Machine

/-! Counts (R222, R241). -/

/-- A count's distance above %cmark, modulo 2^48. -/
def Group.dist (g : Group) (x : Count) : Nat := (x - g.cmark).toNat

/-- The floor: the state just after the last commit's instruction, or the group's start. -/
def Group.floor (g : Group) : Count := if g.hist.committed then g.cmark + 1#48 else 0#48

/-- The mark positions on the stack, newest first. -/
def Group.marks (g : Group) : List Count :=
  g.hist.stack.filterMap (fun e => match e.kind with | .markrec pos .. => some pos | _ => none)

/-- The landing point of a target and whether it is rounded; `none` is a refusal (R241). -/
def Group.landing (g : Group) (kt : DWord) : Option (Count × Bool) :=
  let k : Count := kt.setWidth 48
  if kt.extractLsb' 48 16 ≠ 0#16 || g.inHandler || decide (g.dist g.ic < g.dist k) then none
  else if k = g.ic then some (k, false)
  else match g.grade with
    | .off => none
    | .step => if g.dist g.floor ≤ g.dist k then some (k, false) else some (g.floor, true)
    | .mark =>
      let p := (g.marks.find? (fun p => decide (g.dist g.floor ≤ g.dist p) && decide (g.dist p ≤ g.dist k))).getD g.floor
      some (p, decide (g.dist p < g.dist k))

/-! Popping and undoing (R243). -/

/-- The top entry leaves the stack; the window follows, refilled where it must be (R235). -/
def Group.pop (g : Group) : Group :=
  match g.hist.stack with
  | [] => g
  | e :: t =>
    let hsp := g.hsp - BitVec.ofNat 57 e.kind.size
    let buf := 1024 * g.hbuf
    let lo := g.hist.winLo
    let lo := if hsp.toNat - lo < buf / 4 then max g.hbase.toNat (lo - buf / 2) else lo
    { g with hsp := hsp, hist := { g.hist with
        stack := t, winLo := min lo hsp.toNat, bad := g.hist.bad.filter (fun l => decide (128 * l < hsp.toNat)) } }

def Group.popN (g : Group) : Nat → Group
  | 0 => g
  | n + 1 => g.pop.popN n

/-- Changes the reversal state. -/
def Group.updRev (g : Group) (f : Rev → Rev) : Group := { g with hist := { g.hist with rev := g.hist.rev.map f } }

/-- The reverse split (R242). -/
def Group.revSplit (g : Group) : Nat := g.hist.rev.elim 0 (·.s)

/-- The reverse position of a split; a split that the walk has not moved stands at its PC. -/
def Group.revPos (g : Group) (n : Nat) : CAddr :=
  match g.hist.rev.bind (fun r => r.pos.get n) with
  | some p => p
  | none => (g.splits.get n).elim 0#57 (·.pc)

def Group.setPos (g : Group) (n : Nat) (p : CAddr) : Group := g.updRev (fun r => { r with pos := r.pos.put n p })

/-- A pre-image that overwrites the damaged word heals it (R253). -/
def Damage.healed (d : Damage) (k : HKind) : Bool :=
  match d, k with
  | .vreg n l, .vreg m mask _ => n == m && mask.getLsbD l
  | .kreg n, .kreg m _ => n == m
  | .pred n, .pred m _ => n == m
  | .tile n, .acc m _ => n == m
  | _, _ => false

def Group.heal (g : Group) (k : HKind) : Group :=
  g.updRev (fun r => { r with dmg := r.dmg.filter (fun d => !Damage.healed d k) })

/-- The words of a tile in a team's store of tiles: 4,096 words each. -/
def tileBase (t : Nat) : Nat := 4096 * t
/-- A tile's words, numbered from 0. -/
def Team.tileVals (t : Team) (n : Nat) : Cells 32 :=
  (t.acc.filter (fun c => decide (tileBase n ≤ c.1) && decide (c.1 < tileBase (n + 1)))).map (fun c => (c.1 - tileBase n, c.2))
def Team.putTile (t : Team) (n : Nat) (vals : Cells 32) : Team :=
  { t with acc := vals.foldl (fun a c => a.set (tileBase n + c.1) c.2) (t.acc.clear (tileBase n) (tileBase (n + 1))) }

/-- The places of one pre-image; the scratch is reached in any mode (R392). -/
def State.prePlaces (s : State) (gid : Nat) (g : Group) (sp : Space) (p : MemPre) (n : Nat) : Except Cause (List Place) :=
  if sp = .cs ∧ 2 ^ 32 - 256 ≤ p.addr.toNat then
    .ok ((List.range n).map (fun i => .scr gid (p.addr.toNat - (2 ^ 32 - 256) + i)))
  else s.laneAccess gid g sp .store p.lane p.addr n

/-- Whether a damaged line holds a byte of the newest n of the stack (R255, R263). -/
def Group.badWithin (g : Group) (n : Nat) : Bool :=
  decide (0 < n) && g.hist.bad.any (fun l => decide (128 * l < g.hsp.toNat) && decide (g.hsp.toNat < 128 * (l + 1) + n))

/-- The first cause that stops the undoing of entries, the newest of the stack, with its address: a damaged entry (R255), a
reverse store that may not be made (R211, R247). -/
def State.revCause (s : State) (gid : Nat) (g : Group) (es : List HEntry) : Option (Cause × DWord) :=
  if g.badWithin (es.map (fun e => e.kind.size)).sum then some (0x0403#16, 0#64)
  else (es.flatMap (fun e => match e.kind with
    | .memw _ sz sp pre _ => pre.filterMap (fun p => match s.prePlaces gid g sp p (sizeBytes sz) with
        | .error c => some (c, p.addr)
        | .ok _ => none)
    | _ => [])).head?

/-- One reverse store: a plain store at the home, visible at every scope before the next is made (R211). -/
def State.revStore (s : State) (gid : Nat) (g : Group) (sz : Size) (sp : Space) (p : MemPre) : State :=
  match s.prePlaces gid g sp p (sizeBytes sz) with
  | .ok ps =>
    let s := s.pointPut g.core gid sp (bytesAt ps p.old.toNat)
    if sp = .priv then s else s.publish (linesOf ps)
  | .error _ => s

/-- An entry that the instruction of the last commit's number recorded after it: it lies below the floor, which is the state
just after that instruction (R251; DEDUCED, log 48). -/
def Group.below (g : Group) (e : HEntry) : Bool :=
  g.hist.committed && !g.hist.snapDue && e.ic == g.cmark.setWidth 32 && !e.kind.boundary

/-- Undoes one entry; `none` when its check fails (R243, R255). `inner` is an entry inside a handler frame. -/
def State.undo (s : State) (gid : Nat) (inner : Bool) (e : HEntry) : Option State :=
  match s.groups.get gid with
  | none => none
  | some g =>
    let g := g.heal e.kind
    let put (g : Group) : Option State := some (s.setGroup gid g)
    match e.kind with
    | .vreg n m vals => put { g with v := g.v.setLanes (32 * n) m (fun l => vals.getD l 0#32) }
    | .pred n bits => put { g with p := g.p.set n bits }
    | .kreg n x => put { g with k := g.k.set n x }
    | .memw _ sz sp pre _ => some (pre.reverse.foldl (fun s p => s.revStore gid g sz sp p) (s.setGroup gid g))
    | .acc t vals => some ((s.setGroup gid g).updTeam g.team (fun x => x.putTile t vals))
    | .flags sat arm hasSat hasArm _ =>
      put { g with sat := if hasSat then sat else g.sat, satarm := if hasArm then arm else g.satarm }
    | .growrec old _ => put (g.withGrants old g.grants)
    | .cf pc ic =>
      if inner then put g
      else put { g with splits := g.splits.upd g.revSplit (fun sp => { sp with cfrPc := pc, cfrIc := ic }) }
    | .split new parent m target =>
      match g.splits.get new, g.splits.get parent with
      | some x, some p =>
        if x.mask = m ∧ s.normal g.ctx (g.revPos new) = target then
          put ({ g with splits := (g.splits.put parent { p with mask := p.mask ||| m }).del new }.updRev
            (fun r => { r with pos := r.pos.del new }))
        else none
      | _, _ => none
    | .parkrec false n _ _ =>
      match g.parked.getLast? with
      | some p => put { g with
          parked := g.parked.dropLast, splits := g.splits.upd n (fun sp => { sp with mask := sp.mask ||| p.mask }) }
      | none => none
    | .parkrec true n m pc =>
      put ({ g with splits := g.splits.del n, parked := g.parked ++ [(⟨pc, m⟩ : Path)] }.updRev
        (fun r => { r with pos := r.pos.del n }))
    | .merge kept removed km rm _ rpc cpc cic =>
      match g.splits.get kept with
      | some k =>
        let back : Split := { pc := rpc, mask := rm, cfrPc := cpc, cfrIc := cic, wait := .ready, mid := none }
        put ({ g with splits := (g.splits.put kept { k with mask := km }).put removed back }.setPos removed rpc)
      | none => none
    | .weave n _ => put (g.updRev (fun r => { r with s := n }))
    | .emuframe .. => put g
    | .markrec .. => put g
    | .stash _ => put g

/-- Undoes a list of entries, newest first, and pops them. `depth` counts the frames they lie in. -/
def State.undoAll (s : State) (gid : Nat) : Nat → List HEntry → Option State
  | _, [] => some s
  | depth, e :: t =>
    let d := match e.kind with
      | .emuframe _ _ true .. => depth + 1
      | .emuframe _ _ false .. => depth - 1
      | _ => depth
    let undone := if (s.groups.get gid).any (·.below e) then some s else s.undo gid (decide (0 < depth)) e
    match undone with
    | some s => (s.updGroup gid (·.pop)).undoAll gid d t
    | none => none

/-- How many entries the top one takes with it: a close frame takes its pair and what lies between (R243). -/
def frameLen : Nat → List HEntry → Nat
  | _, [] => 0
  | d, e :: t =>
    match e.kind with
    | .emuframe _ _ true .. => 1 + frameLen (d + 1) t
    | .emuframe _ _ false .. => if d ≤ 1 then 1 else 1 + frameLen (d - 1) t
    | _ => if d = 0 then 1 else 1 + frameLen d t

/-- The entries of one kind, boundary or instruction, with a count, from the top (R242). -/
def takeLen (boundary : Bool) (ic : Word) : Nat → List HEntry → Nat
  | 0, _ => 0
  | _, [] => 0
  | fuel + 1, e :: t =>
    if e.kind.boundary = boundary ∧ e.ic = ic then
      let n := frameLen 0 (e :: t)
      n + takeLen boundary ic fuel ((e :: t).drop n)
    else 0

/-! Landing (R245, R246). -/

/-- Whether the instruction that ends at a header is a CONV: its parcel (R131). -/
def State.convBefore (s : State) (ctx : Nat) (p : CAddr) : Option CAddr :=
  match s.parcel ctx (p - 4#57) with
  | some w => if w = 0x0000021C#32 then some (p - 4#57) else none
  | none => none

/-- How many instructions ago a count lay, by its low half (R221). -/
def Group.age (g : Group) (c : Word) : Nat := (g.ic.setWidth 32 - c).toNat

/-- Whether split n has issued one of the last `age` instructions. `runner` issued those younger than the entries given,
down to `young` instructions ago; each WEAVE names the split before it (R232). -/
def Group.ranWithin (g : Group) (n age : Nat) : Nat → Nat → List HEntry → Bool
  | runner, young, [] => runner == n && decide (young < age)
  | runner, young, e :: t =>
    match e.kind with
    | .weave prev _ =>
      if age ≤ young then false
      else if runner = n ∧ young < g.age e.ic then true
      else g.ranWithin n age prev (g.age e.ic) t
    | _ => g.ranWithin n age runner young t

/-- The count at which a split last came to its place by a transfer, or from the overflow path stack, above the floor. -/
def Group.cameAt (g : Group) (n : Nat) (sp : Split) : Option Word :=
  let un := g.hist.stack.findSome? (fun e => match e.kind with
    | .parkrec true m _ _ => if m = n then some e.ic else none
    | _ => none)
  let byCfr := sp.cfrPc != 0#57 && decide (g.dist g.floor ≤ g.dist sp.cfrIc) && decide (g.dist sp.cfrIc ≤ g.dist g.ic)
  match un, byCfr with
  | some c, true => some (if g.age c ≤ g.age (sp.cfrIc.setWidth 32) then c else sp.cfrIc.setWidth 32)
  | some c, false => some c
  | none, true => some (sp.cfrIc.setWidth 32)
  | none, false => none

/-- Whether a split that stands at the header after a CONV has come there through it: the last thing it did is its own
instruction, or else it waited there as the floor's state was taken (R245). -/
def Group.throughConv (g : Group) (n : Nat) (sp : Split) : Bool :=
  match g.cameAt n sp with
  | some c => g.ranWithin n (g.age c) g.revSplit 0 g.hist.stack
  | none =>
    g.ranWithin n (g.age (g.floor.setWidth 32)) g.revSplit 0 g.hist.stack ||
      (g.hist.snap.splits.get n).any (fun x => match x.wait with
        | .conv _ => true
        | _ => false)

/-- A split that the walk has moved resumes at its position, inside its clause where it must, at its CONV where it has
retired one and others are left (R245). A MARKREC holds what each split waits for (R246). -/
def State.resumeAt (s : State) (g : Group) (r : Rev) (n : Nat) (sp : Split) (p : CAddr) : Split :=
  let others := decide (1 < g.splits.length) || !g.parked.isEmpty
  let w : Wait := match s.convBefore g.ctx p with
    | some a => if others && g.throughConv n sp then .conv a else .ready
    | none => .ready
  { sp with pc := p, wait := if r.marked then sp.wait else w, mid := s.clauseAt g.ctx p }

/-- %rvinfo after a landing (R241, R253). -/
def landInfo (r : Rev) (old : DWord) : DWord :=
  let b (n : Nat) (x : Bool) : DWord := if x then BitVec.twoPow 64 n else 0#64
  match r.info with
  | some k => (k &&& 0x3FFFFFFFFFFFFFFF#64) ||| b 63 r.rounded ||| b 62 r.rollback
  | none => old ||| b 62 true

/-- A reply of the mailbox about a group: value 0 and value 1, the group's %ic and where it stands (R413). -/
def Group.reply (g : Group) (code status : Nat) (seq : Word) (v0 v1 loc : DWord) : DbgEvent :=
  { code := 0x8000 ||| code, status := status, seq := seq, v0 := v0, v1 := v1, loc := loc, ic := g.ic,
    addr := (g.splits.get g.standing).elim 0#57 (·.pc), cause := 0#16 }

/-- The reversal ends: %dir := 0, %rvinfo, the REVERSE's predicate, every split at its position, without the GROW that a split which
the walk has moved asked for; the issuer of a REVG and the host of a REWIND learn of it (R245, R260, R405, R414). -/
def State.land (s : State) (gid : Nat) : State :=
  match s.groups.get gid with
  | none => s
  | some g =>
    match g.hist.rev with
    | none => s
    | some r =>
      let splits := g.splits.map (fun x => match r.pos.get x.1 with
        | some p => (x.1, s.resumeAt g r x.1 x.2 p)
        | none => x)
      let moved (n : Nat) : Bool := (r.pos.get n).isSome || (g.splits.get n).isNone
      let g := g.revokeGrow moved
      let g := { g with
        growFail := g.growFail.filter (fun n => !moved n)
        splits := splits
        dir := false
        clause := none
        rvinfo := landInfo r g.rvinfo
        cur := if (g.splits.get r.s).isSome then r.s else g.cur
        lastStart := if r.marked then g.lastStart else r.s
        lastSplit := if r.marked then g.lastSplit else r.s
        inARow := 0
        resume := none
        hist := { g.hist with rev := none } }
      let g := match r.dst with
        | some d => g.wrP d.toNat g.launched fullMask
        | none => g
      let s := { s.setGroup gid g with
        growQ := s.growQ.filter (fun q => !(q.gid == gid && moved q.split)) }
      let s := match r.revg with
        | some (issuer, kd) => s.updGroup issuer (fun x =>
            ((x.wrK kd.toNat (g.ic.setWidth 64)).wrK (kd.toNat + 1) 0#64).wake (.revg gid))
        | none => s
      match r.dbg with
      | some (ctx, seq, loc) => s.updCtx ctx (fun c => c.dbgPost (g.reply 0x06 0 seq (g.ic.setWidth 64) 0#64 loc))
      | none => s

/-- Restores what a MARKREC or the commit snapshot holds (R246): every split at its place, the parked paths, %regs. -/
def Group.restore (g : Group) (n : Snapshot) : Group :=
  let pos : Tbl CAddr := n.splits.filterMap (fun (x : Nat × Split) => if x.2.wait = Wait.ready then some (x.1, x.2.pc) else none)
  ({ g.withGrants n.regs [] with splits := n.splits, parked := n.parked, growFail := none } : Group).updRev (fun r => { r with pos := pos })

/-- A reversal begins (R240 to R242): its landing point is known and its waits are over. Where it lands at once there is no walk; a
rollback that has joined it looks at the landing point for words still damaged (R253). What the group has stored before stands in
CXL memory too, so that no reverse store comes before it at any scope (R211). -/
def State.begin (s : State) (gid : Nat) (r : Rev) : State :=
  match s.groups.get gid with
  | none => s
  | some g =>
    let s := s.writeHome
    let g := { g with clause := none, hist := { g.hist with rev := some r } }
    if r.land = g.ic ∧ r.target = g.ic ∧ r.rollback = false then (s.setGroup gid g).land gid
    else s.setGroup gid { g with dir := true }

/-- R240: what a reversal waits for, and the group's matrix work, whose tiles the walk would restore (R278). -/
def State.mayReverse (s : State) (gid : Nat) (g : Group) : Bool :=
  g.flagsClear 0xFFF#12 && !s.memwOpen gid && !s.resultsDue gid && !(s.core g.core).mq.any (fun m => m.gid == gid)

/-! HQUERY (R263). -/

/-- The pair that HQUERY writes. -/
def Group.query (g : Group) (q : Query) (a : DWord) : DWord × DWord :=
  match q with
  | .used => ((g.hsp - g.hbase).setWidth 64, 1#64)
  | .room => ((g.hlim - g.hsp).setWidth 64, 1#64)
  | .floor => (g.floor.setWidth 64, 1#64)
  | .mark => match g.marks[a.toNat]? with
    | some p => (p.setWidth 64, 1#64)
    | none => (0#64, 0#64)
  | .stash => match g.hist.stack.findSome? (fun e => match e.kind with | .stash x => some x | _ => none) with
    | some x => (x, 1#64)
    | none => (0#64, 0#64)

/-- How far below %hsp a query reads: to the end of the entry that it finds, or through the whole stack. -/
def readDepth (hit : HKind → Bool) : Nat → List HEntry → Nat
  | _, [] => 0
  | n, e :: t => e.kind.size + (if hit e.kind then (match n with
    | 0 => 0
    | n + 1 => readDepth hit n t) else readDepth hit n t)

def Group.queryDepth (g : Group) (q : Query) (a : DWord) : Nat :=
  match q with
  | .mark => readDepth (fun k => match k with
    | .markrec .. => true
    | _ => false) a.toNat g.hist.stack
  | .stash => readDepth (fun k => match k with
    | .stash _ => true
    | _ => false) 0 g.hist.stack
  | _ => 0

/-- The window after a query that looked n bytes down: the lines below it are refilled, as far as the buffer holds (R235); while an
incomplete MEMW entry stops the spill there is no room for them (R195). -/
def Group.lookDown (g : Group) (n : Nat) : Group :=
  if g.hist.hold.isSome then g
  else { g with hist := { g.hist with
      winLo := min g.hist.winLo (max (g.hsp.toNat - 1024 * g.hbuf) ((g.hsp.toNat - n) / 128 * 128)) } }

/-! The meanings. -/

/-- COMMIT (R251). -/
def execCommit (s : State) : Out := issue 1 always s (fun c => c.sealing (fun c => .ok c.s))

/-- MARK (R259): the MARKREC holds the state after the MARK, which its position names (R233). In handler mode its split state is the
handler's own (DESIGN CHOICE, log 55). -/
def execMark (s : State) : Out :=
  regOp 1 always s (fun c =>
    let after := { c.g with splits := c.g.splits.put c.sn { c.sp with pc := c.nextPc } }
    if c.g.recGrade = .off then .ok c.g
    else .ok ((c.g.pushBoth (.markrec (c.g.ic + 1#48) c.sn after.snapshot c.g.hist.touched)).touch
      (fun _ => Touched.none)))

/-- REVERSE (R260): it counts nothing. -/
def execReverse (g : Guard) (d : PReg) (a b : KReg) (s : State) : Out :=
  issue 2 g s (fun c =>
    let ans (g : Group) : Fin := { s := c.s.setGroup c.gid g, count := false, sealed := false, jump := false }
    if c.ex = 0#32 then .ok (ans c.g)
    else
      let kt := c.g.rdK a.toNat
      match c.g.landing kt with
      | none => .ok (ans (c.g.wrP d.toNat c.ex 0#32))
      | some (land, rounded) =>
        if !c.s.mayReverse c.gid c.g then .error .stall
        else
          let r : Rev :=
            { target := kt.setWidth 48, land := land, rounded := rounded, info := some (c.g.rdK b.toNat),
              marked := c.g.grade == .mark, s := c.sn, pos := [(c.sn, c.s.normal c.g.ctx c.pc)], dst := some d, revg := none, dbg := none,
              rollback := false, dmg := [], unwind := 0, fault := none, waiting := false }
          .ok { s := (c.s.release c.g.core c.gid .device).begin c.gid r, count := false, sealed := false, jump := true })

/-- GRADE (R261). -/
def execGrade (g : Guard) (gr : Grade) (s : State) : Out :=
  issue 2 g s (fun c => c.sealing (fun c => .ok (c.s.setGroup c.gid { c.g with grade := gr })))

/-- HSTASH (R262). -/
def execHstash (g : Guard) (a : KReg) (s : State) : Out :=
  regOp 2 g s (fun c => .ok (if c.ex = 0#32 then c.g else c.g.pushBoth (.stash (c.g.rdK a.toNat))))

/-- HQUERY (R263): 0x0403 when a line that it reads is damaged. What it reports of %hsp is as it stands before its own entries are
pushed (DESIGN CHOICE, log 55). -/
def execHquery (q : Query) (g : Guard) (d a : KReg) (s : State) : Out :=
  regOp 2 g s (fun c => do
    if c.ex = 0#32 then return c.g
    else
      let n := c.g.queryDepth q (c.g.rdK a.toNat)
      need (!c.g.badWithin n) (.berm 0x0403#16 none 0#64 0#64)
      let (x, y) := c.g.query q (c.g.rdK a.toNat)
      return (if n = 0 then c.g else c.g.lookDown n).setK2 c.ex d.toNat x y)

end Sys2Proof.Machine
end

