-- ==== Sys2Proof/Machine/Launch.lean ====
section
/-! DEFINITION. Machine/Launch.lean: launch records, their layout and validation (14_task_engine R341, R342, R440, 01 R18,
R27), and the queueing of a grid (R343, R358, R362). -/

namespace Sys2Proof.Machine

/-! An engine's own reads. -/

/-- The places of n bytes from a virtual address; `none` when a page is missing. -/
def State.vaPlaces (s : State) (ctx va n : Nat) : Option (List Place) :=
  (List.range n).mapM (fun i => do
    let c ← s.ctxs.get ctx
    let p ← c.pageAt (va + i)
    pagePlace p (va + i))

/-- The n bytes from a virtual address, at their homes, or why they cannot be read: a page is missing, a range lock covers one, or
one lies in an uncorrectable word or behind a failed port (R184, R185, R208, R427). -/
def State.vaRead (s : State) (ctx va n : Nat) : Except Cause (List Byte) :=
  match s.vaPlaces ctx va n with
  | none => .error 0x0302#16
  | some ps =>
    if ps.any s.locked then .error 0x0305#16
    else if s.consumes noCore 0 .global .load ps then .error 0x0307#16
    else .ok (ps.map s.homeRead)

def State.vaBytes (s : State) (ctx va n : Nat) : Option (List Byte) := (s.vaRead ctx va n).toOption

/-! The layout (R341, R273). -/

def slotAt (bs : List Byte) (o : Nat) : FSlot :=
  { elem := bs.getD o 0#8, scale := bs.getD (o + 1) 0#8, satp := bs.getD (o + 2) 0#8, nanp := bs.getD (o + 3) 0#8,
    tscale := w32 (leAt bs (o + 4) 4), rest := w64 (leAt bs (o + 8) 8) }

/-- The fields of the 256 bytes of a record. `junk` marks a bit above a handler address or a code that must be zero. -/
def launchOf (bs : List Byte) : LaunchRec :=
  let n (o k : Nat) : Nat := leAt bs o k
  let q (o : Nat) : DWord := w64 (leAt bs o 8)
  { entry := q 0, clusters := n 8 4, cw := n 12 1, ch := n 13 1, groups := n 14 1, lanes := n 15 1, regs := n 16 2,
    accs := n 18 1, carve := n 19 1, grade := n 20 1, hbuf := n 21 1, succ := n 22 1, spill := n 23 1, cstore := n 24 4,
    priv := n 28 2, bint := n 30 2, slots := (List.range 8).map (fun i => slotAt bs (32 + 16 * i)), emuh := q 160,
    surr := q 168, auxh := q 176, ltr := q 184, preset := (List.range 8).map (fun i => q (192 + 8 * i)),
    junk := fld (q 0) 57 7 != 0 || fld (q 160) 57 7 != 0 || fld (q 168) 61 3 != 0 }

/-! Validation (R342, R440). -/

/-- The core store that goes with a carve-out, in bytes (R4). -/
def csOf (carve : Nat) : Nat := 1024 * [2560, 2304, 1792, 768].getD carve 0
/-- The L1 of a carve-out code, in bytes (R341). -/
def l1Of (carve : Nat) : Nat := 1024 * [256, 512, 1024, 2048].getD carve 0

/-- Whether each group is allotted the handler window (R27). -/
def LaunchRec.window (l : LaunchRec) (aux : List DWord) : Bool :=
  toCAddr l.emuh != 0#57 || toCAddr l.surr != 0#57 || aux.any (fun a => a != 0#64)

/-- Bytes of a group's spillway: the context's, or the record's own (R341 SPILL). -/
def LaunchRec.spillBytes (l : LaunchRec) (ctxSpill : Nat) : Nat := if l.spill = 0 then ctxSpill else 65536 * 4 ^ (l.spill - 1)

/-- Registers of a group in its quadrant's file at its start (R27). -/
def LaunchRec.allot (l : LaunchRec) (aux : List DWord) : Nat := l.regs + if l.window aux then 16 else 0

def LaunchRec.aligned (l : LaunchRec) : Bool := l.entry.toNat % 4 == 0 && l.ltr.toNat % 64 == 0

def LaunchRec.shape (l : LaunchRec) : Bool :=
  decide (1 ≤ l.clusters ∧ l.clusters ≤ 2 ^ 24 ∧ 1 ≤ l.cw ∧ l.cw ≤ 8 ∧ 1 ≤ l.ch ∧ l.ch ≤ 8 ∧ l.cw * l.ch ≤ 12 ∧
    1 ≤ l.groups ∧ l.groups ≤ 32 ∧ 1 ≤ l.lanes ∧ l.lanes ≤ 32 ∧ l.grade ≤ 2 ∧ l.hbuf ≤ 3 ∧ l.carve ≤ 3 ∧ l.succ ≤ 3 ∧
    256 ≤ l.bint) && !l.junk

/-- One team fits one core (R27): eight slots and 2,048 registers a quadrant, 256 KiB of history, the carve-out's store. -/
def LaunchRec.resources (l : LaunchRec) (aux : List DWord) (ctxSpill : Nat) : Bool :=
  decide (16 ≤ l.regs ∧ l.regs ≤ 256 ∧ l.regs % 16 = 0 ∧ l.accs ≤ 48 ∧ l.cstore % 1024 = 0 ∧ l.cstore ≤ csOf l.carve ∧
    l.priv ≤ 16384 ∧ l.spill ≤ 7 ∧ l.spillBytes ctxSpill ≤ ctxSpill ∧ l.allot aux ≤ 256 ∧
    (l.groups + 3) / 4 * l.allot aux ≤ 2048 ∧ l.groups * (1024 * 2 ^ l.hbuf) ≤ 256 * 1024)

def LaunchRec.handlersOk (l : LaunchRec) (aux : List DWord) : Bool :=
  l.emuh.toNat % 4 == 0 && l.surr.toNat % 4 == 0 && aux.all (fun a => a.toNat % 4 == 0) && decide (fld l.surr 57 4 ≤ 8)

/-- The cores that are enabled (R425). -/
def State.enabled (s : State) (core : Nat) : Bool := (s.enabledMask (core / 64)).getLsbD (core % 64)

/-- The rectangles of the grid's shape on one die, in order of their first core (R18, R20). -/
def rectangles (w h : Nat) : List (List Nat) :=
  (List.range 4).flatMap (fun die => (List.range (9 - h)).flatMap (fun r => (List.range (9 - w)).map (fun c =>
    (List.range (w * h)).map (fun i => 64 * die + 8 * (r + i / w) + c + i % w))))

/-- Whether a die has a rectangle of enabled cores of the shape (R18, R425; DEDUCED, log 32). -/
def State.fitsDie (s : State) (w h : Nat) : Bool := (rectangles w h).any (fun r => r.all s.enabled)

/-- The reason of a refusal, the lowest that holds (R440). `at_` is the record's address; `fits` tells whether a die
has room for the shape. -/
def LaunchRec.reason (l : LaunchRec) (at_ : DWord) (aux : List DWord) (ctxSpill : Nat) (fits : Bool) : Option Nat :=
  if at_.toNat % 256 ≠ 0 || !l.aligned then some 1
  else if !l.shape || !fits then some 2
  else if !l.resources aux ctxSpill then some 3
  else if l.slots.any (fun f => f.rest != 0#64) then some 4
  else if !l.handlersOk aux then some 5
  else none

/-- The table at AUXH, or why it cannot be read: three addresses; none when AUXH is 0 (R341). -/
def State.auxRead (s : State) (ctx : Nat) (auxh : DWord) : Except Cause (List DWord) :=
  if auxh = 0#64 then .ok []
  else (s.vaRead ctx auxh.toNat 24).map (fun bs => (List.range 3).map (fun i => w64 (leAt bs (8 * i) 8)))

def State.auxTable (s : State) (ctx : Nat) (auxh : DWord) : Option (List DWord) := (s.auxRead ctx auxh).toOption

/-! Queueing a grid. -/

/-- The lowest nonzero %grid that no live grid of the context has (R343; DESIGN CHOICE, log 33). -/
def State.freeGridNo (s : State) (ctx : Nat) : Nat :=
  let used := (s.grids.filter (fun g => g.2.ctx == ctx)).map (fun g => g.2.gridNo)
  (((List.range (used.length + 1)).map (· + 1)).find? (fun n => !used.contains n)).getD 0

/-- Where the context keeps the child that a grid launched last. -/
def childKey (grid : Nat) : Nat := 2 ^ 16 + grid

/-- Queues a grid: its key, its %grid, the state. `last` is where its predecessor stands (R358). -/
def State.queueGrid (s : State) (ctx : Nat) (l : LaunchRec) (aux : List DWord) (join : Option DWord) (parent : Option Nat)
    (last ltrHead : Nat) : Nat × Nat × State :=
  let no := s.freeGridNo ctx
  let (id, s) := s.newId
  let pred := if l.succ % 2 = 1 then (s.ctxs.get ctx).bind (fun c => c.ringLast.get last) else none
  let g : Grid :=
    { ctx := ctx, gridNo := no, lrec := l, join := join, pred := pred, parent := parent, emuh := l.emuh, surr := l.surr,
      aux := aux, window := l.window aux, hinted := [], started := [], ended := [], reserved := [], ltrHead := ltrHead, killed := none }
  (id, no, ({ s with grids := s.grids.put id g }).updCtx ctx (fun c => { c with ringLast := c.ringLast.put last id }))

/-- The context's queue of grids: those of which no team has started (R362, R406). -/
def State.childQueue (s : State) (ctx : Nat) : Nat :=
  (s.grids.filter (fun g => g.2.ctx == ctx && g.2.started.isEmpty)).length

/-- Whether the predecessor that a dependent grid names has ended (R358). -/
def State.predEnded (s : State) (g : Grid) : Bool := g.pred.elim true (fun p => (s.grids.get p).isNone)

/-- The number of teams of a grid. -/
def LaunchRec.teams (l : LaunchRec) : Nat := l.clusters * (l.cw * l.ch)

/-- Whether every team of a grid has given its hint or has ended (R358). -/
def Grid.allHinted (g : Grid) : Bool := decide ((g.hinted ++ g.ended).eraseDups.length = g.lrec.teams)

/-- Whether the grid's teams may become resident as far as its predecessor goes: it has ended, or SUCC[1] is clear and its
teams have hinted (R358). -/
def State.mayStart (s : State) (g : Grid) : Bool :=
  s.predEnded g ||
    (decide (g.lrec.succ / 2 % 2 = 0) && (g.pred.bind (fun p => s.grids.get p)).elim true (fun p => p.allHinted))

end Sys2Proof.Machine
end

