-- ==== Sys2Proof/Machine/System.lean ====
section
/-! DEFINITION. Machine/System.lean: row F (17_traps R399 to R406): TRAP, the returns from handlers, BKPT, NOP, the access to
another group's state, REVG, LAUNCH; and the entry of an encoding to emulation (02 R55). -/

namespace Sys2Proof.Machine

/-! TRAP (R400). -/

/-- The implicit commit stays made when the service request is raised. -/
def Iss.trap (c : Iss) (d a : KReg) (code : Byte) : Run Fin :=
  if c.ex = 0#32 then .ok (c.done c.g)
  else do
    let s ← c.s.commit c.gid
    match s.groups.get c.gid with
    | none => return c.doneS s
    | some g =>
      .error (.wait (s.toBerm c.gid g c.sn 0x0903#16 c.ex c.pc (g.rdK a.toNat) (w64 (2 ^ 32 * code.toNat)) c.len (some d)))

/-! Returns (R390, R401). -/

/-- The close frame, when the open frame is on the stack (R249). -/
def Group.pushClose (g : Group) (f : HFrame) (counted retry : Bool) : Group :=
  if f.frameOpen && g.recGrade == .step then g.push (.emuframe f.at_ g.ic true counted retry g.depth) g.cur else g

/-- The clause that goes on after the trapping instruction. -/
def Clause.after (cl : Clause) : Option Clause := if cl.left ≤ 1 then none else some { cl with left := cl.left - 1 }

/-- A return that leaves the group's state in `g`, counting or not. -/
def Iss.returned (c : Iss) (g : Group) (count : Bool) : Fin :=
  { s := c.s.setGroup c.gid g, count := count, sealed := false, jump := true }

/-- After the trapping instruction, or after the clause that vectored whole (R60). -/
def Group.leaveAfter (g : Group) (f : HFrame) : Group :=
  g.leave f (f.at_ + BitVec.ofNat 57 (4 * f.parcels)) (if f.whole then none else f.clauseAside.bind Clause.after)

/-- The innermost frame; outside handler mode the return is a privilege fault (R401). -/
def Iss.frame (c : Iss) : Run HFrame :=
  match c.g.frames with
  | f :: _ => .ok f
  | [] => raise 0x0901#16

def wrongReturn {α : Type} : Run α := raise 0x0908#16

/-- ERET. In system mode outside every handler it returns from Berm's own trap entry, to a state the manual does not lay
down (DESIGN CHOICE, log 19). -/
def Iss.eret (c : Iss) : Run Fin :=
  if c.g.frames.isEmpty && c.g.mode == .system then
    let g := { c.g with
      splits := c.g.splits.upd c.sn (fun sp => { sp with pc := Config.trapReturn c.s.fresh, mid := none })
      clause := none }
    .ok { s := { c.s.setGroup c.gid g with fresh := c.s.fresh + 1 }, count := false, sealed := false, jump := true }
  else do
    let f ← c.frame
    match f.kind with
    | .emulation => wrongReturn
    | .surrender => wrongReturn
    | .historyFull =>
      let g := c.g.leave f f.at_ f.clauseAside
      return c.returned g false
    | _ => return c.returned ((c.g.pushClose f false false).leave f f.at_ f.clauseAside) false

/-- The history-full handler's return remembers where it returned to (R238): the state after it has retired. -/
def Group.rememberReturn (g : Group) (f : HFrame) : Group :=
  { g with hist := { g.hist with
      fullRet := g.hist.fullRet.filter (fun (r : Nat × CAddr × Bool) => r.1 != f.split) ++ [(f.split, f.at_, f.parcels == 0)] } }

def Iss.eretSkip (c : Iss) : Run Fin :=
  if c.g.frames.isEmpty && c.g.mode == .system then wrongReturn
  else do
    let f ← c.frame
    match f.kind with
    | .stackLimit => return c.returned ((c.g.pushClose f true false).leaveAfter f) (c.g.depth == 1)
    | _ => wrongReturn

/-- The address in w4. -/
def Group.w4 (g : Group) : CAddr := toCAddr (g.rdK 60)

/-- EMURET with w4 changed: a transfer of the whole trapping split (R401). -/
def Iss.emuretTo (c : Iss) (f : HFrame) (count : Bool) : Run Fin := do
  let t := c.g.w4
  let h ← c.s.isHeader c.g.ctx t
  need h (.berm 0x0101#16 none (t.setWidth 64) 0#64)
  let old := (f.aside.get f.split).elim (0#57, 0#48) (fun sp => (sp.cfrPc, sp.cfrIc))
  let g := ((c.g.pushClose f true false).pushStep (.cf old.1 old.2)).leave f t none
  let ic := if count then c.g.ic + 1#48 else c.g.ic
  return c.returned { g with splits := g.splits.upd f.split (fun sp => { sp with cfrPc := f.at_, cfrIc := ic }) } count

def Iss.emuret (c : Iss) : Run Fin :=
  if c.g.frames.isEmpty && c.g.mode == .system then wrongReturn
  else do
    let f ← c.frame
    if f.kind ≠ .emulation then wrongReturn
    else
      let count := c.g.depth == 1
      if c.g.w4 = f.at_ then return c.returned ((c.g.pushClose f true false).leaveAfter f) count
      else c.emuretTo f count

def Iss.emuretRetry (c : Iss) : Run Fin :=
  if c.g.frames.isEmpty && c.g.mode == .system then wrongReturn
  else do
    let f ← c.frame
    if f.kind ≠ .emulation then wrongReturn
    else if f.committed then raise 0x0405#16
    else
      let t := c.g.w4
      let g := c.g.pushClose f false true
      if t = f.at_ then return c.returned (g.leave f t f.clauseAside) false
      else do
        let h ← c.s.isHeader c.g.ctx t
        if h then return c.returned (g.leave f t none) false
        else match c.s.clauseAt c.g.ctx t with
          | some cl => return c.returned (g.leave f t (some cl)) false
          | none => raiseA 0x0101#16 (t.setWidth 64)

/-! BKPT, NOP (R402, R403). -/

/-- With a session attached the group halts at the next clause header, and the event carries the tag. -/
def Iss.bkpt (c : Iss) (tag : Byte) : Fin :=
  if c.s.attached c.g.ctx then
    let ic := if c.counts then c.g.ic + 1#48 else c.g.ic
    let e := { c.g.event 0x0904 (tag.setWidth 64) c.nextPc with ic := ic }
    c.doneS ((c.s.setGroup c.gid { c.g with halted := true }).updCtx c.g.ctx (fun x => x.dbgPost e))
  else c.done c.g

/-! Another group's state (R399, R404). -/

/-- Whether an instruction that acts on a group acts now: the group stands at a boundary, halted, parked or waiting. -/
def Group.actable (g : Group) : Bool := g.clause.isNone && !g.revWaits && (!g.dir || (g.hist.rev.bind (·.fault)).isSome)

/-- The group that a locator names, or the status (R399, R411). `monitor` is the debug monitor's group that asks, whose session must
be that of the group's context. -/
def State.locate (s : State) (monitor : Option Nat) (loc : DWord) : Except Nat (Nat × Group) :=
  let ctx := fld loc 16 16
  let at_ (g : Group) : Bool := g.ctx == ctx && g.core == fld loc 0 8 && g.slot == fld loc 8 5
  if fld loc 13 3 ≠ 0 ∨ fld loc 32 32 ≠ 0 then .error 2
  else match s.ctxs.get ctx with
    | none => .error 2
    | some c =>
      if monitor.any (fun m => !(c.dbg.right && c.dbg.attached && c.dbg.monitor == m)) then .error 3
      else match s.groups.find? (fun x => at_ x.2) with
        | some x => .ok x
        | none => .error (if c.image.elim false (fun i => i.groups.any (fun x => at_ x.2)) then 5 else 2)

/-- The item that a selector names; `none` is status 4. Per-split registers are those of the split that stands for the
group, and %lane is the lane that the selector names (DEDUCED, log 39). A window that the launch allotted is held in and out
of handler mode. -/
def Group.item (g : Group) (sel : DWord) : Option DWord :=
  let n := fld sel 4 8
  let l := fld sel 12 5
  let winV := g.frames.head?.elim g.winV (·.winV)
  let winW := g.frames.head?.elim g.winW (·.winW)
  if fld sel 17 47 ≠ 0 then none
  else match fld sel 0 4 with
    | 0 => if n < g.regs then some (zext64 (g.rdV (.own n) l)) else none
    | 1 => if n < 64 then some (if n = 0 then 0#64 else g.k.get n) else none
    | 2 => if n < 64 then some ((if n = 63 then fullMask else g.p.get n).setWidth 64) else none
    | 3 => if n = 0x01 then none
           else (g.splits.get g.standing).bind (fun sp => g.special g.standing sp l (BitVec.ofNat 8 n))
    | 4 => if 16 ≤ n then none
           else (g.splits.get (n / 4)).map (fun sp =>
             [sp.pc.setWidth 64, sp.mask.setWidth 64, sp.cfrPc.setWidth 64, sp.cfrIc.setWidth 64].getD (n % 4) 0#64)
    | 5 => if n < 12 then some ((g.flags.get n).setWidth 64) else none
    | 6 => if g.window && decide (n < 16) then some (zext64 (winV.get (32 * n + l))) else none
    | 7 => if g.window && decide (n < 8) then some (winW.get n) else none
    | _ => none

/-- The group with an item written; `none` is status 4. Of the words of a split, those of %cfr are RO⁺ (R87). -/
def Group.putItem (g : Group) (sel x : DWord) : Option Group :=
  let n := fld sel 4 8
  let l := fld sel 12 5
  if fld sel 17 47 ≠ 0 then none
  else match fld sel 0 4 with
    | 0 => if n < g.regs then some (g.wrV (.own n) (BitVec.twoPow 32 l) (fun _ => loW x)) else none
    | 1 => if n < 64 then some (if n = 0 then g else { g with k := g.k.set n x }) else none
    | 2 => if n < 64 then some (if n = 63 then g else { g with p := g.p.set n (loW x) }) else none
    | 3 => g.putSpecial (BitVec.ofNat 8 n) x
    | 4 => if n < 16 then (g.splits.get (n / 4)).bind (fun sp => match n % 4 with
        | 2 => some { g with splits := g.splits.put (n / 4) { sp with cfrPc := x.setWidth 57 } }
        | 3 => some { g with splits := g.splits.put (n / 4) { sp with cfrIc := x.setWidth 48 } }
        | _ => none) else none
    | 6 => if g.window && decide (n < 16) then some (match g.frames with
        | f :: t => { g with frames := f.wrV n (BitVec.twoPow 32 l) (fun _ => loW x) :: t }
        | [] => { g with winV := g.winV.set (32 * n + l) (loW x) }) else none
    | 7 => if g.window && decide (n < 8) then some (match g.frames with
        | f :: t => { g with frames := { f with winW := f.winW.set n x } :: t }
        | [] => { g with winW := g.winW.set n x }) else none
    | _ => none

/-- The edit of a group, after the commit of its history (R404); `none` is status 4. -/
def State.editGroup (s : State) (gid : Nat) (g : Group) (sel x : DWord) : Option State :=
  match g.putItem sel x with
  | none => none
  | some _ =>
    let s := s.commitOuter gid g.core g.drops
    match s.groups.get gid with
    | none => none
    | some g =>
      ({ g.commitBelow g.baseSnapshot with drops := [] } : Group).putItem sel x |>.map (fun g =>
        s.setGroup gid { g with hist := { g.hist with snap := g.baseSnapshot } })

/-- The issuing mode may act on other groups (R54). -/
def Iss.mayEdit (c : Iss) : Run Unit := need (c.g.mode != .user) (.berm 0x0901#16 none 0#64 0#64)

def Iss.monitor (c : Iss) : Option Nat := if c.g.mode = .monitor then some c.gid else none

def Iss.mfg (c : Iss) (d a b : KReg) : Run Fin := do
  c.mayEdit
  if c.ex = 0#32 then return c.done c.g
  else
    let keep := c.g.rdK d.toNat
    let ans (x : DWord) (status : Nat) : Fin := c.done (c.g.setK2 c.ex d.toNat x (w64 status))
    match c.s.locate c.monitor (c.g.rdK a.toNat) with
    | .error e => return ans keep e
    | .ok (_, t) =>
      need t.actable .stall
      match t.item (c.g.rdK b.toNat) with
      | some x => return ans x 0
      | none => return ans keep 4

/-- The answer of MTG and REVG in K(D + 1). -/
def State.answer (s : State) (gid : Nat) (d : KReg) (status : Nat) : State :=
  s.updGroup gid (fun g => g.wrK (d.toNat + 1) (w64 status))

def Iss.mtg (c : Iss) (d a b : KReg) : Run Fin := do
  c.mayEdit
  if c.ex = 0#32 then return c.done c.g
  else
    let sel := c.g.rdK b.toNat
    let x := c.g.rdK d.toNat
    match c.s.locate c.monitor (c.g.rdK a.toNat) with
    | .error e => c.sealing (fun c => .ok (c.s.answer c.gid d e))
    | .ok (i, t) =>
      need (t.actable && !c.s.memwOpen i) .stall
      c.sealing (fun c => .ok (match (c.s.groups.get i).bind (fun t => c.s.editGroup i t sel x) with
        | some s => s.answer c.gid d 0
        | none => c.s.answer c.gid d 4))

/-! REVG (R405). -/

/-- The reversal that another party orders. Until the walk moves a split, it stays where it stands. -/
def State.orderedRev (s : State) (g : Group) (target land : Count) (rounded : Bool) (info : DWord) : Rev :=
  { target := target, land := land, rounded := rounded, info := some info, marked := g.grade == .mark,
    s := if (g.splits.get g.lastSplit).isSome then g.lastSplit else (g.splits.head?.map (·.1)).getD 0,
    pos := [], dst := none, revg := none, dbg := none, rollback := false, dmg := [], unwind := 0, fault := none,
    waiting := false }

/-- The target begins its reversal, or waits as R240 states, issuing nothing meanwhile (R405). -/
def State.orderRev (s : State) (i : Nat) (t : Group) (r : Rev) : State :=
  if s.mayReverse i t then (s.release t.core i .device).begin i r
  else s.updGroup i (fun g => { g with hist := { g.hist with rev := some { r with waiting := true } } })

def Iss.revg (c : Iss) (d a b kc : KReg) : Run Fin := do
  c.mayEdit
  if c.ex = 0#32 then return c.done c.g
  else
    match c.s.locate c.monitor (c.g.rdK a.toNat) with
    | .error e => c.sealing (fun c => .ok (c.s.answer c.gid d e))
    | .ok (i, t) => do
      need (t.actable && !t.dir) .stall
      if t.inHandler then c.sealing (fun c => .ok (c.s.answer c.gid d 6))
      else
        let target := c.g.rdK b.toNat
        match t.landing target with
        | none => c.sealing (fun c => .ok ((c.s.updGroup c.gid (fun g => g.wrK d.toNat (t.ic.setWidth 64))).answer c.gid d 1))
        | some (land, rounded) =>
          c.sealing (fun c =>
            let s := c.s.updGroup c.gid (fun g =>
              { g with splits := g.splits.upd c.sn (fun sp => { sp with wait := .revg i }) })
            let r := { s.orderedRev t (target.setWidth 48) land rounded (c.g.rdK kc.toNat) with revg := some (c.gid, d) }
            .ok (s.orderRev i t r))

/-! LAUNCH (R406). -/

/-- The record of a launch and its auxiliary table, read through the context's pages, or why they cannot be read. -/
def State.launchRead (s : State) (ctx : Nat) (a : DWord) : Except Cause (LaunchRec × List DWord) := do
  let bs ← s.vaRead ctx (a.setWidth 57).toNat 256
  let aux ← s.auxRead ctx (launchOf bs).auxh
  return (launchOf bs, aux)

def State.launchAt (s : State) (ctx : Nat) (a : DWord) : Option (LaunchRec × List DWord) := (s.launchRead ctx a).toOption

/-- Validation of a host's launch: reason 6 besides those of R342 (R440). -/
def State.hostReason (s : State) (ctx ring : Nat) (a : DWord) (l : LaunchRec) (aux : List DWord) : Option Nat :=
  match l.reason a aux ((s.ctxs.get ctx).elim 0 (·.spill)) (s.fitsDie l.cw l.ch) with
  | some r => some r
  | none => if l.succ % 2 = 1 && !((s.ctxs.get ctx).elim false (fun c => c.rings.contains ring)) then some 6 else none

/-- Queues a launch, or refuses it: K(D) as GRIDL gives it, and the state. -/
def State.launch (s : State) (ctx ring : Nat) (a : DWord) (l : LaunchRec) (aux : List DWord) (join : Option DWord) :
    DWord × State :=
  match s.hostReason ctx ring a l aux with
  | some r => (w64 (1 + 256 * r), s)
  | none =>
    if 64 ≤ s.childQueue ctx then (2#64, s)
    else
      let head := (s.vaBytes ctx (l.ltr.setWidth 57).toNat 16).elim 0 leNat
      let (_, no, s) := s.queueGrid ctx l aux join none ring (if l.ltr = 0#64 then 0 else head)
      (w64 (2 ^ 32 * no), s)

/-- The record is read as the issuing group's released stores leave it (R207, R215). -/
def Iss.launch (c : Iss) (d a b kc : KReg) : Run Fin := do
  need (c.g.mode == .system) (.berm 0x0901#16 none 0#64 0#64)
  if c.ex = 0#32 then return c.done c.g
  else
    let x := c.g.rdK b.toNat
    let ctx := fld x 0 16
    let at_ := c.g.rdK a.toNat
    let join := if kc = 0#6 then none else some (c.g.rdK kc.toNat)
    if fld x 32 32 ≠ 0 then c.sealing (fun c => .ok (c.s.answer c.gid d 4))
    else if (c.s.ctxs.get ctx).isNone then c.sealing (fun c => .ok (c.s.answer c.gid d 2))
    else if at_.toNat % 256 ≠ 0 then
      c.sealing (fun c => .ok ((c.s.updGroup c.gid (fun g => g.wrK d.toNat 0x0101#64)).answer c.gid d 0))
    else match (c.s.release c.g.core c.gid .device).launchRead ctx at_ with
      | .error e => raiseA e at_
      | .ok _ => c.sealing (fun c => match c.s.launchRead ctx at_ with
        | .error e => raiseA e at_
        | .ok (l, aux) =>
          let (v, s) := c.s.launch ctx (fld x 16 16) at_ l aux join
          .ok ((s.updGroup c.gid (fun g => g.wrK d.toNat v)).answer c.gid d 0))

/-! The meanings. -/

def execTrap (g : Guard) (d a : KReg) (code : Byte) (s : State) : Out := issue 2 g s (fun c => c.trap d a code)

/-- ERET (R401). A return from the history-full handler is remembered once it has retired (R238). -/
def execEret (s : State) : Out :=
  match issue 1 always s (fun c => c.eret), s.issuer with
  | .next s', some (g, _, _) =>
    match g.frames, s'.groups.get s.cur with
    | f :: _, some g' =>
      if f.kind = .historyFull ∧ g'.depth < g.depth then .next (s'.setGroup s.cur (g'.rememberReturn f)) else .next s'
    | _, _ => .next s'
  | o, _ => o

def execEretSkip (s : State) : Out := issue 1 always s (fun c => c.eretSkip)
def execEmuret (s : State) : Out := issue 1 always s (fun c => c.emuret)
def execEmuretRetry (s : State) : Out := issue 1 always s (fun c => c.emuretRetry)
def execBkpt (tag : Byte) (s : State) : Out := issue 1 always s (fun c => .ok (c.bkpt tag))
def execNop (s : State) : Out := regOp 1 always s (fun c => .ok c.g)
def execNopW (g : Guard) (s : State) : Out := regOp 2 g s (fun c => .ok c.g)
def execNopL (g : Guard) (_lit : Word) (s : State) : Out := regOp 3 g s (fun c => .ok c.g)
def execMfg (g : Guard) (d a b : KReg) (s : State) : Out := issue 2 g s (fun c => c.mfg d a b)
def execMtg (g : Guard) (d a b : KReg) (s : State) : Out := issue 2 g s (fun c => c.mtg d a b)
def execRevg (g : Guard) (d a b c : KReg) (s : State) : Out := issue 2 g s (fun i => i.revg d a b c)
def execLaunch (g : Guard) (d a b c : KReg) (s : State) : Out := issue 2 g s (fun i => i.launch d a b c)

/-- The guard field of raw parcels (R47). -/
def rawGuard (n : Nat) (p1 : Word) : Guard :=
  if n = 1 then always else ⟨p1.extractLsb' 8 6, p1.getLsbD 14⟩

/-- EMULATION_ENTRY: the instruction at the issue point has no native meaning (R55, R61, R388, R389). -/
def execEmulationEntry (cause : Cause) (p0 p1 p2 : Word) (s : State) : Out :=
  match s.issuer with
  | none => .fault .noIssuer
  | some (g, sp, _) =>
    let n := lenCode p0 + 1
    if g.overBudget then .next s
    else .next (s.emulate s.cur g sp cause sp.pc p0 p1 p2 n false (sp.mask &&& g.guard (rawGuard n p1)))

end Sys2Proof.Machine
end

