-- ==== Sys2Proof/Machine/Task.lean ====
section
/-! DEFINITION. Machine/Task.lean: the instructions of the task engine (14_task_engine R345 to R348, R353 to R359, R361,
R362): records, events, task records, BAR, GROW, YIELD, GRIDL, successors, messages. -/

namespace Sys2Proof.Machine

/-! Waits (R348). -/

/-- A class S instruction whose lanes of Exec may wait: when `wait` holds, they become records that `put` stores. -/
def Iss.waiting (c : Iss) (wait : Bool) (rs : List Rec) (put : State → List Rec → State) (other : State → State) :
    Run Fin := do
  let f ← c.sealing (fun c => .ok (if wait then c.leaveAs (put c.s rs) c.ex else other c.s))
  return { f with jump := wait }

/-- The issuing team waits in no handler (R385). -/
def Iss.notInHandler (c : Iss) : Run Unit := need (!c.g.inHandler) (.berm 0x0907#16 none 0#64 0#64)

/-! SPAWN (R345, R346, R348). -/

/-- The records that SPAWN may still take: the free part at its first size. -/
def State.poolRoom (s : State) (ctx : Nat) : Nat := (s.ctxs.get ctx).elim 0 (fun c => c.pool.free0) - s.occupancy ctx

def State.depthFirst (s : State) (ctx : Nat) : Bool := (s.ctxs.get ctx).elim false (fun c => c.pool.depth)

/-- A SPAWN issued in depth-first mode holds the group's next one for T cycles, T growing (R346). -/
def State.holdSpawn (s : State) (gid ctx : Nat) : State :=
  if s.depthFirst ctx then
    let s := s.updCtx ctx (fun c => { c with pool := { c.pool with rateT := min 4096 (max 64 (2 * c.pool.rateT)) } })
    { s.updGroup gid (fun g => { g with spawnHold := true }) with timers := s.timers ++ [.spawnRateExpiry gid] }
  else s

def Iss.spawn (c : Iss) (bind : Bind) (d : PReg) (target : CAddr) (b : VReg) (n : Nat) : Run Fin := do
  let locs ← c.g.locRun b.toNat n
  if c.ex = 0#32 then return c.done c.g
  else do
    let h ← c.s.isHeader c.g.ctx target
    need h (.berm 0x0101#16 none (target.setWidth 64) 0#64)
    need (!(c.s.depthFirst c.g.ctx && c.g.spawnHold)) .stall
    c.sealing (fun c =>
      let lanes := (lanesOf c.ex).take (c.s.poolRoom c.g.ctx)
      let budget := (c.s.grids.get c.g.grid).elim 0 (fun g => g.lrec.regs)
      let rs := lanes.map (fun l => c.g.record l target bind b.toNat locs budget)
      let s := c.s.updGroup c.gid (fun g => g.wrP d.toNat c.ex (maskOf (fun l => lanes.contains l)))
      .ok ((s.holdSpawn c.gid c.g.ctx).makeReady c.g.ctx rs))

/-! Events (R353 to R355). -/

def eventName (x : DWord) : Nat := fld x 0 16

/-- Live events in the device's table (R353). -/
def State.tableEvents (s : State) : Nat :=
  (s.ctxs.map (fun c => (c.2.events.filter (fun e => !e.2.overflow)).length)).sum

/-- EVNEW: the pair of the value written and the state with the name allocated. The lowest free name is taken (DESIGN CHOICE,
log 33). -/
def State.newEvent (s : State) (ctx : Nat) : DWord × State :=
  match Tbl.freeFrom ((s.ctxs.get ctx).elim [] (fun c => c.events)) 1 65535 with
  | none => (BitVec.twoPow 64 33, s)
  | some n =>
    let ovf := decide (4096 ≤ s.tableEvents)
    (w64 (n + if ovf then 2 ^ 32 else 0),
      s.updCtx ctx (fun c => { c with events := c.events.put n ⟨false, ovf, []⟩ }))

/-- EVFREE: the status and the state. -/
def State.freeEvent (s : State) (ctx n : Nat) : DWord × State :=
  match (s.ctxs.get ctx).bind (fun c => c.events.get n) with
  | none => (1#64, s)
  | some e => if e.waiters.isEmpty then (0#64, s.updCtx ctx (fun c => { c with events := c.events.del n })) else (2#64, s)

/-- An event's entry; a name not allocated raises 0x0701 (R363). -/
def Iss.eventAt (c : Iss) (n : Nat) : Run Event :=
  match (c.s.ctxs.get c.g.ctx).bind (fun x => x.events.get n) with
  | some e => .ok e
  | none => raise 0x0701#16

def State.addWaiters (s : State) (ctx n : Nat) (rs : List Rec) : State :=
  s.updCtx ctx (fun c => { c with events := c.events.upd n (fun e => { e with waiters := e.waiters ++ rs }) })

/-! Task records (R356). -/

/-- The fields of a record's 32 places. -/
def State.taskCount (s : State) (ps : List Place) : Nat := s.homeNat (ps.take 4)
def State.taskWord (s : State) (ps : List Place) : Nat := s.homeNat ((ps.drop 16).take 8)

def taskPlace (ps : List Place) : Place := ps.headD (.glob 0)

def State.taskWait (s : State) (ctx : Nat) (p : Place) : Option TaskWait :=
  (s.ctxs.get ctx).bind (fun c => c.taskWaits.find? (fun w => w.place == p))

/-- Whether WAITERS holds what the device keeps there (R356, R363). -/
def State.taskSound (s : State) (ctx : Nat) (ps : List Place) : Bool :=
  s.taskWord ps == ((s.taskWait ctx (taskPlace ps)).elim 0#64 (·.word)).toNat

/-- Records join a record's wait list; the device keeps its own word in WAITERS meanwhile. -/
def State.waitTask (s : State) (core ctx : Nat) (ps : List Place) (rs : List Rec) : State :=
  let p := taskPlace ps
  match s.taskWait ctx p with
  | some _ => s.updCtx ctx (fun c => { c with taskWaits := c.taskWaits.map (fun w =>
      if w.place = p then { w with recs := w.recs ++ rs } else w) })
  | none =>
    let x := Config.waitersWord s.fresh
    let s : State := { s with fresh := s.fresh + 1 }
    (s.putBytes core (bytesAt ((ps.drop 16).take 8) x.toNat)).updCtx ctx (fun c =>
      { c with taskWaits := c.taskWaits ++ [⟨p, x, rs⟩] })

/-- The state in which a task record is judged: the issuing group's stores have reached their home, and what others still hold
of the record's places (R207, R215). -/
def Iss.released (c : Iss) (ps : List Place) : State := (c.s.release c.g.core c.gid .device).toHome c.g.core ps

/-- One decrement: the state, and whether it brought COUNT to zero. -/
def State.decTask (s : State) (core ctx : Nat) (ps : List Place) : State × Bool :=
  let n := s.taskCount ps
  if n = 0 then (s, false)
  else
    let s := s.putBytes core (bytesAt (ps.take 4) (n - 1))
    if n = 1 then
      match s.taskWait ctx (taskPlace ps) with
      | none => (s, true)
      | some w =>
        let s := (s.putBytes core (bytesAt ((ps.drop 16).take 8) 0)).updCtx ctx (fun c =>
          { c with taskWaits := c.taskWaits.filter (fun v => v.place != w.place) })
        (s.makeReady ctx w.recs, true)
    else (s, false)

/-- The space of the page that holds a task record; a page that is neither raises 0x0702 (R363). -/
def Iss.taskSpace (c : Iss) (a : DWord) : Run Space :=
  match (c.s.ctxs.get c.g.ctx).bind (fun x => x.page (a.setWidth 57).toNat) with
  | some p => match p.target with
    | .global _ => .ok .global
    | .tile _ => .ok .polder
    | .refused => raiseA 0x0702#16 a
  | none => .ok .global

/-- A lane's decrements in order: the state and the lanes that reached zero. -/
def State.decAll (s : State) (core ctx : Nat) : List Acc → State × Mask
  | [] => (s, 0#32)
  | a :: t =>
    let r := s.decTask core ctx a.places
    let q := r.1.decAll core ctx t
    (q.1, if r.2 then q.2 ||| BitVec.twoPow 32 a.lane else q.2)

/-- CNTDEC (R362): the record's 32 bytes are the access. -/
def Iss.cntdec (c : Iss) (sp : Space) (d : PReg) (a : Src) : Run Fin := do
  let addr ← c.g.src64 a
  if c.ex = 0#32 then return c.done c.g
  else do
    let bad := maskOf (fun l => c.ex.getLsbD l &&
      ((c.s.ctxs.get c.g.ctx).bind (fun x => x.page ((addr l).setWidth 57).toNat)).elim false (fun p => p.target == .refused))
    need (bad == 0#32) (.berm 0x0702#16 (some bad) (addr (lowLane bad)) 0#64)
    let accs ← c.access sp .atomic c.ex addr 32
    let bad := accs.filter (fun x => !(c.released (accs.flatMap (·.places))).taskSound c.g.ctx x.places)
    need bad.isEmpty (.berm 0x0702#16 (some (accMask bad)) (addr (lowLane (accMask bad))) 0#64)
    c.sealing (fun c =>
      let s := c.s.toHome c.g.core (accs.flatMap (·.places))
      let r := s.decAll c.g.core c.g.ctx accs
      .ok (r.1.updGroup c.gid (fun g => g.wrP d.toNat c.ex r.2)))

/-! EVWAIT (R355, R356, R362). -/

def Iss.evwait (c : Iss) (cnt : Bool) (bind : Bind) (a : KReg) (b : VReg) (n : Nat) : Run Fin := do
  c.notInHandler
  let _ ← c.g.locRun b.toNat n
  if c.ex = 0#32 then return c.done c.g
  else do
    let x := c.g.rdK a.toNat
    let rs := c.toRecords c.ex bind b.toNat n
    if cnt then do
      let sp ← c.taskSpace x
      let accs ← c.accessKIn tableOrder sp .atomic x 32
      let ps := accs.flatMap (·.places)
      let s := c.released ps
      need (s.taskSound c.g.ctx ps) (.berm 0x0702#16 none x 0#64)
      { c with s := s }.waiting (s.taskCount ps != 0) rs (fun s rs => s.waitTask c.g.core c.g.ctx ps rs) id
    else do
      let e ← c.eventAt (eventName x)
      c.waiting (!e.fired) rs (fun s rs => s.addWaiters c.g.ctx (eventName x) rs) id

/-! BAR (R82, R362). -/

def Iss.bar (c : Iss) : Run Fin := do
  c.notInHandler
  c.satTest
  let f ← c.sealing (fun c =>
    let g := c.g.advance c.sn c.len
    .ok (c.s.setGroup c.gid
      { g with clause := none, splits := g.splits.upd c.sn (fun sp => { sp with wait := .bar c.sp.pc }) }))
  return { f with jump := true }

/-! GROW (R72, R73, R75). -/

def Iss.grow (c : Iss) (d : PReg) (n : Nat) : Run Fin := do
  c.notInHandler
  if c.ex = 0#32 then return c.done c.g
  else match c.askGrow n with
    | .yes g => return c.done (g.setP c.ex d.toNat fullMask false)
    | .no g => return c.done (g.setP c.ex d.toNat 0#32 false)
    | .wait => .error (.wait (c.waitGrow n))

/-! GRIDL (R30, R342, R362, R440). -/

/-- The launch record that GRIDL reads: its fault when a byte of it or of its auxiliary table cannot be read (R200). -/
def Iss.launchRecord (c : Iss) (a : DWord) : Run (LaunchRec × List DWord) := do
  let accs ← c.accessK .global .load a 256
  let l := launchOf ((accs.flatMap (·.places)).map c.s.homeRead)
  match c.s.auxRead c.g.ctx l.auxh with
  | .ok aux => return (l, aux)
  | .error e => raiseA e l.auxh

def Iss.gridl (c : Iss) (d a b : KReg) : Run Fin :=
  if c.ex = 0#32 then .ok (c.done c.g)
  else do
    let x := c.g.rdK a.toNat
    let answer (s : State) (v : DWord) : State := s.updGroup c.gid (fun g => g.wrK d.toNat v)
    if x.toNat % 256 ≠ 0 then c.sealing (fun c => .ok (answer c.s 0x0101#64))
    else do
      let _ ← { c with s := c.s.release c.g.core c.gid .device }.launchRecord x
      c.sealing (fun c => do
        let (l, aux) ← c.launchRecord x
        match l.reason x aux ((c.s.ctxs.get c.g.ctx).elim 0 (·.spill)) (c.s.fitsDie l.cw l.ch) with
        | some r => return answer c.s (w64 (1 + 256 * r))
        | none =>
          if 64 ≤ c.s.childQueue c.g.ctx then return answer c.s 2#64
          else
            let join := if b = 0#6 then none else some (c.g.rdK b.toNat)
            let (_, no, s) := c.s.queueGrid c.g.ctx l aux join (some c.g.grid) (childKey c.g.grid) 0
            return answer s (w64 (2 ^ 32 * no)))

/-! HINTNEXT, WAITPRED (R358, R362). -/

/-- The issuing team's hint. -/
def State.hint (s : State) (grid teamNo : Nat) : State :=
  s.updGrid grid (fun g => if g.hinted.contains teamNo then g else { g with hinted := g.hinted ++ [teamNo] })

def Iss.waitpred (c : Iss) : Run Fin := do
  c.notInHandler
  match (c.s.grids.get c.g.grid) with
  | none => return c.done c.g
  | some g =>
    if c.s.predEnded g then return c.done c.g else
    c.waiting true (c.toRecords c.sp.mask .team 0 16)
      (fun s rs => s.updCtx c.g.ctx (fun x => { x with predWaits := x.predWaits ++ [⟨c.g.grid, rs⟩] })) id

/-! SEND (R359, R362, R429). -/

/-- The core's send buffer: 64 messages. -/
def State.sendRoom (s : State) (core : Nat) : Nat := 64 - (s.sent.filter (fun m => m.core == core)).length

/-- A frame as it crosses the links: a header of 32 bytes and the message (R429). -/
def Frame.bytes (f : Frame) : List Byte :=
  leBytes 2 (f.dst % 2 ^ 12) ++ leBytes 2 (f.src % 2 ^ 12) ++ leBytes 8 (f.block % 2 ^ 57) ++ leBytes 4 f.sctx ++ leBytes 8 f.seq ++
    leBytes 4 f.sgrid ++ leBytes 4 0 ++ f.data.flatMap (fun w => leBytes 4 w.toNat)

/-- The link that the route table gives a frame, by its destination and its control block (R430). -/
def State.routeOf (s : State) (f : Frame) : Option Nat :=
  (s.routes.find? (fun r => r.dst == f.dst && decide (r.lo ≤ f.block) && decide (f.block < r.lo + r.len))).map (·.link)

/-- A frame goes out on its route; one that has none, its peer's number being unknown, is returned (R359). -/
def State.transmit (s : State) (f : Frame) : State :=
  match s.routeOf f with
  | some l => { s with wire := s.wire ++ [.frame l (Frame.bytes f)] }
  | none => s.post (.messageReturn f.dst f.seq)

/-- Messages posted in order to one destination, each with the next sequence number. -/
def State.postMessages (s : State) (mk : Nat → List Word → Frame) (gid ctx core dst batch : Nat) (flags : List Nat) :
    List (List Word) → State
  | [] => s
  | m :: t =>
    let seq := (s.txSeq.get dst).getD 0
    let x : Sent := { frame := mk seq m, gid := gid, ctx := ctx, flags := flags, core := core, batch := batch }
    State.postMessages ({ s with sent := s.sent ++ [x], txSeq := s.txSeq.put dst ((seq + 1) % 2 ^ 64) }.transmit x.frame) mk gid ctx
      core dst batch flags t

def Iss.send (c : Iss) (fl : SFlags) (d : VReg) (a b : KReg) (p : PReg) : Run Fin := do
  let locs ← c.g.locRun d.toNat 16
  if c.ex = 0#32 then return c.done c.g
  else do
    let flags := c.flagsOf fl
    let _ ← c.g.raiseFlags flags
    c.sealing (fun c => do
      let lanes := (lanesOf c.ex).take (c.s.sendRoom c.g.core)
      let g ← if lanes.isEmpty then pure c.g else c.g.raiseFlags flags
      let g := g.wrP p.toNat (c.ex &&& ~~~(maskOf (fun l => lanes.contains l))) 0#32
      let dst := fld (c.g.rdK b.toNat) 0 12
      let mk (seq : Nat) (m : List Word) : Frame :=
        { dst := dst, src := c.s.deviceNo, block := fld (c.g.rdK a.toNat) 0 57, sctx := c.g.ctx, seq := seq,
          sgrid := c.g.gridNo, data := m }
      let (id, s) := (c.s.visible c.g.core c.gid .system).newId
      return (s.setGroup c.gid g).postMessages mk c.gid c.g.ctx c.g.core dst id flags
        (lanes.map (fun l => locs.map (fun x => c.g.rdV x l))))

/-! The meanings. -/

def execSpawn (bind : Bind) (g : Guard) (d : PReg) (a : KReg) (b : VReg) (n : BitVec 5) (s : State) : Out :=
  issue 2 g s (fun c => c.spawn bind d (toCAddr (c.g.rdK a.toNat)) b n.toNat)

def execSpawnL96 (bind : Bind) (g : Guard) (d : PReg) (off : Word) (b : VReg) (n : BitVec 5) (s : State) : Out :=
  issue 3 g s (fun c => c.spawn bind d (c.sp.pc + toCAddr (sext64 off)) b n.toNat)

/-- EVNEW (R362): the KREG entry restores the register; the name stays allocated. -/
def execEvnew (g : Guard) (d : KReg) (s : State) : Out :=
  issue 2 g s (fun c =>
    if c.ex = 0#32 then .ok (c.done c.g)
    else
      let (x, s) := c.s.newEvent c.g.ctx
      .ok (c.doneS (s.setGroup c.gid (c.uni d x false))))

def execEvfree (g : Guard) (d a : KReg) (s : State) : Out :=
  issue 2 g s (fun c =>
    if c.ex = 0#32 then .ok (c.done c.g)
    else
      let (x, s) := c.s.freeEvent c.g.ctx (eventName (c.g.rdK a.toNat))
      .ok (c.doneS (s.setGroup c.gid (c.uni d x false))))

/-- EVSIG (R354, R362). -/
def execEvsig (scope : Scope) (g : Guard) (a : KReg) (s : State) : Out :=
  issue 2 g s (fun c =>
    if c.ex = 0#32 then .ok (c.done c.g)
    else do
      let n := eventName (c.g.rdK a.toNat)
      let _ ← c.eventAt n
      c.sealing (fun c => .ok ((c.s.visible c.g.core c.gid scope).fireEvent c.g.ctx n)))

def execEvwait (cnt : Bool) (bind : Bind) (g : Guard) (a : KReg) (b : VReg) (n : BitVec 5) (s : State) : Out :=
  issue 2 g s (fun c => c.evwait cnt bind a b n.toNat)

def execCntdec (space : GSpace) (g : Guard) (d : PReg) (a : Src) (s : State) : Out :=
  issue 2 g s (fun c => c.cntdec (gspace space) d a)

def execBar (s : State) : Out := issue 1 always s (fun c => c.bar)

def execGrow (g : Guard) (d : PReg) (n : BitVec 4) (s : State) : Out :=
  issue 2 g s (fun c => c.grow d (16 * (n.toNat + 1)))

/-- YIELD (R90, R362). -/
def execYield_ (s : State) : Out := regOp 1 always s (fun c => .ok { c.g with yielded := true })

def execGridl (g : Guard) (d a b : KReg) (s : State) : Out := issue 2 g s (fun c => c.gridl d a b)

def execHintnext (s : State) : Out :=
  issue 1 always s (fun c => c.sealing (fun c => .ok (c.s.hint c.g.grid c.g.teamNo)))

def execWaitpred (s : State) : Out := issue 1 always s (fun c => c.waitpred)

def execSend (fl : SFlags) (g : Guard) (d : VReg) (a b : KReg) (c : PReg) (s : State) : Out :=
  issue 2 g s (fun i => i.send fl d a b c)

end Sys2Proof.Machine
end

