-- ==== Sys2Proof/Machine/Reside.lean ====
section
/-! DEFINITION. Machine/Reside.lean: how grids, teams and groups start and end: residency (01 R17, R18, R27, R28, R31), the
launch of bins (14 R350, R351), the pool's extension (R345), the ends of teams and grids with joins, launch time records
and successors (R357 to R360, R439), host launches (01 R29), the creation of a context (06 R178, 14 R344). -/

namespace Sys2Proof.Machine

/-! A new group (R31, R67, R87, R343). -/

/-- The bytes of the largest private memory of a group: 16,384 words of 32 lanes (R87, R177). -/
def privBytes : Nat := 16384 * 32 * 4

/-- Where the spillway and the private memory of a group lie: the lowest region of its context that no group has
(DESIGN CHOICE, log 33). -/
def State.freeRegion (s : State) (ctx : Nat) : Nat :=
  match s.ctxs.get ctx with
  | none => 0
  | some c =>
    let gs := (s.groups.filter (fun g => g.2.ctx == ctx)) ++ (c.image.elim [] (·.groups))
    let used := gs.map (fun g => (g.2.privbase.toNat - c.privNext) / privBytes)
    ((List.range (used.length + 1)).find? (fun i => !used.contains i)).getD 0

def initialSplit (pc : CAddr) (m : Mask) : Split := { pc := pc, mask := m, cfrPc := 0#57, cfrIc := 0#48, wait := .ready, mid := none }

def gradeOf (n : Nat) : Grade := if n = 1 then .mark else if n = 2 then .step else .off

/-- The state of a group at its start. `v` holds the registers that records bring. -/
def startGroup (c : Ctx) (region : Nat) (gr : Grid) (grid team core slot : Nat) (t : Team) (groupNo : Nat) (pc : CAddr)
    (m : Mask) (regs : Nat) (v : Cells 32) : Group :=
  let hbase : CAddr := BitVec.ofNat 57 (c.nextBase + region * c.spill)
  let splits : Tbl Split := [(0, initialSplit pc m)]
  let l := gr.lrec
  { ctx := t.ctx, grid := grid, team := team, core := core, slot := slot, mode := .user, v := v,
    k := Cells.setRun [] 1 (fun i => l.preset.getD i 0#64) 8, p := [], flags := [], ic := 0#48, cmark := 0#48, dir := false,
    grade := gradeOf l.grade, hsp := hbase, hbase := hbase, hlim := hbase + BitVec.ofNat 57 (l.spillBytes c.spill),
    hbuf := 2 ^ l.hbuf, rvinfo := 0#64, sat := 0#8, satarm := 0#8, launched := m, groupNo := groupNo, teamNo := t.teamNo,
    clusterNo := t.cluster, gridNo := gr.gridNo, stepBit := false,
    privbase := BitVec.ofNat 57 (c.privNext + region * privBytes), privlim := l.priv, regs := regs, window := gr.window, winV := [], winW := [],
    splits := splits, parked := [], cur := 0, lastStart := 0, inARow := 0, yielded := false, clause := none,
    hist := { stack := [], winLo := hbase.toNat, snap := ⟨splits, [], regs⟩, snapDue := false, committed := false,
              touched := Touched.none, switchCnt := 0, rev := none, fullRet := [], hold := none, spoilt := false, bad := [] },
    frames := [], scratch := [], drops := [], halted := false, haltReq := false, stopped := false, lastSplit := 0,
    barCount := t.bars, grants := [], growOld := 0, relied := 0, growFail := none, spawnHold := false, abortDue := [],
    resume := none }

/-! Berm's own groups (R22, R410). -/

/-- Berm's context: the pages of its image. Its other figures, which the manual does not give, are nothing (DESIGN CHOICE, log
16). -/
def bermCtx (pages : List Page) : Ctx :=
  { pages := pages, cores := [], rings := [], ringLast := [], spill := 0, nextBase := 0, spillAt := 0, frameArea := 0, faults := [], faultCap := 64,
    faultRing := 0, faultTail := 0, faultHold := [], faultLog := [],
    pool := { whole := 0, free0 := 0, size := 0, high := 0, low := 0, depth := false, rateT := 0, ready := [] },
    events := [], taskWaits := [], predWaits := [], poolWaits := [], streams := [],
    dbg := { right := false, attached := false, monitor := 0, cmdHead := 0#32, evtTail := 0#32, evtHead := 0#32, ring := [],
             held := [] },
    preempt := none, save := none, image := none, privNext := 0 }

def bermRecord : LaunchRec :=
  { entry := 0#64, clusters := 0, cw := 0, ch := 0, groups := 0, lanes := 32, regs := 0, accs := 0, carve := 0, grade := 0,
    hbuf := 0, succ := 0, spill := 0, cstore := 0, priv := 0, bint := 0, slots := [], emuh := 0#64, surr := 0#64, auxh := 0#64,
    ltr := 0#64, preset := [], junk := false }

def bermGrid : Grid :=
  { ctx := bermKey, gridNo := 0, lrec := bermRecord, join := none, pred := none, parent := none, emuh := 0#64, surr := 0#64,
    aux := [], window := false, hinted := [], started := [], ended := [], reserved := [], ltrHead := 0, killed := none }

def bermTeam : Team :=
  { ctx := bermKey, grid := 0, teamNo := 0, cluster := 0, core := 0, cs := [], csSize := 0, acc := [], accs := 0, bars := 0,
    routine := none }

/-- A group of Berm's image: of no grid and of no team, without a window, in grade off. -/
def bermGroup (mode : Mode) (core slot : Nat) (pc : CAddr) (regs : Nat) : Group :=
  { startGroup (bermCtx []) 0 bermGrid 0 0 core slot bermTeam 0 pc fullMask regs [] with mode := mode, k := [] }

/-- The stage after a stage of a boot, with the stage that failed (R434; DEDUCED, log 27). -/
def BootParams.next (b : BootParams) (stage : Nat) : Nat × Nat :=
  if stage = 1 then (if b.slot0 || b.slot1 then (2, 0) else (0x3F, 1))
  else if stage = 2 then (if b.berm then (3, 0) else (0x3F, 2))
  else if stage = 3 then (4, 0)
  else (5, 0)

/-- Whether a boot ends with a stage. -/
def bootEnds (stage : Nat) : Bool := stage == 5 || stage == 0x3F

/-! Room on a core (R27). -/

def State.coreGroups (s : State) (core : Nat) : Tbl Group := s.groups.filter (fun g => g.2.core == core)
def State.coreTeams (s : State) (core : Nat) : Tbl Team := s.teams.filter (fun t => t.2.core == core)

/-- Slots of a quadrant that no group has (R73). -/
def State.freeSlots (s : State) (core quad : Nat) : List Nat :=
  ((List.range 8).map (fun i => 8 * quad + i)).filter (fun i =>
    !(s.coreGroups core).any (fun g => g.2.slot == i))

def State.histUsed (s : State) (core : Nat) : Nat := ((s.coreGroups core).map (fun g => g.2.hbuf)).sum

/-- How many of a team's first groups lie in a quadrant (R17). -/
def groupsIn (groups quad : Nat) : Nat := (groups + 3 - quad) / 4

/-- Registers of a new group of the grid (R27). -/
def Grid.allotOf (g : Grid) (regs : Nat) : Nat := regs + if g.window then 16 else 0

/-- Whether a core may take a team of the grid as far as its context and reservations go (R28). -/
def State.coreOpen (s : State) (grid : Nat) (g : Grid) (core : Nat) : Bool :=
  s.enabled core && ((s.ctxs.get g.ctx).elim false (fun c => c.cores.contains core)) &&
  !s.grids.any (fun x => x.1 != grid && x.2.reserved.contains core)

/-- R27 for one team of the grid. -/
def State.teamFits (s : State) (grid : Nat) (g : Grid) (core : Nat) : Bool :=
  let l := g.lrec
  let ts := s.coreTeams core
  s.coreOpen grid g core &&
  (List.range 4).all (fun q =>
    decide (groupsIn l.groups q ≤ (s.freeSlots core q).length) &&
    decide (groupsIn l.groups q * g.allotOf l.regs ≤ s.quadFree (4 * core + q))) &&
  decide ((ts.map (fun t => t.2.csSize)).sum + l.cstore ≤ csOf l.carve) &&
  decide ((ts.map (fun t => t.2.accs)).sum + l.accs ≤ 48) &&
  decide (s.histUsed core + l.groups * 2 ^ l.hbuf ≤ 256) &&
  (ts.isEmpty || (s.core core).carve == some l.carve)

/-! Starting teams. -/

/-- The core takes a carve-out: a change writes the private lines back and empties the L1 (R180). -/
def State.carve (s : State) (core n : Nat) : State :=
  if (s.core core).carve = some n then s
  else
    let s := s.writeBack core
    s.setCore core { s.core core with l1 := [], carve := some n }

/-- The groups n of a team, those still to start given by fuel. -/
def State.startGroups (s : State) (gr : Grid) (grid team : Nat) (t : Team) (n : Nat) : Nat → State
  | 0 => s
  | fuel + 1 =>
    match s.ctxs.get t.ctx, (s.freeSlots t.core (n % 4)).head? with
    | some c, some slot =>
      let m := maskOf (fun l => decide (l < gr.lrec.lanes))
      let g := startGroup c (s.freeRegion t.ctx) gr grid team t.core slot t n (toCAddr gr.lrec.entry) m gr.lrec.regs []
      let (id, s) := s.newId
      (s.setGroup id g).startGroups gr grid team t (n + 1) fuel
    | _, _ => s

/-- One team becomes resident (R17, R343). -/
def State.startTeam (s : State) (grid : Nat) (gr : Grid) (cluster teamNo core : Nat) : State :=
  let s := s.carve core gr.lrec.carve
  let t : Team := { ctx := gr.ctx, grid := grid, teamNo := teamNo, cluster := cluster, core := core, cs := [],
                    csSize := gr.lrec.cstore, acc := [], accs := gr.lrec.accs, bars := 0, routine := none }
  let (id, s) := s.newId
  ({ s with teams := s.teams.put id t }).startGroups gr grid id t 0 gr.lrec.groups

/-- The rectangles that the context holds, all enabled (R18, R28). -/
def State.rects (s : State) (grid : Nat) (g : Grid) : List (List Nat) :=
  (rectangles g.lrec.cw g.lrec.ch).filter (fun r => r.all (fun c => s.coreOpen grid g c))

/-- From a die's critical temperature on no grid runs until every die has cooled (R438). -/
def State.hot (s : State) : Bool := s.mgmt.hot

/-- The grid's next cluster, when it may start as far as its predecessor and its context go. -/
def State.nextCluster (s : State) (g : Grid) : Option Nat :=
  if g.killed.isNone && g.started.length < g.lrec.clusters && s.mayStart g && !s.switched g.ctx && !s.hot then some g.started.length else none

/-- The cluster starts on a rectangle whose every core fits its team; else, where no rectangle serves and none is reserved,
this one is (R28). -/
def State.startCluster (s : State) (grid cluster : Nat) (cores : List Nat) : State :=
  match s.grids.get grid with
  | none => s
  | some g =>
    let rs := s.rects grid g
    if s.nextCluster g ≠ some cluster || !rs.contains cores then s
    else if cores.all (fun c => s.teamFits grid g c) then
      let s := s.updGrid grid (fun g => { g with started := g.started ++ [cluster], reserved := [] })
      cores.zipIdx.foldl (fun s c => s.startTeam grid g cluster (cluster * cores.length + c.2) c.1) s
    else if g.reserved.isEmpty && !rs.any (fun r => r.all (fun c => s.teamFits grid g c)) then
      s.updGrid grid (fun g => { g with reserved := cores })
    else s

/-- TEAM_RESIDENT: a cluster of one team (R27). -/
def execTeamResident (grid team core : Nat) (s : State) : Out := .next (s.startCluster grid team [core])

/-- CLUSTER_START (R28). -/
def execClusterStart (grid cluster : Nat) (cores : List Nat) (s : State) : Out := .next (s.startCluster grid cluster cores)

/-! Bins (R350, R351). -/

/-- The lowest group number of a team that is free. -/
def State.freeNumber (s : State) (team : Nat) : Option Nat :=
  (List.range 32).find? (fun n => !s.groups.any (fun g => g.2.team == team && g.2.groupNo == n))

/-- Whether a team has room for one more group of a budget: its number and its slot. -/
def State.roomFor (s : State) (gr : Grid) (team : Nat) (t : Team) (regs : Nat) : Option (Nat × Nat) := do
  let n ← s.freeNumber team
  let slot ← (s.freeSlots t.core (n % 4)).head?
  if gr.allotOf regs ≤ s.quadFree (4 * t.core + n % 4) ∧ s.histUsed t.core + 2 ^ gr.lrec.hbuf ≤ 256 then some (n, slot)
  else none

/-- Whether a context's pool runs depth-first; then the newest records go first. -/
def Bin.take (b : Bin) (depth : Bool) : List Rec × List Rec :=
  if depth then ((b.recs.reverse.take 32), b.recs.take (b.recs.length - 32)) else (b.recs.take 32, b.recs.drop 32)

def regsOf (rs : List Rec) : Nat := rs.foldl (fun n r => max n r.budget) 16

/-- A bin that may launch now: its grid, its records as they would go, the team, the number and the slot. -/
structure Launchable where
  grid : Grid
  recs : List Rec
  rest : List Rec
  team : Nat
  t    : Team
  no   : Nat
  slot : Nat

/-- R350. -/
def State.launchable (s : State) (core bin : Nat) : Option Launchable := do
  let b ← (s.core core).bins.get bin
  let gr ← s.grids.get b.grid
  let depth := s.depthFirst gr.ctx
  let r ← b.recs.head?
  if s.switched gr.ctx || s.hot || !(decide (32 ≤ b.recs.length) || b.expired || depth) then none
  else
    let (taken, rest) := b.take depth
    let ts := s.teams.filter (fun t => t.2.core == core && r.allows t.2 && (s.roomFor gr t.1 t.2 (regsOf taken)).isSome)
    let t ← leastBy (fun (t : Nat × Team) => t.2.teamNo) ts
    let (no, slot) ← s.roomFor gr t.1 t.2 (regsOf taken)
    return ⟨gr, taken, rest, t.1, t.2, no, slot⟩

/-- The bin of a core that launches first (R35, R350); of bins of several contexts, those of a breadth-first pool come before
those of a depth-first one (DESIGN CHOICE, log 53). -/
def State.pickBin (s : State) (core : Nat) : Option Nat :=
  let ready := (s.core core).bins.filter (fun b => (s.launchable core b.1).isSome)
  let depth (b : Nat × Bin) : Bool := s.depthFirst (s.gridCtx b.2.grid)
  let old := leastBy (fun (b : Nat × Bin) => b.2.recs.head?.elim 0 (·.stamp)) (ready.filter (fun b => !depth b))
  let new := leastBy (fun (b : Nat × Bin) => s.nextId - b.2.recs.getLast?.elim 0 (·.stamp)) (ready.filter depth)
  (old.or new).map (·.1)

/-- The lane registers that records bring, lane by lane (R351). -/
def recCells (rs : List Rec) : Cells 32 :=
  rs.zipIdx.foldl (fun v r => r.1.vals.zipIdx.foldl (fun v x => v.set (32 * (r.1.base + x.2) + r.2) x.1) v) []

/-- A bin after a launch, which may leave its oldest record, whose time goes on (R350); else its timer starts for the record
that is now the oldest. -/
def State.leaveBin (s : State) (core bin : Nat) (b : Bin) (rest : List Rec) (oldest : Bool) : State :=
  let c := s.core core
  if oldest && !rest.isEmpty then s.setCore core { c with bins := c.bins.put bin { b with recs := rest } }
  else
    let s := { s with timers := s.timers.filter (fun i => i != Instr.binTimerExpiry core bin) }
    if rest.isEmpty then s.setCore core { c with bins := c.bins.del bin }
    else { s.setCore core { c with bins := c.bins.put bin { b with recs := rest, expired := false } } with
           timers := s.timers ++ [.binTimerExpiry core bin] }

/-- BIN_LAUNCH. -/
def execBinLaunch (core bin : Nat) (s : State) : Out :=
  .next (if s.pickBin core ≠ some bin then s
    else match s.launchable core bin, (s.core core).bins.get bin with
      | some x, some b =>
        let ctx := x.t.ctx
        let s := s.leaveBin core bin b x.rest (s.depthFirst ctx)
        let s := match s.ctxs.get ctx with
          | none => s
          | some cx =>
            let m := maskOf (fun l => decide (l < x.recs.length))
            let g := startGroup cx (s.freeRegion ctx) x.grid b.grid x.team core x.slot x.t x.no b.pc m (regsOf x.recs)
              (recCells x.recs)
            let (id, s) := s.newId
            s.setGroup id g
        (s.poolMode ctx).retryAll
      | _, _ => s)

/-- BIN_TIMER_EXPIRY (R350). -/
def execBinTimerExpiry (core bin : Nat) (s : State) : Out :=
  .next (let c := s.core core
    { s.setCore core { c with bins := c.bins.upd bin (fun b => { b with expired := true }) } with
      timers := s.timers.filter (fun i => i != Instr.binTimerExpiry core bin) })

/-- SPAWN_RATE_EXPIRY (R346). -/
def execSpawnRateExpiry (gid : Nat) (s : State) : Out :=
  .next ({ s with timers := s.timers.filter (fun i => i != Instr.spawnRateExpiry gid) }.updGroup gid (fun g =>
    { g with spawnHold := false }))

/-! The end of a team (R439, R309). -/

/-- A team ends when none of its groups is resident and no record could reach it. -/
def State.teamOver (s : State) (team : Nat) : Bool :=
  match s.teams.get team with
  | none => false
  | some t =>
    !s.switched t.ctx && !s.groups.any (fun g => g.2.team == team) &&
    !((s.waiting t.ctx) ++ (s.binned t.ctx)).any (fun r => r.allows t)

/-- Bins of a core that no team of the core can take go back to the ready list and enter bins again (R350). -/
def State.rebin (s : State) (core ctx : Nat) : State :=
  let lost := (s.core core).bins.filter (fun b =>
    match b.2.recs.head? with
    | some r => !s.teams.any (fun t => t.2.core == core && r.allows t.2)
    | none => true)
  let recs := lost.flatMap (fun b => b.2.recs)
  let s := lost.foldl (fun s b =>
    let c := s.core core
    { s.setCore core { c with bins := c.bins.del b.1 } with
      timers := s.timers.filter (fun i => i != Instr.binTimerExpiry core b.1) }) s
  (s.updCtx ctx (fun c => { c with pool := { c.pool with ready := c.pool.ready ++ recs } })).retryAll

/-- What a team's end frees, its tiles released as by TILEPUT (R309). -/
def State.endTeam (s : State) (team : Nat) (t : Team) : State :=
  let tiles := s.tiles.filter (fun x => x.2.team == team && (x.2.state == .held || x.2.state == .negotiated))
  let s := tiles.foldl (fun s x => if s.tileSweeping x.1 then s else (s.sweepTile 0 x.1 none).2) s
  let s := { s with teams := s.teams.del team }.updGrid t.grid (fun g => { g with ended := g.ended ++ [t.teamNo] })
  s.rebin t.core t.ctx

/-- TEAM_END (R439). -/
def execTeamEnd (team : Nat) (s : State) : Out :=
  .next (match s.teams.get team with
    | some t => if s.teamOver team then s.endTeam team t else s
    | none => s)

/-! The end of a grid (R357, R358, R360). -/

/-- The 64 bytes of a launch time record: six durations, their sum, the status, %grid (R360). -/
def ltrBytes (f : List DWord) (status gridNo : Nat) : List Byte :=
  let f := (f ++ [0#64, 0#64, 0#64, 0#64, 0#64, 0#64]).take 6
  let wall := f.foldl (· + ·) 0#64
  (f ++ [wall]).flatMap (fun x => leBytes 8 x.toNat) ++ leBytes 4 status ++ leBytes 4 gridNo

/-- The places that an engine writes; `none` while their page is missing or they are barred. -/
def State.engPlaces (s : State) (ctx va n : Nat) : Option (List Place) :=
  (s.vaPlaces ctx va n).filter s.unbarred

/-- A grid's launch time record; `none` while it cannot be written. -/
def State.writeLtr (s : State) (ctx : Nat) (g : Grid) (status : Nat) : Option State :=
  if g.lrec.ltr = 0#64 then some s
  else (s.engPlaces ctx (g.lrec.ltr.setWidth 57).toNat 64).map (fun ps =>
    let x (i : Nat) : DWord := Config.freeTime (s.fresh + i)
    let bs := ltrBytes [w64 g.ltrHead, w64 (g.ltrHead / 2 ^ 64), x 0, x 1, x 2, x 3] status g.gridNo
    { s with fresh := s.fresh + 4 }.putBytes noCore (ps.zip bs))

/-- A grid's join record: its decrement, abnormal with a cause (R356, R357); `none` while it cannot be written. -/
def State.joinDone (s : State) (g : Grid) (cause : Option Nat) : Option State :=
  match g.join with
  | none => some s
  | some a => (s.engPlaces g.ctx (a.setWidth 57).toNat 32).map (fun ps =>
    let flags := s.homeNat ((ps.drop 4).take 2)
    let s := match cause with
      | some c =>
        if flags % 2 = 1 then s
        else (s.putBytes noCore (bytesAt ((ps.drop 4).take 2) (flags + 1))).putBytes noCore
          (bytesAt ((ps.drop 8).take 8) (c + 2 ^ 32 * g.gridNo))
      | none => s
    (s.decTask noCore g.ctx ps).1)

/-- A grid is gone: what waits for it goes on (R358, R362). -/
def State.dropGrid (s : State) (grid : Nat) (g : Grid) : State :=
  let s := { s with grids := s.grids.del grid }
  match s.ctxs.get g.ctx with
  | none => s
  | some c =>
    let due (w : PredWait) : Bool := (s.grids.get w.grid).elim true (fun x => x.pred == some grid)
    let recs := (c.predWaits.filter due).flatMap (·.recs)
    (s.updCtx g.ctx (fun c => { c with predWaits := c.predWaits.filter (fun w => !due w) })).makeReady g.ctx recs

/-- The state after a grid's end, normal or not, its records written as one release at system scope (R360); `none` while one of
them cannot be written. -/
def State.endGrid (s : State) (grid : Nat) (g : Grid) (cause : Option Nat) (status : Nat) : Option State := do
  let s ← (s.settle).joinDone g cause
  let s ← s.writeLtr g.ctx g status
  return s.settle.writeHome.dropGrid grid g

/-- Whether every team of a grid has ended. -/
def Grid.over (g : Grid) : Bool := decide (g.started.length = g.lrec.clusters) && decide (g.ended.length = g.lrec.teams)

/-- The fault of an engine's access to n bytes from an address, when they lie behind a failed port (R427). -/
def State.engPort (s : State) (ctx gridNo : Nat) (a : DWord) (n : Nat) : Option State :=
  if a = 0#64 then none
  else (s.vaPlaces ctx (a.setWidth 57).toNat n).bind (fun ps => s.portFault ctx gridNo ps a)

/-- The fault of a grid's records that cannot be written behind a failed port. -/
def State.gridPort (s : State) (g : Grid) : Option State :=
  (g.join.bind (fun a => s.engPort g.ctx g.gridNo a 32)).or (s.engPort g.ctx g.gridNo g.lrec.ltr 64)

/-- The grid's end, when it may come, a removed grid's join record taking the removal's status as its cause (DESIGN CHOICE, log
55): its teams have ended, or Berm has removed it (R357, R439); or the fault of its records. -/
def State.gridDone (s : State) (grid : Nat) : Option State :=
  match s.grids.get grid with
  | some g => match g.killed with
    | some status => (s.endGrid grid g (some status) status).or (s.gridPort g)
    | none => if g.over && !s.switched g.ctx then (s.endGrid grid g none 0).or (s.gridPort g) else none
  | none => none

/-- GRID_END. -/
def execGridEnd (grid : Nat) (s : State) : Out := .next ((s.gridDone grid).getD s)

/-! Host launches (R29, R360). -/

/-- The record of a refused host launch (R360); `none` while it cannot be written. -/
def State.refusedLtr (s : State) (ctx : Nat) (l : LaunchRec) (reason : Nat) : Option State :=
  if l.ltr = 0#64 || l.ltr.toNat % 64 != 0 then some s
  else (s.engPlaces ctx (l.ltr.setWidth 57).toNat 64).map (fun ps =>
    { s with fresh := s.fresh + 1 }.putBytes noCore (ps.zip (ltrBytes [Config.freeTime s.fresh] (0x10000 + reason) 0)))

/-- The durations of stages 1 to 3, which Berm writes before its LAUNCH (R406); `none` while they cannot be written. -/
def State.stageTimes (s : State) (ctx : Nat) (l : LaunchRec) : Option State :=
  if l.ltr = 0#64 then some s
  else (s.engPlaces ctx (l.ltr.setWidth 57).toNat 16).map (fun ps =>
    { s with fresh := s.fresh + 2 }.putBytes noCore
      (bytesAt ps ((Config.freeTime s.fresh).toNat + 2 ^ 64 * (Config.freeTime (s.fresh + 1)).toNat)))

/-- A request as Berm serves it: the record is validated, and launched or refused; `none` while it waits, for a queue that is
full or for a page (R29). -/
def State.serve (s : State) (ctx ring : Nat) (req : Request) : Option State :=
  match req with
  | .debug => some (s.updCtx ctx (fun c => { c with dbg := { c.dbg with right := true } }))
  | .launch rec =>
    if rec.toNat % 256 ≠ 0 then
      (s.vaBytes ctx (rec.setWidth 57).toNat 256).bind (fun bs => s.refusedLtr ctx (launchOf bs) 1)
    else (s.launchAt ctx rec).bind (fun x =>
      match s.hostReason ctx ring rec x.1 x.2 with
      | some r => s.refusedLtr ctx x.1 r
      | none =>
        if 64 ≤ s.childQueue ctx then none
        else (s.stageTimes ctx x.1).map (fun s => (s.launch ctx ring rec x.1 x.2 none).2))

/-- The fault of a request that waits since its record, its table or its launch time record lies behind a failed port (R427). -/
def State.servePort (s : State) (ctx : Nat) (req : Request) : Option State :=
  match req with
  | .debug => none
  | .launch rec =>
    (s.engPort ctx 0 rec 256).or ((s.vaBytes ctx (rec.setWidth 57).toNat 256).bind (fun bs =>
      (s.engPort ctx 0 (launchOf bs).auxh 24).or (s.engPort ctx 0 (launchOf bs).ltr 64)))

/-- Whether a doorbell reaches a ring: the ring's 64 KiB lie in BAR 2 (R426), its context lives, and rings are live, from stage 5
on (R434; DEDUCED, log 31). -/
def State.ringLive (s : State) (ctx ring : Nat) : Bool :=
  (s.ctxs.get ctx).isSome && s.mgmt.stage == 5 && decide (ring < 256)

/-- DOORBELL: Berm takes the request (R29), a launch or the debug right of R411. One that must wait stays among the inputs. -/
def execDoorbell (ctx ring : Nat) (req : Request) (s : State) : Out :=
  .next (if s.ringLive ctx ring then ((s.serve ctx ring req).or (s.servePort ctx req)).getD s else s)

/-! Contexts (R344). -/

/-- Whether Berm runs (R434). -/
def Mgmt.bermRuns (m : Mgmt) : Bool := m.stage == 4 || m.stage == 5

/-- The reserve of a context's pool: 32 records for every group slot of its cores (R344, R345). -/
def CtxParams.reserve (c : CtxParams) : Nat := 32 * (32 * c.cores.length)

/-- The spillway per group: 4 MiB unless Berm sets it (R4). -/
def CtxParams.spillSize (c : CtxParams) : Nat := c.spill.getD 0x400000

/-- What a context must have: a spillway of 64 KiB, whose ends are multiples of 4 KiB for every group (R228), areas in Berm's
memory whose physical addresses have 52 bits (R4), a pool that holds its reserve (R344). -/
def CtxParams.sound (c : CtxParams) : Bool :=
  decide (0x10000 ≤ CtxParams.spillSize c) && c.hbase % 4096 == 0 && CtxParams.spillSize c % 4096 == 0 && c.spillAt % 4096 == 0 &&
  decide (CtxParams.reserve c ≤ c.pool) &&
  decide (c.faultRing + 64 * c.faultCap ≤ 2 ^ 52) && decide (c.frameArea < 2 ^ 52) &&
  decide (c.spillAt + CtxParams.spillSize c * (32 * c.cores.length) ≤ 2 ^ 52)

/-- A context's pool as it is created; the watermarks default to three quarters and a half of the free part (R346). -/
def CtxParams.newPool (c : CtxParams) : Pool :=
  let free := c.pool - CtxParams.reserve c
  { whole := c.pool, free0 := free, size := free, high := c.poolHigh.getD (3 * free / 4), low := c.poolLow.getD (free / 2),
    depth := false, rateT := 0, ready := [] }

/-- A context as Berm creates it. -/
def CtxParams.newCtx (c : CtxParams) : Ctx :=
  { pages := c.pages.filter Page.sound, cores := c.cores, rings := c.rings, ringLast := [], spill := CtxParams.spillSize c,
    nextBase := c.hbase, spillAt := c.spillAt, frameArea := c.frameArea, faults := [], faultCap := c.faultCap,
    faultRing := c.faultRing, faultTail := 0, faultHold := [], faultLog := [], pool := CtxParams.newPool c,
    events := [], taskWaits := [], predWaits := [], poolWaits := [], streams := [],
    dbg := { right := c.debugRight, attached := false, monitor := 0, cmdHead := 0#32, evtTail := 0#32, evtHead := 0#32,
             ring := [], held := [] },
    preempt := none, save := none, image := none, privNext := c.privBase }

/-- CONTEXT_CREATION: a number that no context has. Its tiles, of those that the division serves, are cleared and free (R178,
R306); every stream is free. -/
def execContextCreation (c : CtxParams) (s : State) : Out :=
  .next (if (s.ctxs.get c.ctx).isSome || !s.mgmt.bermRuns || !CtxParams.sound c then s
    else
      let own := c.tiles.filter (fun t => (s.tiles.get t.1).isNone && s.tileServed t.1)
      let tiles := own.foldl (fun (t : Tbl TileRec) x => t.put x.1
        { ctx := c.ctx, va := x.2, state := .free, team := 0, gid := 0, gen := 0#8, routine := ⟨0#57, 0, 0⟩, refusals := 0,
          queue := [], running := none }) s.tiles
      let polder := own.foldl (fun (m : Cells 8) x => m.clear (x.1 * 2 ^ 18) ((x.1 + 1) * 2 ^ 18)) s.polder
      { s with ctxs := s.ctxs.put c.ctx (CtxParams.newCtx c), goneDbg := s.goneDbg.del c.ctx, tiles := tiles, polder := polder })

end Sys2Proof.Machine
end

