-- ==== Sys2Proof/Machine/Layout.lean ====
section
/-! DEFINITION. Machine/Layout.lean: how the machine's data lie in bytes: history entries (09_history R229, R230, R233), group
records (17_traps R397), fault records (R384), and the sections of a context's image (R396). -/

namespace Sys2Proof.Machine

def b4 (x : Word) : List Byte := leBytes 4 x.toNat
def b8 (x : DWord) : List Byte := leBytes 8 x.toNat
def bA (x : CAddr) : List Byte := leBytes 8 x.toNat
def bC (x : Count) : List Byte := leBytes 8 x.toNat
def zeros (n : Nat) : List Byte := List.replicate n 0#8

/-- Bytes padded with zeros, or cut, to n. -/
def padTo (n : Nat) (bs : List Byte) : List Byte := (bs ++ zeros (n - bs.length)).take n

/-! History entries. -/

/-- The number of a wait state in the four bytes of R233, which names no coding: R76's order (DESIGN CHOICE, log 13). -/
def waitCode (w : Wait) : Nat :=
  match w with
  | .ready => 0
  | .conv _ => 2
  | .bar _ => 3
  | .grow => 4
  | _ => 5

def splitBytes (sp : Split) : List Byte :=
  bA sp.pc ++ b4 sp.mask ++ leBytes 4 (waitCode sp.wait) ++ bA sp.cfrPc ++ bC sp.cfrIc

/-- Splits 0 to 3, 32 bytes each. -/
def splitsBytes (t : Tbl Split) : List Byte := (List.range 4).flatMap (fun n => (t.get n).elim (zeros 32) splitBytes)

def pathsBytes (l : List Path) : List Byte := padTo 128 (l.flatMap (fun p => bA p.pc ++ b4 p.mask ++ zeros 4))

/-- A bit for each live split. -/
def liveBits (t : Tbl Split) : Nat := (List.range 4).foldl (fun n i => if (t.get i).isSome then n + 2 ^ i else n) 0

def touchedBytes (t : Touched) : List Byte :=
  leBytes 64 (t.v.toNat + 2 ^ 256 * t.k.toNat + 2 ^ 320 * t.p.toNat + 2 ^ 384 * t.acc.toNat +
    2 ^ 432 * (if t.sat then 1 else 0) + 2 ^ 433 * (if t.arm then 1 else 0))

def markBytes (pos : Count) (issuer : Nat) (n : Snapshot) (t : Touched) : List Byte :=
  leBytes 8 (liveBits n.splits + 16 * issuer + 64 * n.parked.length + 1024 * n.regs) ++ bC pos ++ splitsBytes n.splits ++
    pathsBytes n.parked ++ touchedBytes t

/-- The codes of R189 and R175. -/
def sizeCode : Size → Nat
  | .b8 => 0
  | .b16 => 1
  | .b32 => 2
  | .b64 => 3
  | .b128 => 4
  | .i8 => 5
  | .i16 => 6
  | .i32 => 7

def spaceCode : Space → Nat
  | .global => 0
  | .polder => 1
  | .cs => 2
  | .priv => 3

def bitN (b : Bool) (n : Nat) : Nat := if b then 2 ^ n else 0

def HKind.code : HKind → Nat
  | .vreg .. => 0x01
  | .pred .. => 0x02
  | .kreg .. => 0x03
  | .memw .. => 0x04
  | .cf .. => 0x05
  | .weave .. => 0x06
  | .split .. => 0x07
  | .merge .. => 0x08
  | .acc .. => 0x09
  | .flags .. => 0x0A
  | .emuframe .. => 0x0B
  | .markrec .. => 0x0C
  | .stash .. => 0x0D
  | .growrec .. => 0x0E
  | .parkrec .. => 0x0F

/-- The payload of R230. -/
def HKind.payload : HKind → List Byte
  | .vreg n m vals => leBytes 4 n ++ b4 m ++ padTo 128 (vals.flatMap b4)
  | .pred n bits => leBytes 4 n ++ b4 bits
  | .kreg n x => leBytes 8 n ++ b8 x
  | .memw m sz sp pre _ => b4 m ++ leBytes 1 (sizeCode sz) ++ leBytes 3 (spaceCode sp) ++
      pre.flatMap (fun p => b8 p.addr ++ b8 p.old)
  | .cf pc ic => bA pc ++ bC ic
  | .weave n c => leBytes 4 n ++ leBytes 4 c
  | .split new parent m t => leBytes 4 (new + 4 * parent) ++ b4 m ++ bA t
  | .merge k r km rm kpc rpc cpc cic => leBytes 8 (k + 4 * r) ++ b4 km ++ b4 rm ++ bA kpc ++ bA rpc ++ bA cpc ++ bC cic
  | .acc t vals => leBytes 8 t ++ (List.range 4096).flatMap (fun i => b4 (vals.get i))
  | .flags sat arm hs ha busy => leBytes 1 sat.toNat ++ leBytes 1 arm.toNat ++ leBytes 2 (bitN hs 0 + bitN ha 1) ++ leBytes 4 busy
  | .emuframe a ic close counted retry d =>
    bA a ++ leBytes 8 (ic.toNat + bitN close 48 + bitN counted 49 + bitN retry 50 + 2 ^ 51 * d)
  | .markrec pos i n t => markBytes pos i n t
  | .stash x => b8 x
  | .growrec old new => leBytes 2 old ++ leBytes 6 new
  | .parkrec u n m pc => leBytes 4 (bitN u 0 + 4 * n) ++ b4 m ++ bA pc

/-- An entry: its payload, then its header (R228, R229). -/
def HEntry.bytes (e : HEntry) : List Byte :=
  let p := e.kind.payload
  p ++ leBytes 8 (e.kind.code + 2 ^ 8 * e.split + 2 ^ 16 * (p.length / 8) + 2 ^ 32 * e.ic.toNat)

/-- The newest bytes of a stack, at most n, ending at %hsp. -/
def tailBytes (st : List HEntry) (n : Nat) : List Byte :=
  let bs := st.reverse.flatMap HEntry.bytes
  bs.drop (bs.length - n)

/-! Group records (R397). -/

def gradeCode : Grade → Nat
  | .off => 0
  | .mark => 1
  | .step => 2

/-- The reversal in progress in 88 bytes: what stands for it, its target and its landing, the value for %rvinfo, the positions of
the four splits. -/
def revBytes (r : Option Rev) : List Byte :=
  padTo 88 (r.elim [] (fun r =>
    leBytes 8 (1 + bitN r.rounded 1 + bitN r.marked 2 + bitN r.rollback 3 + bitN r.waiting 4 + 2 ^ 8 * r.s + 2 ^ 16 * r.unwind) ++
      bC r.target ++ bC r.land ++ b8 (r.info.getD 0#64) ++
      (List.range 4).flatMap (fun n => leBytes 8 ((r.pos.get n).elim 0 (fun a => a.toNat + 2 ^ 63)))))

/-- The history state of R223 in its 408 bytes, whose layout R397 leaves open: the snapshot's splits and paths, the touched
bitmap, the rest (DESIGN CHOICE, log 13). -/
def Hist.bytes (h : Hist) : List Byte :=
  padTo 408 (splitsBytes h.snap.splits ++ pathsBytes h.snap.parked ++ leBytes 56 (leNat (touchedBytes h.touched)) ++
    leBytes 8 (bitN h.committed 0 + bitN h.snapDue 1 + 2 ^ 8 * h.snap.regs + 2 ^ 32 * h.switchCnt) ++
    revBytes (h.rev))

/-- The handler frame in its 164 bytes: kind, entry address, resume point, splits kept aside, the remaining budget. -/
def frameRec (g : Group) : List Byte :=
  padTo 164 (match g.frames with
    | f :: _ => leBytes 4 f.kind.code ++ bA f.entry ++ bA f.at_ ++ splitsBytes f.aside ++ leBytes 4 (f.budget - f.used)
    | [] => [])

/-- The group's record (R397). In handler mode the path stack is the one kept aside; the window's w0 to w7 are held in and out of
handler mode. -/
def Group.record2048 (g : Group) : List Byte :=
  leBytes 8 (g.groupNo + bitN g.inHandler 8 + 2 ^ 9 * g.depth + bitN g.dir 11 + 2 ^ 12 * gradeCode g.grade + 2 ^ 14 * g.regs +
    bitN g.window 23 + 2 ^ 24 * liveBits g.splits + 2 ^ 28 * g.baseParked.length + 2 ^ 32 * g.launched.toNat) ++
  leBytes 4 g.teamNo ++ leBytes 4 g.clusterNo ++ leBytes 8 g.gridNo ++
  bC g.ic ++ bC g.cmark ++ bA g.hsp ++ bA g.hbase ++ bA g.hlim ++ b8 g.rvinfo ++ bA g.privbase ++
  leBytes 8 (g.sat.toNat + 2 ^ 8 * g.satarm.toNat + bitN g.stepBit 16 + 2 ^ 32 * g.privlim) ++
  padTo 16 ((List.range 12).map (fun i => g.flags.get i)) ++ splitsBytes g.splits ++ pathsBytes g.baseParked ++
  (List.range 64).flatMap (fun i => b8 (g.k.get i)) ++
  (List.range 64).flatMap (fun i => b4 (if i = 63 then fullMask else g.p.get i)) ++
  g.hist.bytes ++ padTo 256 ((List.range 256).map (fun i => g.scratch.get i)) ++
  (List.range 8).flatMap (fun i => b8 ((g.frames.head?.elim g.winW (·.winW)).get i)) ++
  padTo 28 (g.frames.head?.elim [] (fun f => (List.range 7).flatMap (fun i => b4 (f.winP.get i)))) ++ frameRec g

/-- Its lane registers, register n of lane l at 128n + 4l, and those of its window, which follow when one is allotted (R397). -/
def Group.laneBytes (g : Group) : List Byte := (List.range (32 * g.regs)).flatMap (fun n => b4 (g.v.get n))
def Group.windowBytes (g : Group) : List Byte :=
  if g.window then (List.range 512).flatMap (fun n => b4 ((g.frames.head?.elim g.winV (·.winV)).get n)) else []

/-! Fault records (R384). -/

def FaultRec.bytes (r : FaultRec) : List Byte := leBytes 64 (FaultRec.num r)

/-- The fault queue's ring as it lies in Berm's memory, its records at 64 bytes each, the oldest unresolved first (R384; the queue
is kept as data, log 42). -/
def Ctx.faultBytes (c : Ctx) : List Byte := c.faults.flatMap (fun f => FaultRec.bytes f.2)

/-! The context image (R396). R396 names the sections and what each holds; the layout of their items is the model's (DESIGN
CHOICE, log 29). -/

/-- Numbers of eight bytes each. -/
def w8s (l : List Nat) : List Byte := l.flatMap (leBytes 8)

def Routine.words (r : Routine) : List Nat := [r.addr.toNat, r.budget, r.limit]

/-- A team: core store, accumulator tiles, BAR count, its tiles, the routine that runs. -/
def State.teamBytes (s : State) (key : Nat) (t : Team) : List Byte :=
  w8s [key, t.teamNo, t.cluster, t.core, t.bars, t.routine.elim 0 (· + 1), t.csSize, t.accs] ++
    (List.range t.csSize).map (fun i => t.cs.get i) ++ (List.range (4096 * t.accs)).flatMap (fun i => b4 (t.acc.get i)) ++
    w8s ((s.tiles.filter (fun x => x.2.team == key && (x.2.state == .held || x.2.state == .negotiated))).map (·.1))

/-- What is left of a copy: its descriptor, the elements done, its flags and event. -/
def copyBytes (c : Copy) : List Byte :=
  w8s (c.desc.map (·.toNat) ++ [c.gid, c.done, c.event, bitN c.paused 0] ++ c.flags)

def Base.words : Base → List Nat
  | .va a => [0, a, 0]
  | .tile t o => [1, t, o]
  | .cs t o => [2, t, o]

def lockBytes (r : PlaceRange) : List Byte := w8s (r.base.words ++ [r.len, bitN r.dst 0])

def sealBytes (x : SealRec) : List Byte := w8s [x.tile, x.off, x.len, x.count, bitN x.closing 0, x.waiters.length]

/-- A bin with its timer: the core, the grid, whether its time is over, the records. -/
def binBytes (b : Nat × Bin) : List Byte := w8s [b.1, b.2.grid, bitN b.2.expired 0] ++ b.2.recs.flatMap Rec.bytes

def streamBytes (n : Nat) (x : Stream) : List Byte :=
  let batch (b : Batch) : List Byte := b4 b.number ++ leBytes 4 b.members.length ++ b.members.flatMap b4 ++ b.bodies.flatMap b4
  w8s [n, if x.state = .closing then 2 else 1, x.core, x.counter.toNat] ++ x.openBatches.flatMap batch ++ x.closed.flatMap batch ++
    x.outstanding.flatMap b4

def recallBytes (t : Nat) (q : TileReq) : List Byte := w8s ([t, q.team, q.gid, q.mailbox, q.event] ++ q.routine.words)

/-- The sections after the header, each a list of items. -/
def State.imageItems (s : State) (ctx : Nat) (c : Ctx) (i : Image) : List (List (List Byte)) :=
  let mine := s.copies.filter (fun x => x.2.ctx == ctx)
  let tiles := s.tiles.filter (fun x => x.2.ctx == ctx)
  [ i.groups.map (fun g => g.2.record2048 ++ g.2.laneBytes ++ g.2.windowBytes),
    i.teams.map (fun t => s.teamBytes t.1 t.2),
    mine.map (fun x => copyBytes x.2),
    mine.flatMap (fun x => x.2.locks.map lockBytes) ++
      (s.seals.filter (fun x => tiles.any (fun t => t.1 == x.2.tile))).map (fun x => sealBytes x.2),
    i.bins.map binBytes ++ [c.pool.ready.flatMap Rec.bytes] ++
      [w8s ((s.grids.filter (fun g => g.2.ctx == ctx && g.2.started.isEmpty)).map (·.2.gridNo))],
    (c.streams.filter (fun x => x.2.state != .free)).map (fun x => streamBytes x.1 x.2),
    tiles.flatMap (fun t => t.2.queue.map (recallBytes t.1)) ]

/-- Where each section begins, the first after the header's 256 bytes. -/
def sectionStarts (n : Nat) : List (List (List Byte)) → List Nat
  | [] => []
  | x :: t => n :: sectionStarts (n + (x.map List.length).sum) t

/-- The image: the header with the context's number, where each section begins and how many items it has; the sections. -/
def State.imageBytes (s : State) (ctx : Nat) (c : Ctx) (i : Image) : List Byte :=
  let xs := s.imageItems ctx c i
  padTo 256 (w8s (ctx :: (sectionStarts 256 xs).zipIdx.flatMap (fun p => [p.1, (xs.getD p.2 []).length]))) ++
    xs.flatMap (fun x => x.flatMap id)

end Sys2Proof.Machine
end

