-- ==== Sys2Proof/Machine/Faults.lean ====
section
/-! DEFINITION. Machine/Faults.lean: how Berm resolves fault records: replay and continue (17_traps R384, R395, 09 R220),
the service of a missing page (06 R183), the replay after a range lock (R184), and the replacement of a handler table
(R393). -/

namespace Sys2Proof.Machine

/-! Records leave the queue (R384). -/

/-- The record with a key. -/
def State.faultAt (s : State) (ctx id : Nat) : Option FaultRec := (s.ctxs.get ctx).bind (fun c => c.faults.get id)

/-- A record is resolved; a freed slot takes the oldest record held back. -/
def State.popFault (s : State) (ctx id : Nat) : State :=
  (s.updCtx ctx (fun c => { c with faults := c.faults.del id })).refillFaults ctx

/-! The groups of a context, resident or in its image (R395). -/

def State.ctxGroup (s : State) (ctx gid : Nat) : Option Group :=
  (s.groups.get gid).or ((s.ctxs.get ctx).bind (fun c => c.image.bind (fun i => i.groups.get gid)))

def State.putCtxGroup (s : State) (ctx gid : Nat) (g : Group) : State :=
  if (s.groups.get gid).isSome then s.setGroup gid g
  else s.updCtx ctx (fun c => { c with image := c.image.map (fun i => { i with groups := i.groups.put gid g }) })

/-- Whether what a split waits for is still to come; else it is ready (DEDUCED, log 20). -/
def State.restoredWait (s : State) (ctx gid n : Nat) (w : Wait) : Wait :=
  let still : Bool := match w with
    | .grow => s.growQ.any (fun r => r.gid == gid && r.split == n)
    | .sweep id => (s.sweeps.get id).isSome
    | .revg t => (s.ctxGroup ctx t).elim false (fun g =>
        (g.hist.rev.bind (·.revg)).elim false (fun r => r.1 == gid))
    | .parked id => (s.ctxs.get ctx).elim false (fun c => (c.faults.get id).isSome || (c.faultHold.get id).isSome)
    | _ => true
  if still then w else .ready

/-- Whether a fault of the kind stops its whole group (R384). -/
def FaultRec.stops (r : FaultRec) : Bool := decide (0 < r.depth) || r.cause == 0x0204#16

/-- The parked split is itself again, and the group goes on where the fault had stopped it. -/
def State.unparkFault (s : State) (ctx id : Nat) (r : FaultRec) (g : Group) : Group :=
  let g := g.mapSplits (fun n sp =>
    if sp.wait = .parked id then { sp with wait := s.restoredWait ctx r.gid n r.was } else sp)
  { g.updRev (fun v => if v.fault = some id then { v with fault := none } else v) with
    stopped := g.stopped && !r.stops }

/-! The two actions. -/

/-- Replay: the instruction, the boundary or the step of a walk is tried again. -/
def State.replay (s : State) (ctx id : Nat) : State :=
  match s.faultAt ctx id with
  | none => s
  | some r =>
    let s := s.popFault ctx id
    match s.ctxGroup ctx r.gid with
    | some g => if r.precise then s.putCtxGroup ctx r.gid (s.unparkFault ctx id r g) else s
    | none => s

/-- A record whose address is a clause header, or a walk's: Continue acts as Replay. -/
def FaultRec.atHeader (r : FaultRec) : Bool := r.parcels == 0 || r.detB.extractLsb' 0 2 == 3#2

/-- Changes the splits that the outermost handler keeps aside (R385). -/
def asideBase (f : Tbl Split → Tbl Split) : List HFrame → List HFrame
  | [] => []
  | [x] => [{ x with aside := f x.aside }]
  | x :: t => x :: asideBase f t

/-- The split goes on after the instruction, which counts as one that retired, in the frame it was issued in. -/
def Group.goOn (g : Group) (r : FaultRec) (reply : DWord) : Group :=
  let n := r.split
  let sealed_ := r.cause == 0x0903#16
  let after (sp : Split) : Split :=
    { sp with pc := r.addr + BitVec.ofNat 57 (4 * r.parcels), mid := sp.mid.bind Clause.after }
  if r.depth < g.depth then
    let g := { g with frames := asideBase (fun t => t.upd n after) g.frames }
    let frames := g.frames
    let g := match r.replyTo with
      | some d => if d = 0#6 then g else { g with k := g.k.set d.toNat reply }
      | none => g
    { g.retired n (r.depth == 0) sealed_ (r.depth == 0) with frames := frames }
  else
    let g := match r.replyTo with
      | some d => g.wrK d.toNat reply
      | none => g
    ({ g with splits := g.splits.upd n after }).retired n (r.depth == 0) sealed_ (r.depth == 0)

/-- R416 after a continued instruction. -/
def State.haltAfter (s : State) (ctx gid : Nat) (r : FaultRec) (g : Group) : State :=
  if g.stepBit && !g.inHandler && !g.dir && r.depth == 0 then
    let a := (g.splits.get r.split).elim 0#57 (·.pc)
    let s := s.putCtxGroup ctx gid g.haltNow
    if s.attached ctx then s.updCtx ctx (fun c => c.dbgPost (g.event 0x0905 0#64 a)) else s
  else s.putCtxGroup ctx gid g

/-- Where a record that is still to be resolved lies in the ring; `none` where the ring cannot be written. -/
def State.ringPlace (s : State) (c : Ctx) (r : FaultRec) : Option Nat :=
  if s.portDown (c.ringAt r.slot) then none else some (c.ringAt r.slot)

/-- Berm writes its reply into the record of a TRAP (R384). -/
def State.writeReply (s : State) (ctx : Nat) (r : FaultRec) (reply : DWord) : State :=
  if r.replyTo.isNone then s
  else
    let at_ := (s.ctxs.get ctx).bind (fun c => s.ringPlace c r)
    { s with mem := at_.elim s.mem (fun a => s.mem.writeN (a + 56) 8 reply.toNat) }.updCtx ctx (fun c =>
      { c with faultLog := c.faultLog.map (fun x => if x = r then { x with reply := reply } else x) })

/-- Whether the reply to a TRAP waits: a range lock covers its record (R208; DESIGN CHOICE, log 51). -/
def State.replyBarred (s : State) (ctx : Nat) (r : FaultRec) : Bool :=
  r.replyTo.isSome && (s.ctxs.get ctx).any (fun c => (ringBytes (c.ringAt r.slot)).any s.locked)

def State.continue_ (s : State) (ctx id : Nat) (reply : DWord) : State :=
  match s.faultAt ctx id with
  | none => s
  | some r =>
    if r.atHeader || !r.precise then s.replay ctx id
    else if s.replyBarred ctx r then s
    else
      let s := (s.writeReply ctx r reply).popFault ctx id
      match s.ctxGroup ctx r.gid with
      | none => s
      | some g =>
        let parked := g.splits.any (fun x => x.2.wait == .parked id) ||
          g.frames.any (fun f => f.aside.any (fun x => x.2.wait == .parked id))
        if parked then s.haltAfter ctx r.gid r ((s.unparkFault ctx id r g).goOn r reply) else s

/-! Pages. -/

/-- Whether two pages share an address. -/
def pagesMeet (p q : Page) : Bool := decide (p.va < q.va + pageBytes q.size) && decide (q.va < p.va + pageBytes p.size)

/-- A page enters the table in the place of those that it meets. -/
def Ctx.mapPage (c : Ctx) (p : Page) : Ctx :=
  if Page.sound p then { c with pages := { p with movedFrom := none } :: c.pages.filter (fun q => !pagesMeet q p) } else c

/-- The context's paused copies go on (R328). -/
def State.resumeCopies (s : State) (ctx : Nat) : State :=
  (s.copies.filter (fun c => c.2.ctx == ctx && c.2.paused)).foldl (fun s c => s.post (.copyResume c.1)) s

/-! The meanings. -/

/-- PAGE_SERVICE_DONE: Berm has mapped the page; the parked split replays, paused copies go on (R183, R328). -/
def execPageServiceDone (ctx rec : Nat) (page : Page) (s : State) : Out :=
  .next (((s.updCtx ctx (fun c => c.mapPage page)).replay ctx rec).resumeCopies ctx)

/-- RANGE_LOCK_REPLAY (R184). -/
def execRangeLockReplay (ctx rec : Nat) (s : State) : Out :=
  .next (match s.faultAt ctx rec with
    | some r => if r.cause = 0x0305#16 then s.replay ctx rec else s
    | none => s)

def execFaultReplay (ctx rec : Nat) (s : State) : Out := .next (s.replay ctx rec)

def execFaultContinue (ctx rec : Nat) (reply : DWord) (s : State) : Out := .next (s.continue_ ctx rec reply)

/-- HANDLER_TABLE_REPLACE: refused where it names a handler and the launch allotted no window (R393). -/
def execHandlerTableReplace (grid : Nat) (emuh surr auxh : DWord) (s : State) : Out :=
  .next (match s.grids.get grid with
    | none => s
    | some g =>
      match s.auxTable g.ctx auxh with
      | none => s
      | some aux =>
        let names := toCAddr emuh != 0#57 || toCAddr surr != 0#57 || aux.any (fun a => a != 0#64)
        if names && !g.window then s
        else s.updGrid grid (fun g => { g with emuh := emuh, surr := surr, aux := aux }))

end Sys2Proof.Machine
end

