-- ==== Sys2Proof/Machine/Matrix.lean ====
section
/-! DEFINITION. Machine/Matrix.lean: the matrix engine (11_matrix R277 to R305): fragments, the arithmetic of R288 and R289,
the accumulator instructions, %sat's instructions, and the event that finishes a matrix operation (R278, R296). -/

namespace Sys2Proof.Machine

/-! Fragments (R282 to R284). -/

/-- The element of `bits` bits at register r, lane l, element j of a fragment: the group's own registers (R291). -/
def Group.fragElem (g : Group) (bits r l j : Nat) : Nat := (g.v.get (32 * r + l)).toNat / 2 ^ (bits * j) % 2 ^ bits

/-- Element (row or column i, depth k) of a dense fragment (R282). -/
def Group.dense (g : Group) (bits base i k : Nat) : Nat :=
  let half := 32 / bits / 2
  g.fragElem bits (base + i / 2) (k % 32) (i % 2 * half + k / 32)

/-- Element (k, n) of the B fragment of MMAS (R284). -/
def Group.sparseB (g : Group) (bits base n k : Nat) : Nat :=
  let span := 16 * (32 / bits)
  g.dense bits (base + 32 * (k / span)) n (k % span)

/-- The scale of row or column i and block b of MMAX (R283). -/
def Group.mxCode (g : Group) (base i b : Nat) : Nat := g.fragElem 8 (base + 32 + i / 32) (i % 32) b

/-- Index t of group q of row m: two bits of the metadata's nibble (R284). -/
def Group.sparseIdx (g : Group) (bits base m q t : Nat) : Nat :=
  let nib := m * (if bits = 16 then 16 else 32) + q
  g.fragElem 4 (base + 32 + nib / 256) (nib / 8 % 32) (nib % 8) / 4 ^ t % 4

/-! Arithmetic (R288, R289). -/

/-- The exact sum of products (R288 steps 1 to 3, R289). -/
def blockSum : List (FVal × FVal) → FVal
  | [] => .fin false 0 0
  | (a, b) :: t => FVal.add .rn (FVal.mul a b) (blockSum t)

/-- A value rounded once to FP32, to nearest even, limited at the largest finite value; an infinity is kept (R288). -/
def limitF32 (v : FVal) : Nat × Bool :=
  match v with
  | .nan => (fmtF32.nanC, false)
  | .inf n => (fmtF32.signed n fmtF32.infC, false)
  | .fin n m e =>
    if fmtF32.exceeds ⟨m, 1, e⟩ then (fmtF32.maxSigned n, true) else (fmtF32.round .rn n ⟨m, 1, e⟩, false)

/-- Steps 4 to 6 for one block: the accumulator's new value, and whether a value was limited. -/
def accBlock (c : Nat) (sum factor : FVal) : Nat × Bool :=
  let p := FVal.mul sum factor
  let s := if p.isZero then (0, false) else limitF32 p
  let r := limitF32 (FVal.add .rn (fmtF32.val c) (fmtF32.val s.1))
  (r.1, s.2 || r.2)

/-- The blocks of an element, in ascending order. -/
def accBlocks (c : Nat) : List (List (FVal × FVal) × FVal) → Nat × Bool
  | [] => (c, false)
  | (ps, f) :: t =>
    let r := accBlock c (blockSum ps) f
    let q := accBlocks r.1 t
    (q.1, r.2 || q.2)

/-! What a matrix instruction computes. -/

/-- The formats of ELEM codes that have a value per element (R274). -/
def elemFmt (e : Byte) : Option Fmt :=
  if e = 1#8 then some fmtE4m3
  else if e = 2#8 then some fmtE5m2
  else if e = 4#8 then some fmtBf16
  else if e = 5#8 then some fmtF16
  else if e = 7#8 then some fmtF32
  else none

def elemFp8 (e : Byte) : Bool := e == 1#8 || e == 2#8

/-- The three instructions. -/
inductive Mat where
  | dense (small : Option (BitVec 2))
  | sparse
  | mx
  deriving DecidableEq, Repr

/-- Whether R280 lists the slots for the instruction. -/
def Mat.accepts (m : Mat) (a b : FSlot) : Bool :=
  a.sound && b.sound &&
  match m with
  | .mx => a.elem == 3#8 && b.elem == 3#8 && a.scale == 1#8 && b.scale == 1#8
  | .sparse => a.scale != 1#8 && b.scale != 1#8 &&
      ((a.elem == b.elem && (a.elem == 4#8 || a.elem == 5#8)) || (elemFp8 a.elem && elemFp8 b.elem))
  | .dense q => a.scale != 1#8 && b.scale != 1#8 &&
      ((a.elem == b.elem && (a.elem == 4#8 || a.elem == 5#8)) || (q.isNone && elemFp8 a.elem && elemFp8 b.elem))

/-- Bits of an element of the slot's format. -/
def slotBits (s : FSlot) : Nat := if s.elem = 3#8 then 4 else if elemFp8 s.elem then 8 else 16

/-- How many registers A's and B's fragments name (R285). -/
def Mat.regsOf (m : Mat) (bits : Nat) : Nat × Nat :=
  match m with
  | .dense none => (32, 32)
  | .dense (some _) => (16, 16)
  | .sparse => (if bits = 16 then 36 else 40, 64)
  | .mx => (34, 34)

/-- The value of an element code of a slot. -/
def slotVal (s : FSlot) (x : Nat) : FVal := if s.elem = 3#8 then fmtE2m1.val x else ((elemFmt s.elem).getD fmtBf16).val x

/-- The value of an E8M0 scale (R268). -/
def e8m0 (x : Nat) : FVal := if x = 0xFF then .nan else .fin false 1 ((x : Int) - 127)

/-- The products and the factor of block b of element (m, n) (R282 to R284, R288). Of a sparse block only the 16 compressed
products count: an element of B at a depth that no index names takes no part (DESIGN CHOICE, log 52). -/
def Mat.block (x : Mat) (g : Group) (sa sb : FSlot) (va vb m n b : Nat) : List (FVal × FVal) × FVal :=
  let bits := slotBits sa
  let tensor := FVal.mul (.fin false sa.scaleOf.1 sa.scaleOf.2) (.fin false sb.scaleOf.1 sb.scaleOf.2)
  match x with
  | .sparse =>
    ((List.range 16).map (fun i =>
      let k' := 16 * b + i
      let k := 4 * (k' / 2) + g.sparseIdx bits va m (k' / 2) (k' % 2)
      (slotVal sa (g.dense bits va m k'), slotVal sb (g.sparseB bits vb n k))), tensor)
  | .mx =>
    ((List.range 32).map (fun i =>
      (slotVal sa (g.dense bits va m (32 * b + i)), slotVal sb (g.dense bits vb n (32 * b + i)))),
      FVal.mul (e8m0 (g.mxCode va m b)) (e8m0 (g.mxCode vb n b)))
  | .dense _ =>
    ((List.range 32).map (fun i =>
      (slotVal sa (g.dense bits va m (32 * b + i)), slotVal sb (g.dense bits vb n (32 * b + i)))), tensor)

/-- The number of blocks (R280). -/
def Mat.blocks (x : Mat) (bits : Nat) : Nat :=
  match x with
  | .sparse => 32 / bits
  | _ => 16 / bits

/-- The rows and columns written, and where they begin (R295). -/
def Mat.area (x : Mat) : Nat × Nat × Nat :=
  match x with
  | .dense (some q) => (32, if q.getLsbD 1 then 32 else 0, if q.getLsbD 0 then 32 else 0)
  | _ => (64, 0, 0)

/-- The new values of the tile elements written (numbered 64 × row + column), and whether one was limited (R296). -/
def Mat.result (x : Mat) (g : Group) (sa sb : FSlot) (va vb : Nat) (set_ : Bool) (old : Cells 32) :
    List (Nat × Word) × Bool :=
  let (size, r0, c0) := x.area
  let els := (List.range (size * size)).map (fun i =>
    let m := i / size
    let n := i % size
    let at_ := 64 * (r0 + m) + c0 + n
    let r := accBlocks (if set_ then 0 else (old.get at_).toNat)
      ((List.range (x.blocks (slotBits sa))).map (fun b => x.block g sa sb va vb m n b))
    (at_, r))
  (els.map (fun e => (e.1, w32 e.2.1)), els.any (fun e => e.2.2))

/-! Tiles of a team. -/

/-- A tile of the issuing group's team. -/
def State.tile (s : State) (team n : Nat) : Cells 32 := (s.teams.get team).elim [] (fun t => t.tileVals n)

/-- The last tile must lie in the team's allotment (R277). -/
def Iss.needTile (c : Iss) (n : Nat) : Run Unit :=
  need (decide (n < (c.s.teams.get c.g.team).elim 0 (·.accs))) (.berm 0x0502#16 none 0#64 0#64)

/-- An instruction that names a tile with matrix work in flight waits for it (R278). -/
def Iss.tileFree (c : Iss) (ts : List Nat) : Run Unit :=
  need (!(c.s.core c.g.core).mq.any (fun m => m.team == c.g.team && ts.contains m.tile)) .stall

/-- R290: issued by the whole group. -/
def Iss.whole (c : Iss) : Run Unit :=
  need (c.g.launched == fullMask && c.sp.mask == fullMask && c.ex == fullMask) (.berm 0x0501#16 none 0#64 0#64)

/-- A fragment's last register lies in the budget (R285). -/
def Iss.needRegs (c : Iss) (base n : Nat) : Run Unit := need (decide (base + n ≤ c.g.regs)) (.berm 0x0201#16 none 0#64 0#64)

/-- Records a tile before a write of it (R292). -/
def Group.recAcc (g : Group) (n : Nat) (vals : Cells 32) : Group :=
  match g.recGrade with
  | .off => g
  | .mark =>
    if g.hist.touched.acc.getLsbD n then g
    else (g.push (.acc n vals) g.cur).touch (fun t => { t with acc := t.acc ||| BitVec.twoPow 48 n })
  | .step => g.push (.acc n vals) g.cur

/-- Element writes over a tile. -/
def putEls (vals : Cells 32) (els : List (Nat × Word)) : Cells 32 := els.foldl (fun a e => a.set e.1 e.2) vals

/-- A recorded write of a tile by an accumulator instruction. -/
def Iss.setTile (c : Iss) (g : Group) (n : Nat) (new : Cells 32) : State :=
  (c.s.setGroup c.gid (g.recAcc n (c.s.tile c.g.team n))).updTeam c.g.team (fun t => t.putTile n new)

/-! MMA, MMAS, MMAX (R295 to R297). -/

/-- A matrix instruction: its result is computed from the tile and the fragments at issue, where it is accepted, and the
tile is written at its MATRIX_RESULT. -/
def Iss.mat (c : Iss) (x : Mat) (set_ : Bool) (d : TileReg) (a b : VReg) (fa fb : Slot) : Run Fin := do
  let sa := c.s.slot c.g.grid fa.toNat
  let sb := c.s.slot c.g.grid fb.toNat
  need (x.accepts sa sb) (.emu 0x0005#16)
  c.whole
  c.needRegs a.toNat (x.regsOf (slotBits sa)).1
  c.needRegs b.toNat (x.regsOf (slotBits sa)).2
  c.needTile d.toNat
  c.tileFree [d.toNat]
  let old := c.s.tile c.g.team d.toNat
  let (els, hit) := x.result c.g sa sb a.toNat b.toNat set_ old
  need (!(hit && (c.s.core c.g.core).mq.any (fun m => m.gid == c.gid && m.sat))) .stall
  let g := if hit && !c.g.sat.getLsbD satF32 then c.g.recSat else c.g
  let s := c.s.setGroup c.gid (g.recAcc d.toNat old)
  let s := s.setCore c.g.core { s.core c.g.core with
    mq := (s.core c.g.core).mq ++ [⟨c.gid, c.g.team, d.toNat, els, hit⟩] }
  return c.doneS (s.post (.matrixResult c.g.core))

/-- The oldest matrix operation of a core ends: its tile and %sat[7] are written (R278, R296). -/
def State.matDone (s : State) (core : Nat) (m : MatOp) : State :=
  let s := s.setCore core { s.core core with mq := (s.core core).mq.erase m }
  let s := s.updTeam m.team (fun t => t.putTile m.tile (putEls (t.tileVals m.tile) m.vals))
  if m.sat then s.updGroup m.gid (fun g => { g with sat := g.sat ||| BitVec.twoPow 8 satF32 }) else s

/-! Tiles in memory (R287, R300, R301). -/

/-- The address of element i (64 × row + column) of a blocked matrix with bc blocks a row, elements of z bytes. -/
def blockedAddr (base : DWord) (bc z i : Nat) : DWord :=
  let r := i / 64
  let j := i % 64
  base + w64 (((r / 16 * bc + j / 16) * 256 + r % 16 * 16 + j % 16) * z)

/-- Bytes of an element of ACCLD's and ACCST's formats. -/
def elemBytes (e : Byte) : Nat := if e = 7#8 then 4 else if e = 4#8 ∨ e = 5#8 then 2 else 1

/-- The accesses to the 4,096 elements of a tile in memory; the base is aligned to 16 elements (R300, R302). -/
def Iss.tileAccess (c : Iss) (sp : Space) (k : Kind) (base : DWord) (bc z : Nat) : Run (List Acc) :=
  let rs := (List.range 4096).map (fun i =>
    (i, c.s.laneCheck c.g sp k 0 (blockedAddr base bc z i) z))
  let bad := rs.filterMap (fun r => match r.2 with | .error e => some (e, r.1) | .ok _ => none)
  let causes := bad.map (·.1) ++ (if base.toNat % (16 * z) ≠ 0 then [0x0301#16] else [])
  match firstCause causes with
  | some e =>
    let i := ((bad.find? (fun b => b.1 == e)).map (·.2)).getD 0
    raiseA e (blockedAddr base bc z i)
  | none =>
    let accs := rs.filterMap (fun r => match r.2 with
      | .ok ps => some (⟨r.1, blockedAddr base bc z r.1, ps.map (ownPlace c.gid)⟩ : Acc)
      | .error _ => none)
    if c.s.consumes c.g.core c.gid sp k (accs.flatMap (·.places)) then raiseA 0x0307#16 base else .ok accs

/-- The low 16 bits of K(B): blocks per block row. -/
def blocksOf (x : DWord) : Nat := fld x 0 16

/-- ACCLD. As in every instruction of the accumulators outside R290, the tile is tested before Exec: beyond %accs it is 0x0502 with
an empty Exec, too (R277, R294; DESIGN CHOICE, log 53). -/
def Iss.accld (c : Iss) (sp : Space) (d : TileReg) (a b : KReg) (slot : Slot) : Run Fin := do
  let sl := c.s.slot c.g.grid slot.toNat
  match (if sl.sound && sl.scale != 1#8 then elemFmt sl.elem else none) with
  | none => .error (.emu 0x0005#16)
  | some f => do
    c.needTile d.toNat
    if c.ex = 0#32 then return c.done c.g
    else
      let z := elemBytes sl.elem
      let accs ← c.tileAccess sp .load (c.g.rdK a.toNat) (blocksOf (c.g.rdK b.toNat)) z
      c.tileFree [d.toNat]
      let (s, vals) := c.s.takeLoad c.g.core c.gid ⟨.b32, sp, .nl1⟩ accs
      let sc := FVal.fin false sl.scaleOf.1 sl.scaleOf.2
      let els := vals.map (fun x => (x.1, limitF32 (FVal.mul (f.val x.2) sc)))
      let g := c.g.satHit satF32 (els.any (fun e => e.2.2))
      return c.doneS ({ c with s := s }.setTile g d.toNat (putEls [] (els.map (fun (e : Nat × Nat × Bool) => (e.1, w32 e.2.1)))))

/-- INT8 output (R269, R270): the byte and whether %sat[0] is set. -/
def convertInt8 (rm : Rm) (v : QVal) : Nat × Bool :=
  match v with
  | .nan => (0, true)
  | .inf n => (if n then 0x80 else 0x7F, true)
  | .fin n r =>
    let (a, d) := r.at_ 0
    if 127 * d < a then (if n then 0x80 else 0x7F, true)
    else (((signInt n (roundInt rm n r)) % 256).toNat, false)

/-- The %sat bit of an output format (R88). -/
def elemSat (e : Byte) : Nat :=
  if e = 1#8 then satE4m3
  else if e = 2#8 then satE5m2
  else if e = 4#8 then satBf16
  else if e = 5#8 then satF16
  else if e = 6#8 then satInt8
  else satF32

/-- An accumulator value converted by a slot (R270, R302). -/
def convertOut (sl : FSlot) (rm : Rm) (x : Word) : Nat × Bool :=
  let q := quot (f32 x) sl.scaleOf
  match elemFmt sl.elem with
  | some f => f.convert rm (sl.satp == 1#8) (sl.nanp == 1#8) q
  | none => convertInt8 rm q

def Iss.accst (c : Iss) (rm : Rm) (sp : Space) (fl : SFlags) (d : TileReg) (a b : KReg) (slot : Slot) : Run Fin := do
  let sl := c.s.slot c.g.grid slot.toNat
  need (sl.sound && sl.scale != 1#8 && ((elemFmt sl.elem).isSome || sl.elem == 6#8)) (.emu 0x0005#16)
  c.needTile d.toNat
  if c.ex = 0#32 then return c.done c.g
  else
    let z := elemBytes sl.elem
    let accs ← c.tileAccess sp .store (c.g.rdK a.toNat) (blocksOf (c.g.rdK b.toNat)) z
    c.tileFree [d.toNat]
    let flags := c.flagsOf fl
    let _ ← c.g.raiseFlags flags
    c.sealing (fun c => do
      let g ← c.g.raiseFlags flags
      let tile := c.s.tile c.g.team d.toNat
      let out (i : Nat) : Nat × Bool := convertOut sl rm (tile.get i)
      let hit := accs.any (fun x => (out x.lane).2)
      let g := if hit then { g with sat := g.sat ||| BitVec.twoPow 8 (elemSat sl.elem) } else g
      let s := (c.s.setGroup c.gid g).storeBytes g.core c.gid sp .nl1 false
        (accs.flatMap (fun x => bytesAt x.places (out x.lane).1))
      return (if flags.isEmpty then s else s.await (.store c.gid flags) .storePerformed))

/-! ACCMOV (R303). -/

/-- The element number of row r, column l of a quadrant (R295, R303). -/
def quadEl (q : BitVec 2) (r l : Nat) : Nat :=
  64 * ((if q.getLsbD 1 then 32 else 0) + r) + (if q.getLsbD 0 then 32 else 0) + l

def Iss.accmov (c : Iss) (m : AccMode) : Run Fin :=
  match m with
  | .cc d a => do
    c.needTile d.toNat
    c.needTile a.toNat
    if c.ex = 0#32 ∨ d = a then return c.done c.g
    else do
      c.tileFree [d.toNat, a.toNat]
      return c.doneS (c.setTile c.g d.toNat (c.s.tile c.g.team a.toNat))
  | .rd q d a => do
    c.whole
    c.needRegs d.toNat 32
    c.needTile a.toNat
    c.tileFree [a.toNat]
    let tile := c.s.tile c.g.team a.toNat
    let ls := (List.range 32).map (fun r => Loc.own (d.toNat + r))
    let g := c.g.recRun ls fullMask false
    return c.done ((List.range 32).foldl (fun g r => g.wrV (.own (d.toNat + r)) fullMask (fun l => tile.get (quadEl q r l))) g)
  | .wr q d a => do
    c.whole
    c.needRegs a.toNat 32
    c.needTile d.toNat
    c.tileFree [d.toNat]
    let els := (List.range 1024).map (fun i => (quadEl q (i / 32) (i % 32), c.g.v.get (32 * (a.toNat + i / 32) + i % 32)))
    return c.doneS (c.setTile c.g d.toNat (putEls (c.s.tile c.g.team d.toNat) els))

/-! The meanings. -/

def execMma (small : Option (BitVec 2)) (set_ : Bool) (g : Guard) (d : TileReg) (a b : VReg) (fa fb : Slot) (s : State) :
    Out := issue 2 g s (fun c => c.mat (.dense small) set_ d a b fa fb)

def execMmas (set_ : Bool) (g : Guard) (d : TileReg) (a b : VReg) (fa fb : Slot) (s : State) : Out :=
  issue 2 g s (fun c => c.mat .sparse set_ d a b fa fb)

def execMmax (set_ : Bool) (g : Guard) (d : TileReg) (a b : VReg) (fa fb : Slot) (s : State) : Out :=
  issue 2 g s (fun c => c.mat .mx set_ d a b fa fb)

/-- ACCZ (R298): n − 1 is encoded. -/
def execAccz (g : Guard) (d : TileReg) (n : BitVec 3) (s : State) : Out :=
  issue 2 g s (fun c => do
    c.needTile (d.toNat + n.toNat)
    if c.ex = 0#32 then return c.done c.g
    else
      let ts := (List.range (n.toNat + 1)).map (d.toNat + ·)
      c.tileFree ts
      let g := ts.foldl (fun g t => g.recAcc t (c.s.tile c.g.team t)) c.g
      return c.doneS ((c.s.setGroup c.gid g).updTeam c.g.team (fun t =>
        { t with acc := t.acc.clear (tileBase d.toNat) (tileBase (d.toNat + n.toNat + 1)) })))

def execAccld (space : ASpace) (g : Guard) (d : TileReg) (a b : KReg) (slot : Slot) (s : State) : Out :=
  issue 2 g s (fun c => c.accld (aspace space) d a b slot)

def execAccst (rm : Rm) (space : ASpace) (fl : SFlags) (g : Guard) (d : TileReg) (a b : KReg) (slot : Slot) (s : State) :
    Out := issue 2 g s (fun c => c.accst rm (aspace space) fl d a b slot)

def execAccmov (g : Guard) (m : AccMode) (s : State) : Out := issue 2 g s (fun c => c.accmov m)

/-- SATRD (R304). -/
def execSatrd (g : Guard) (d : KReg) (s : State) : Out :=
  regOp 2 g s (fun c => .ok (c.g.setK c.ex d.toNat (c.g.sat.setWidth 64) false))

/-- SATCLR (R305). -/
def execSatclr (g : Guard) (m : SatMask) (s : State) : Out :=
  regOp 2 g s (fun c =>
    let mask : Byte := match m with
      | .k a => (c.g.rdK a.toNat).setWidth 8
      | .imm x => x
    .ok (if c.ex = 0#32 ∨ c.g.sat &&& mask = 0#8 then c.g else { c.g.recSat with sat := c.g.sat &&& ~~~mask }))

/-- MATRIX_RESULT: the core's oldest accepted operation ends. -/
def execMatrixResult (core : Nat) (s : State) : Out :=
  .next (match (s.core core).mq.head? with
    | some m => s.matDone core m
    | none => s)

end Sys2Proof.Machine
end

