-- ==== Sys2Proof/Machine/Port.lean ====
section
/-! DEFINITION. Machine/Port.lean: how the memory port finishes what it has issued (03 R86, 06 R181, R187, R188, R195), L1
fills with their evictions and invalidations (07 R203, R204), the drain timer (R206). -/

namespace Sys2Proof.Machine

/-! Finishing. -/

/-- Registers written by what returned. -/
def Group.arrive (g : Group) (vw : List LaneWrite) (kw : List (Nat × DWord)) (fl : List Nat) : Group :=
  (kw.foldl (fun g w => g.wrK w.1 w.2) (g.applyWrites vw)).lowerFlags fl

/-- The re-issue reaches the page's new home: the port knows it from then on (R187). -/
def Ctx.seen (c : Ctx) (as : List DWord) : Ctx :=
  { c with pages := c.pages.map (fun p =>
      if as.any (fun a => decide (p.va ≤ (a.setWidth 57).toNat) && decide ((a.setWidth 57).toNat < p.va + pageBytes p.size))
      then { p with movedFrom := none } else p) }

/-- The accesses of an atomic that is re-issued; `none` while a lane cannot reach its home. -/
def State.reissueAcc (s : State) (g : Group) (x : MovedAtomic) : Option (List Acc) :=
  x.lanes.mapM (fun l =>
    match s.laneCheck g (aspace x.m.space) .atomic l.lane l.addr (atomBytes x.m) with
    | .ok ps => some ⟨l.lane, l.addr, ps⟩
    | .error _ => none)

/-- The re-issue of the lanes that were answered moved (R187): their effect, their MEMW entry, their old values. -/
def State.reissue (s : State) (id gid split : Nat) (g : Group) (x : MovedAtomic) (fl : List Nat) : State :=
  match s.reissueAcc g x with
  | none => { s with timers := s.timers ++ [.atomicMovedReissue id] }
  | some accs =>
    let s := { s with pend := s.pend.del id }.updCtx g.ctx (fun c => c.seen (accs.map (fun (a : Acc) => a.addr)))
    let (s, olds) := s.atHome g.core gid x.atomic accs
    (s.updGroup gid (fun g => g.fillMemw id x.mask (preOf olds))).await (.atomic gid split x.mask (x.atomic.returns olds) fl)
      .atomicReturn

/-- When no MEMW entry of a group is open any more, the spills that waited are made (R195). -/
def State.spillsOn (s : State) (gid : Nat) : State := if s.memwOpen gid then s else s.updGroup gid Group.freeSpill

/-- One piece of issued work ends. Its group may have left. -/
def State.finish (s : State) (id : Nat) (p : Pending) : State :=
  let s' : State := { s with pend := s.pend.del id }
  match p with
  | .load gid _ _ vw kw => s'.updGroup gid (fun g => g.arrive vw kw [])
  | .kload gid _ _ kw => s'.updGroup gid (fun g => g.arrive [] kw [])
  | .atomic gid _ _ vw fl => (s'.updGroup gid (fun g => g.arrive vw [] fl)).spillsOn gid
  | .store gid fl => s'.updGroup gid (fun g => g.lowerFlags fl)
  | .pref gid fl => s'.updGroup gid (fun g => g.lowerFlags fl)
  | .moved gid n x fl =>
    match s.groups.get gid with
    | some g => s.reissue id gid n g x fl
    | none => s'

/-- All that a group has in flight in the memory port and the matrix engine ends at once; twice, since a re-issue leaves a
return behind. -/
def State.finishGroup (s : State) (gid : Nat) : State :=
  let once (s : State) : State :=
    (s.pend.filter (fun p => p.2.group == gid)).foldl (fun s p => s.finish p.1 p.2) s
  let s := once (once s)
  match s.groups.get gid with
  | none => s
  | some g => ((s.core g.core).mq.filter (fun m => m.gid == gid)).foldl (fun s m => s.matDone g.core m) s

/-- The end of the work with a key, when it is of the kind that the event names. -/
def State.finishIf (s : State) (id : Nat) (kind : Pending → Bool) : State :=
  match s.pend.get id with
  | some p => if kind p then s.finish id p else s
  | none => s

/-! L1 fills (R203). -/

/-- The victims that an outside fill names: an L1 line leaves its bits, or is written back when it is private; an entry of
the directory or of a filter takes the copies that it tracks with it (log 17). -/
def State.evict (s : State) (core : Nat) (ev : Evict) : State :=
  let s := match ev.l1Line with
    | some l =>
      (s.setCore core { s.core core with l1 := (s.core core).l1.filter (fun x => x.line != l || x.priv) }).dropPriv core (· == l)
    | none => s
  let s := match ev.region with
    | some r => s.dropRegion r
    | none => s
  match ev.filterRow with
  | some (b, l) => s.dropRow b l
  | none => s

/-- The line is tracked, then filled with what its home holds; full sets and a full L1 give up what they must (R203). -/
def State.fillLine (s : State) (core line : Nat) : State :=
  let s := ((s.cacheLine line).track core line).roomInL1 core
  let c := s.core core
  s.setCore core { c with
    fills := c.fills.filter (· != line)
    lowFills := c.lowFills.filter (· != line)
    l1 := c.l1.filter (fun x => x.line != line || x.priv) ++ [⟨line, false, c.lowFills.contains line, []⟩] }

/-! The meanings. -/

def execLoadReturn (id : Nat) (s : State) : Out :=
  .next (s.finishIf id (fun p => match p with
    | .load .. => true
    | .kload .. => true
    | _ => false))

def execStorePerformed (id : Nat) (s : State) : Out :=
  .next (s.finishIf id (fun p => match p with
    | .store .. => true
    | _ => false))

def execAtomicReturn (id : Nat) (s : State) : Out :=
  .next (s.finishIf id (fun p => match p with
    | .atomic .. => true
    | _ => false))

def execAtomicMovedReissue (id : Nat) (s : State) : Out :=
  .next (s.finishIf id (fun p => match p with
    | .moved .. => true
    | _ => false))

def execPrefetchComplete (id : Nat) (s : State) : Out :=
  .next (s.finishIf id (fun p => match p with
    | .pref .. => true
    | _ => false))

/-- WCB_DRAIN_TIMER: the line drains (R206). -/
def execWcbDrainTimer (core line : Nat) (s : State) : Out := .next (s.drainLine core line)

/-- L1_MISS_FILL (R203). -/
def execL1MissFill (core line : Nat) (ev : Evict) (s : State) : Out :=
  .next (if (s.core core).fills.contains line then (s.evict core ev).fillLine core line else s)

/-- INVALIDATION: the stores behind it are performed with respect to the core (R204). -/
def execInvalidation (core line : Nat) (s : State) : Out :=
  .next (if (s.core core).invals.contains line then s.dropCopy core line else s)

end Sys2Proof.Machine
end

