-- ==== Sys2Proof/Machine/Walk.lean ====
section
/-! DEFINITION. Machine/Walk.lean: the history engine's walk: the inverses of class X forms (09 R244 and the instructions'
entries), the step of a STEP-grade walk (R242), of a MARK-grade walk (R246), what stops a walk (R247, R255, R211), the
rollback after an uncorrectable error (R253, R254, R256) and the window's refill (R235, R255). -/

namespace Sys2Proof.Machine

/-! Inverses. -/

/-- The surroundings of an inverse: the reverse split in the present state, nothing recorded (R244). -/
def State.revIss (s : State) (gid : Nat) (g : Group) (n : Nat) (gd : Guard) : Iss :=
  let sp : Split := (g.splits.get n).getD ⟨0#57, 0#32, 0#57, 0#48, .ready, none⟩
  { s := s, gid := gid, g := { g with grade := .off }, sn := n, sp := sp, cl := ⟨0#57, none, none, 0, false⟩,
    ex := sp.mask &&& g.guard gd, len := 1 }

/-- The inverse of a form that changes registers alone: its guard and its effect; `none` for a form without one. -/
def regInverse : Instr → Option (Guard × (Iss → Run Group))
  | .iadd z sat o => if !sat && inPlace2 o then some (o.g, fun c => c.sat2 z false o (· - ·)) else none
  | .iaddL96 z sat o => if !sat && inPlaceL o then some (o.g, fun c => c.sat2l z false o (· - ·)) else none
  | .isub z sat o => if !sat && inPlace2 o then some (o.g, fun c => c.sat2 z false o (· + ·)) else none
  | .isubL96 z sat o => if !sat && inPlaceL o then some (o.g, fun c => c.sat2l z false o (· + ·)) else none
  | .iadd64 z sat o => if !sat && inPlace2 o then some (o.g, fun c => c.sat64 z false o (· - ·)) else none
  | .isub64 z sat o => if !sat && inPlace2 o then some (o.g, fun c => c.sat64 z false o (· + ·)) else none
  | .ineg sat o => if !sat && inPlace1 o then some (o.g, fun c => c.sat1 false o (fun a => -a) true) else none
  | .addS d a => if d ≠ a then some (always, fun c => c.short d a (· - ·)) else none
  | .subS d a => if d ≠ a then some (always, fun c => c.short d a (· + ·)) else none
  | .xorS d a => if d ≠ a then some (always, fun c => c.short d a (· ^^^ ·)) else none
  | .rotlS d a => if d ≠ a then some (always, fun c => c.short d a (fun x y => rotrW x y.toNat)) else none
  | .negS d => some (always, fun c => do
      let l ← c.g.loc d.toNat
      return c.g.setV l c.ex (fun n => - c.g.rdV l n) true)
  | .rotl (.src o) => if inPlace2 o then some (o.g, fun c => c.shiftOp (.src o) rotrW true) else none
  | .rotl (.imm g d a n) => if a = .v d then some (g, fun c => c.shiftOp (.imm g d a n) rotrW true) else none
  | .rotr (.src o) => if inPlace2 o then some (o.g, fun c => c.shiftOp (.src o) rotlW true) else none
  | .rotr (.imm g d a n) => if a = .v d then some (g, fun c => c.shiftOp (.imm g d a n) rotlW true) else none
  | .brev o => if inPlace1 o then some (o.g, fun c => c.lane1 o brevW true) else none
  | .xor o => if inPlace2 o then some (o.g, fun c => c.lane2 o (· ^^^ ·) true) else none
  | .xorL96 o => if inPlaceL o then some (o.g, fun c => c.lane2l o (· ^^^ ·) true) else none
  | .not d a => if d = a then some (always, fun c => do
      let l ← c.g.loc d.toNat
      return c.g.setV l c.ex (fun n => ~~~(c.g.rdV l n)) true) else none
  | .notW64 o => if inPlace1 o then some (o.g, fun c => c.lane1 o (fun a => ~~~a) true) else none
  | .pxor na nb o =>
    if o.d = o.a ∧ o.b ≠ o.d ∧ predExact o.g o.d then some (o.g, fun c => c.pbin na nb o (· ^^^ ·) true) else none
  | .pnot g d a => if d = a ∧ predExact g d then some (g, fun c => .ok (c.pred d (~~~(c.g.rdP d.toNat)) true)) else none
  | .swap d a => some (always, fun c => c.swapOp d.toNat (c.g.loc a.toNat))
  | .swapW64 g d a => some (g, fun c => c.swapOp d.toNat (c.g.lloc a))
  | .kadd o => if inPlaceK o then some (o.g, fun c => c.k2op o (· - ·) true) else none
  | .kaddL96 o => if inPlaceKL o then some (o.g, fun c => c.k2lop o (· - ·) true) else none
  | .ksub o => if inPlaceK o then some (o.g, fun c => c.k2op o (· + ·) true) else none
  | .ksubL96 o => if inPlaceKL o then some (o.g, fun c => c.k2lop o (· + ·) true) else none
  | .kxor o => if inPlaceK o then some (o.g, fun c => c.k2op o (· ^^^ ·) true) else none
  | .kxorL96 o => if inPlaceKL o then some (o.g, fun c => c.k2lop o (· ^^^ ·) true) else none
  | _ => none

/-- The inverse of a private exchange: itself, without its flags (R192). -/
def memInverse : Instr → Option (Guard × (Iss → Run Fin))
  | .ldx m g d ad => if m.space = .priv then some (g, fun c => c.ldx m d (c.g.addr ad (sizeBytes m.size))) else none
  | .stx m _ g d ad =>
    if m.space = .priv then some (g, fun c => c.stx m ⟨false, false⟩ d (c.g.addr ad (sizeBytes m.size))) else none
  | .xchg m g d ad => if m.space = .priv then some (g, fun c => c.xchg m d (c.g.addr ad (sizeBytes m.size))) else none
  | _ => none

/-- DROP's inverse: the newest pending drop of the same seal goes (R334). -/
def Iss.undrop (c : Iss) (a : KReg) : Group :=
  if c.ex = 0#32 then c.g
  else match c.s.polderOp c.g.ctx (c.g.rdK a.toNat) 1 with
    | .ok x => { c.g with drops := (c.g.drops.reverse.erase x).reverse }
    | .error _ => c.g

/-- The state after an inverse, the split's grade as it was; an inverse whose operands do not serve changes nothing, as
the instruction did not (DEDUCED, log 24). The one error is a page that is missing or a range lock. -/
def State.inverse (s : State) (gid n : Nat) (i : Instr) : Except Cause State :=
  match s.groups.get gid with
  | none => .ok s
  | some g =>
    let back (s : State) : State := (s.finishGroup gid).updGroup gid (fun x => { x with grade := g.grade })
    match regInverse i, memInverse i, i with
    | some (gd, f), _, _ =>
      match f (s.revIss gid g n gd) with
      | .ok g' => .ok (back (s.setGroup gid g'))
      | .error _ => .ok s
    | none, some (gd, f), _ =>
      let c := s.revIss gid g n gd
      match f { c with s := s.setGroup gid c.g } with
      | .ok r => .ok (back r.s)
      | .error (.berm cause _ _ _) => if cause = 0x0302#16 ∨ cause = 0x0305#16 then .error cause else .ok s
      | .error _ => .ok s
    | none, none, .drop gd a => .ok (back (s.setGroup gid ((s.revIss gid g n gd).undrop a)))
    | _, _, _ => .ok s

/-! A fault of the walk (R247). -/

/-- The walk stops, %dir still 1 and %ic at the last instruction undone. -/
def State.walkFault (s : State) (gid : Nat) (cause : Cause) (detA : DWord) : State :=
  match s.groups.get gid with
  | none => s
  | some g =>
    let n := g.revSplit
    let m := (g.splits.get n).elim 0#32 (·.mask)
    let (id, s) := s.appendFault g.ctx (s.faultRec gid g n cause true m (s.normal g.ctx (g.revPos n)) detA 0#64 0 none)
    s.setGroup gid (g.updRev (fun r => { r with fault := some id }))

/-- Entries undone, or what stops them: `none` is the wait for a range lock. A rollback's walk that meets damaged history takes
0x0403 alone, as any walk (R254, R255; DESIGN CHOICE, log 55). -/
def State.undoRun (s : State) (gid depth n : Nat) (ok : State → Option State) : Option State :=
  match s.groups.get gid with
  | none => ok s
  | some g =>
    let es := g.hist.stack.take n
    match s.revCause gid g es with
    | some (c, a) => if c = 0x0305#16 then none else some (s.walkFault gid c a)
    | none => match s.undoAll gid depth es with
      | some s' => ok s'
      | none => some (s.walkFault gid 0x0403#16 0#64)

/-! STEP grade (R242). -/

/-- The address of the instruction to undo; the cause where the code does not serve (R48, R49). -/
def State.undoneAt (s : State) (g : Group) : Found CAddr :=
  let n := g.revSplit
  let p := s.normal g.ctx (g.revPos n)
  let cfr := (g.splits.get n).elim (0#57, 0#48) (fun sp => (sp.cfrPc, sp.cfrIc))
  let before : Found CAddr :=
    if lenCode (s.rawParcel g.ctx p) = 3 ∧ cfr.2 = g.ic then .ok cfr.1 else s.predecessor g.ctx p
  match g.hist.stack.head? with
  | some ⟨c, _, .emuframe a _ true _ _ _⟩ => if c = (g.ic - 1#48).setWidth 32 then .ok a else before
  | _ => before

/-- Whether the instruction to undo was emulated: a close frame that counts, not a retry's, is on top. -/
def Group.emulated (g : Group) : Bool :=
  match g.hist.stack.head? with
  | some ⟨c, _, .emuframe _ _ true true false _⟩ => c == (g.ic - 1#48).setWidth 32
  | _ => false

/-- The end of a step: %ic and the split's position. -/
def State.stepBack (s : State) (gid n : Nat) (x : CAddr) : State :=
  s.updGroup gid (fun g => ({ g with ic := g.ic - 1#48 } : Group).setPos n (s.normal g.ctx x))

/-- The instruction to undo: its entries, then the inverse of its class X form. `s0` is the state that a fault leaves. -/
def State.undoInstr (s0 s : State) (gid : Nat) : Option State :=
  match s.groups.get gid with
  | none => some s0
  | some g =>
    match s.undoneAt g with
    | .error (c, a) => some (s0.walkFault gid c (a.setWidth 64))
    | .ok x =>
      let n := g.revSplit
      let k := takeLen false ((g.ic - 1#48).setWidth 32) g.hist.stack.length g.hist.stack
      let es := g.hist.stack.take k
      match s.revCause gid g es with
      | some (c, a) => if c = 0x0305#16 then none else some (s0.walkFault gid c a)
      | none => match s.undoAll gid 0 es with
        | none => some (s0.walkFault gid 0x0403#16 0#64)
        | some s1 =>
          if g.emulated then some (s1.stepBack gid n x)
          else match s1.instrAt g.ctx x with
            | .error _ => some (s1.stepBack gid n x)
            | .ok i => match s1.inverse gid n i with
              | .ok s2 => some (s2.stepBack gid n x)
              | .error c => if c = 0x0305#16 then none else some (s0.walkFault gid c (x.setWidth 64))

/-- One step of a STEP-grade walk: the boundary entries, then the instruction. -/
def State.stepWalk (s : State) (gid : Nat) (g : Group) : Option State :=
  let k := takeLen true (g.ic.setWidth 32) g.hist.stack.length g.hist.stack
  let es := g.hist.stack.take k
  match s.revCause gid g es with
  | some (c, a) => if c = 0x0305#16 then none else some (s.walkFault gid c a)
  | none => match s.undoAll gid 0 es with
    | none => some (s.walkFault gid 0x0403#16 0#64)
    | some s1 => s.undoInstr s1 gid

/-- The entries down to the open frame of the outermost of k abandoned handlers (R395). -/
def openLen : Nat → Nat → List HEntry → Nat
  | _, 0, _ => 0
  | _, _, [] => 0
  | d, k + 1, e :: t =>
    match e.kind with
    | .emuframe _ _ true .. => 1 + openLen (d + 1) (k + 1) t
    | .emuframe _ _ false .. => if d = 0 then 1 + openLen 0 k t else 1 + openLen (d - 1) (k + 1) t
    | _ => 1 + openLen d (k + 1) t

/-! Landing points of a rollback (R253). -/

/-- The highest mark below a count, at or above the floor; the floor when there is none. -/
def Group.lowerMark (g : Group) (below : Count) : Count :=
  (g.marks.find? (fun p => decide (g.dist g.floor ≤ g.dist p) && decide (g.dist p < g.dist below))).getD g.floor

/-- The landing of a walk. A REVERSE of a group with %step set halts it there, as any instruction that it issues (R416). -/
def State.landed (s : State) (gid : Nat) (r : Rev) : State :=
  if r.dst.isSome then (s.land gid).stepHalt gid r.s else s.land gid

/-- The landing point is reached: a rollback of which a word is still damaged goes on to the next lower mark, or takes 0x0404
at the floor; else the walk lands (R253, R256). -/
def State.reach (s : State) (gid : Nat) (g : Group) (r : Rev) : State :=
  if r.rollback && !r.dmg.isEmpty then
    if r.land = g.floor then
      let s := s.landed gid r
      match s.groups.get gid with
      | some g => s.imprecise gid g 0x0404#16 0#32 0#64
      | none => s
    else s.setGroup gid (g.updRev (fun r => { r with land := g.lowerMark r.land, rounded := true }))
  else s.landed gid r

/-! MARK grade (R246). -/

/-- The state of the mark, or of the commit, is restored, and the walk lands. A rollback of which a word is still damaged passes a
mark above the floor (R253). -/
def State.restoreAt (s : State) (gid : Nat) (g : Group) (r : Rev) (n : Snapshot) (marked : Bool) : State :=
  if r.rollback && !r.dmg.isEmpty && marked && r.land != g.floor then s.reach gid g r
  else
    let s := { s with growQ := s.growQ.filter (fun q => q.gid != gid) }
    let n := { n with splits := n.splits.map (fun x => (x.1, { x.2 with wait := s.restoredWait g.ctx gid x.1 x.2.wait })) }
    let g := { g.restore n with ic := r.land }
    (s.setGroup gid g).reach gid g r

/-- One step of a MARK-grade walk. -/
def State.markWalk (s : State) (gid : Nat) (g : Group) (r : Rev) : Option State :=
  match g.hist.stack with
  | [] => some (s.restoreAt gid g r g.hist.snap false)
  | e :: _ =>
    match e.kind with
    | .markrec pos _ snap _ =>
      if pos = r.land then some (s.restoreAt gid g r snap true) else s.undoRun gid 0 1 some
    | _ => s.undoRun gid 0 1 some

/-! The step. -/

/-- One step of a group's walk, the end of a reversal's wait among them (R240); `none` while it may not take one. -/
def State.walkStep (s : State) (gid : Nat) : Option State :=
  match s.groups.get gid with
  | none => none
  | some g =>
    match g.hist.rev with
    | none => none
    | some r =>
      if r.waiting then
        if s.switched g.ctx || !s.mayReverse gid g then none
        else some ((s.release g.core gid .device).begin gid { r with waiting := false })
      else if !g.dir || r.fault.isSome || s.switched g.ctx || s.memwOpen gid then none
      else if 0 < r.unwind then
        s.undoRun gid 1 (openLen 0 r.unwind g.hist.stack) (fun s =>
          some (s.updGroup gid (fun g => g.updRev (fun r => { r with unwind := 0 }))))
      else if r.marked then s.markWalk gid g r
      else if g.ic = r.land then some (s.reach gid g r)
      else s.stepWalk gid g

/-- REVERSE_WALK_STEP (R242, R246). -/
def execReverseWalkStep (gid : Nat) (s : State) : Out := .next ((s.walkStep gid).getD s)

/-! Rollback (R253). -/

/-- The content of the damaged word is unknown until something restores it (log 18). -/
def State.spoil (s : State) (gid : Nat) (g : Group) (d : Damage) : State :=
  let x (i : Nat) : Word := Config.damagedWord (s.fresh + i)
  let s' := { s with fresh := s.fresh + 4096 }
  match d with
  | .vreg n l => s'.setGroup gid { g with v := g.v.set (32 * n + l) (x 0) }
  | .kreg n => s'.setGroup gid { g with k := g.k.set n (joinW (x 0) (x 1)) }
  | .pred n => s'.setGroup gid { g with p := g.p.set n (x 0) }
  | .tile n => s'.updTeam g.team (fun t => t.putTile n (Cells.setRun [] 0 x 4096))
  | .line n => s.setGroup gid { g with hist := { g.hist with bad := g.hist.bad ++ [n] } }
  | _ => s

/-- Whether the word exists in the group. -/
def Damage.sound (d : Damage) (g : Group) : Bool :=
  match d with
  | .vreg n l => decide (n < g.regs) && decide (l < 32)
  | .kreg n => decide (0 < n) && decide (n < 64)
  | .pred n => decide (n < 63)
  | .tile n => decide (n < 48)
  | .history => true
  | .line n => decide (g.hbase.toNat < 128 * (n + 1)) && decide (128 * n < g.hsp.toNat)
  | .stream n => decide (n < 8)
  | .word _ _ => true
  | .store _ => true
  | .l1 _ _ => true
  | .tracks _ => true
  | .cxl _ => true
  | .corrected _ _ => true

/-- The group leaves every handler; its clause in flight stays with its split (R395). -/
def Group.dropFrames (g : Group) : Group :=
  let g : Group := match g.frames.getLast? with
    | some f => { g with
        frames := [], winV := f.winV, winW := f.winW, splits := f.aside, parked := f.parkedAside, clause := f.clauseAside,
        cur := f.split, lastStart := f.started, inARow := f.row, yielded := f.yielded, stopped := false }
    | none => g
  { g with splits := if g.clause.isSome then g.splits.upd g.cur (fun sp => { sp with mid := g.clause }) else g.splits
           clause := none }

/-- The group out of every handler, its surrender routine over with them (R395). -/
def State.abandon (s : State) (gid : Nat) (g : Group) : State :=
  let s := match (g.frames.find? (fun f => f.kind == .surrender)) with
    | some f => s.routineOver f.tile
    | none => s
  s.setGroup gid g.dropFrames

/-- The rollback of a group that is not reversing. -/
def State.startRollback (s : State) (gid : Nat) (g : Group) (d : Damage) : State :=
  let opened := (g.frames.filter (fun f => f.frameOpen)).length
  let s := (s.abandon gid g).release g.core gid .system
  let g := g.dropFrames
  let land := (g.marks.find? (fun p => decide (g.dist g.floor ≤ g.dist p) && decide (g.dist p ≤ g.dist g.ic))).getD g.floor
  let r := { s.orderedRev g land land false 0#64 with info := none, rollback := true, dmg := [d], unwind := opened }
  s.updGroup gid (fun g => { g with dir := true, hist := { g.hist with rev := some r } })

/-- The key of the structure that an error lies in: 16 × core + its place in R423's order. A slice has the number of the core that
it lies under (R20). -/
def Damage.key (d : Damage) (core : Nat) : Nat :=
  match d with
  | .tile _ => 16 * core + 2
  | .history => 16 * core + 1
  | .line _ => 16 * core + 1
  | .word true a => 16 * tileSlice (tileOf a) + 4
  | .word false a => 16 * (64 * homeDie a + homeSlice a) + 5
  | .store _ => 16 * core + 1
  | .l1 c _ => 16 * c + 3
  | .tracks c => 16 * c + 6
  | .corrected c n => 16 * c + n
  | _ => 16 * core

/-- Whether a structure is due: two uncorrected errors, 1,024 corrected ones in the present hour, or the signed policy (R424). -/
def Field.due (f : Field) (key : Nat) : Bool :=
  let bad := (f.uncorrected.get key).getD 0
  let hour := (f.hour.get key).getD 0
  decide (2 ≤ bad) || decide (1024 ≤ hour) || Config.policyDue bad hour || f.pastDue.contains key

/-- A structure of a slice, the directory and the filters with it, over a threshold raises the replacement request: none of them is
replaced (R424; DESIGN CHOICE of where the directory and the filters belong, log 49). -/
def State.sliceDue (s : State) (key : Nat) : State :=
  if decide (4 ≤ key % 16) && s.field.due key then { s with mgmt := { s.mgmt with replReq := true } } else s

/-- An error enters the field records: uncorrectable, or corrected (R423). -/
def State.eccError (s : State) (key : Nat) : State :=
  { s with field := { s.field with uncorrected := bump s.field.uncorrected key } }.sliceDue key

def State.eccFixed (s : State) (key : Nat) : State :=
  { s with field := { s.field with corrected := bump s.field.corrected key, hour := bump s.field.hour key } }.sliceDue key

/-- The place of a damaged word of memory. -/
def wordPlace (polder : Bool) (a : Nat) : Place := if polder then .pol a else .glob a

/-- A byte's word becomes uncorrectable (R185). -/
def State.ruin (s : State) (p : Place) : State := if s.poison.contains p then s else { s with poison := s.poison ++ [p] }

/-- A line of an L1 is lost: a copy goes, as it does when it is evicted; of a private line the words that have dirty bytes become
uncorrectable (DEDUCED, log 54). -/
def State.loseLine (s : State) (core line : Nat) : State :=
  let c := s.core core
  let gone := c.dirty.filter (fun b => lineOf b.1 == line)
  let s := s.setCore core { c with
    l1 := c.l1.filter (fun x => x.line != line), dirty := c.dirty.filter (fun b => lineOf b.1 != line) }
  gone.foldl (fun s b => s.ruin (.glob b.1)) s

/-- A stream's contents are lost; the context takes 0x0803 (R373, R376). -/
def State.loseStream (s : State) (ctx gridNo n : Nat) : State :=
  let x := s.stream ctx n
  (s.setStream ctx n { x with openBatches := [], closed := [], outstanding := [] }.settle).ctxFault ctx gridNo 0 0x0803#16 (w64 n)
    0#64 [w64 n]

/-- ROLLBACK (R253 to R256), of an error in a group's own state: what cannot be recovered, and a commit whose floor the group
has not reached yet, takes 0x0404, its handlers discarded (R254, R395). 0x0404 stops no split (DEDUCED, log 25). -/
def State.groupError (s : State) (gid : Nat) (g : Group) (dmg : Damage) : State :=
  if !Damage.sound dmg g then s
  else
    let s := (s.finishGroup gid).spoil gid ((s.finishGroup gid).groups.get gid |>.getD g) dmg
    match s.groups.get gid with
    | none => s
    | some g =>
      let s := s.eccError (Damage.key dmg g.core)
      if g.grade = .off ∨ dmg = .history ∨ g.dist g.ic < g.dist g.floor then
        let s := if g.frames.isEmpty then s else s.abandon gid g
        match s.groups.get gid with
        | some g => s.imprecise gid g 0x0404#16 0#32 0#64
        | none => s
      else
        let s := { s with field := { s.field with rollbacks := bump s.field.rollbacks g.core } }
        match g.hist.rev with
        | none => s.startRollback gid g dmg
        | some _ =>
          let mk := g.lowerMark (g.ic + 1#48)
          s.setGroup gid (g.updRev (fun r =>
            if g.dist mk < g.dist r.land then
              { r with land := mk, rounded := true, rollback := true, dmg := r.dmg ++ [dmg] }
            else { r with rollback := true, dmg := r.dmg ++ [dmg] }))

/-- ROLLBACK: an error is found. In a group's own state it rolls the group back; in a spilled line it waits for the read that meets
it; in a stream it loses the stream's contents; in memory the word becomes uncorrectable (R185), a poisoned byte that a CXL
read returns among them, which is no error of a structure (R427); a corrected one is counted. -/
def execRollback (gid : Nat) (dmg : Damage) (s : State) : Out :=
  .next (match dmg with
    | .corrected c n => s.eccFixed (16 * c + n)
    | .word polder a => (s.eccError (Damage.key dmg 0)).ruin (wordPlace polder a)
    | .l1 c line => (s.eccError (Damage.key dmg 0)).loseLine c line
    | .tracks _ => s.eccError (Damage.key dmg 0)
    | .cxl a => s.ruin (.glob a)
    | _ => match s.groups.get gid with
      | none => s
      | some g =>
        match dmg with
        | .line n =>
          if Damage.sound dmg g then (s.spoil gid g (.line n)).eccError (Damage.key dmg g.core) else s
        | .store off => (s.eccError (Damage.key dmg g.core)).ruin (.cs g.team off)
        | .stream n => if Damage.sound dmg g then s.loseStream g.ctx g.gridNo n else s
        | _ => s.groupError gid g dmg)

/-! Refill (R235, R255). -/

/-- HISTORY_REFILL: the newest spilled half-buffer comes back. Damage found outside a walk, by this refill or by the spill
before it, discards the history by an implicit commit, which is counted; in a walk it stops the walk. The commit is no
instruction's, so that %cmark is %ic − 1 and the snapshot the present splits', as the default action's at a boundary (R237;
DESIGN CHOICE, log 55). -/
def execHistoryRefill (gid : Nat) (damaged : Bool) (s : State) : Out :=
  .next (match s.groups.get gid with
    | none => s
    | some g =>
      let lo := max g.hbase.toNat (g.hist.winLo - 1024 * g.hbuf / 2)
      if !damaged && !(g.badWithin (g.hsp.toNat - lo)) then
        s.setGroup gid { g with hist := { g.hist with winLo := lo } }
      else if g.dir then (if (g.hist.rev.bind (·.fault)).isSome then s else s.walkFault gid 0x0403#16 0#64)
      else
        let s := (s.finishGroup gid).commitOuter gid g.core g.drops
        let s := { s with field := { s.field with discards := bump s.field.discards g.core } }
        s.updGroup gid (fun g =>
          { (if g.inHandler then g.commitAt g.ic else g.commitBelow g.snapshot) with drops := [] }))


end Sys2Proof.Machine
end

