-- ==== Sys2Proof/Machine/Preempt.lean ====
section
/-! DEFINITION. Machine/Preempt.lean: pre-emption and the restore of a context (17_traps R394 to R397, 01 R17), the removal of
grids and contexts (R398), the migration of a page (06 R187). -/

namespace Sys2Proof.Machine

/-! Pre-emption (R394). -/

def allEngines : List Engine := [.lane, .matrix, .memory, .copy, .task, .batcher, .history]

def State.ctxGroups (s : State) (ctx : Nat) : Tbl Group := s.groups.filter (fun g => g.2.ctx == ctx)

/-- Whether a group's routine has ended and waits for its handover alone (R322). -/
def State.handsOver (s : State) (g : Group) : Bool := g.splits.all (fun x => match x.2.wait with
  | .sweep id => (s.sweeps.get id).any (fun w => match w with
    | .handover .. => true
    | _ => false)
  | _ => false)

/-- Whether a group stands where it may be cut: at a clause boundary, no result due, not in a surrender routine that runs; a halted
one acknowledges at once (R415). -/
def State.cutHere (s : State) (gid : Nat) (g : Group) : Bool :=
  g.clause.isNone && !s.resultsDue gid && (!g.inRoutine || g.stopped || g.halted || s.handsOver g)

/-- The dies on which a context runs, each with its collector (R19, R394). -/
def Ctx.dies (c : Ctx) : List Nat := (List.range 4).filter (fun d => d == 0 && c.cores.isEmpty || c.cores.any (fun k => dieOf k == d))

/-- The acknowledgements that a pre-emption waits for: of every engine, from every collector. -/
def Ctx.acks (c : Ctx) : List Slice := c.dies.flatMap (fun d => allEngines.map (fun e => ⟨d, e⟩))

/-- Whether the slices of an engine on a die may acknowledge. The engines that the lane engine feeds acknowledge after it. -/
def State.mayAck (s : State) (ctx : Nat) (acked : List Slice) (x : Slice) : Bool :=
  let gs := (s.ctxGroups ctx).filter (fun g => dieOf g.2.core == x.die)
  !acked.contains x &&
  match x.engine with
  | .lane => gs.all (fun g => s.cutHere g.1 g.2)
  | .matrix => acked.contains ⟨x.die, .lane⟩ &&
      !s.cores.any (fun c => dieOf c.1 == x.die && c.2.mq.any (fun m => (s.teams.get m.team).elim false (fun t => t.ctx == ctx)))
  | .memory => acked.contains ⟨x.die, .lane⟩ && !s.pend.any (fun p => gs.any (fun g => g.1 == p.2.group))
  | .history => acked.contains ⟨x.die, .lane⟩
  | _ => true

/-- Records in the order in which they entered bins (DESIGN CHOICE, log 22). -/
def insertRec (r : Rec) : List Rec → List Rec
  | [] => [r]
  | x :: t => if r.stamp < x.stamp then r :: x :: t else x :: insertRec r t

/-- Bins that hold records of the grids chosen are emptied: the records and the state. -/
def State.takeBins (s : State) (grids : Nat → Bool) : List Rec × State :=
  let recs := s.cores.flatMap (fun c => c.2.bins.flatMap (fun b => if grids b.2.grid then b.2.recs else []))
  let cores := s.cores.map (fun c => (c.1, { c.2 with bins := c.2.bins.filter (fun b => !grids b.2.grid) }))
  let timers := s.timers.filter (fun i => !s.cores.any (fun c => c.2.bins.any (fun b =>
    grids b.2.grid && i == Instr.binTimerExpiry c.1 b.1)))
  (recs.foldl (fun l r => insertRec r l) [], { s with cores := cores, timers := timers })

/-- The context's bins as they stand, with their cores (R352). -/
def State.ctxBins (s : State) (ctx : Nat) : List (Nat × Bin) :=
  s.cores.flatMap (fun c => (c.2.bins.filter (fun b => s.gridCtx b.2.grid == ctx)).map (fun b => (c.1, b.2)))

/-- The image is written to the save area that Berm named, as far as there are addresses (R4, R394, R396). Where a range lock covers
the area, or it lies behind a failed port, the write faults against the context (R208, R427; DESIGN CHOICE, log 51), and the image
stays as it is kept (log 29). -/
def State.writeSave (s : State) (ctx : Nat) : State :=
  match (s.ctxs.get ctx).bind (fun c => c.save.bind (fun a => c.image.map (fun i => (a, s.imageBytes ctx c i)))) with
  | some (a, bs) =>
    let bs := bs.take (2 ^ 52 - a)
    let some_ (bad : Place → Bool) : Bool := (List.range bs.length).any (fun i => bad (.glob (a + i)))
    if !s.copies.isEmpty && some_ s.locked then s.ctxFault ctx 0 0 0x0305#16 (w64 a) 0#64 []
    else if !s.failed.isEmpty && some_ s.cxlFailed then s.ctxFault ctx 0 0 0x0307#16 (w64 a) 0#64 []
    else { s with mem := bs.zipIdx.foldr (fun b m => m.set (a + b.2) b.1) s.mem }
  | none => s

/-- The context's groups, teams and bins leave the cores for its image, which is written to the save area (R352, R394, R396; logs
21, 22, 29). -/
def State.saveImage (s : State) (ctx : Nat) : State :=
  let gs := s.ctxGroups ctx
  let s := gs.foldl (fun s g => (s.release g.2.core g.1 .device).writeBack g.2.core) s
  let bins := s.ctxBins ctx
  let s := (s.takeBins (fun g => s.gridCtx g == ctx)).2
  let gs := (s.ctxGroups ctx).map (fun g =>
    (g.1, { g.2 with spawnHold := false, hist := g.2.hist.spillTo g.2.hsp.toNat }))
  let ts := s.teams.filter (fun t => t.2.ctx == ctx)
  let s := { s with
    groups := s.groups.filter (fun g => g.2.ctx != ctx)
    teams := s.teams.filter (fun t => t.2.ctx != ctx)
    growQ := s.growQ.filter (fun q => !gs.any (fun g => g.1 == q.gid)) }
  ((s.updCtx ctx (fun c => { c with preempt := none, image := some ⟨gs, ts, bins⟩ })).writeSave ctx).retryAll

/-- PREEMPT_REQUEST: Berm names the save area. Berm itself is no context to be switched out. -/
def execPreemptRequest (r : Preemption) (s : State) : Out :=
  .next (if r.ctx = bermKey then s
    else s.updCtx r.ctx (fun c =>
      if c.preempt.isNone && c.image.isNone then { c with preempt := some [], save := some r.area } else c))

/-- PREEMPT_ACK: the last acknowledgement of the last collector completes the pre-emption. -/
def execPreemptAck (ctx : Nat) (x : Slice) (s : State) : Out :=
  .next (match s.ctxs.get ctx with
    | none => s
    | some c => match c.preempt with
      | none => s
      | some acked =>
        if !s.mayAck ctx acked x then s
        else
          let acked := acked ++ [x]
          let s := s.updCtx ctx (fun c => { c with preempt := some acked })
          if c.acks.all (fun y => acked.contains y) then s.saveImage ctx else s)

/-! Restore (R17, R239). -/

/-- A group of the image in a slot of its quadrant. -/
def State.restoreGroup (s : State) (core gid : Nat) (g : Group) : Option State :=
  match (s.freeSlots core (g.groupNo % 4)).head? with
  | none => none
  | some slot =>
    if g.allot ≤ s.quadFree (4 * core + g.groupNo % 4) ∧ s.histUsed core + g.hbuf ≤ 256 then
      some (s.setGroup gid ({ g with core := core, slot := slot }.mapSplits (fun n sp =>
        { sp with wait := s.restoredWait g.ctx gid n sp.wait })))
    else none

/-- A team of the image, whole, on one core. It is no new team, so that a core which a waiting cluster has reserved may take it
(R28; DESIGN CHOICE, log 53). -/
def State.restoreTeam (s : State) (ctx : Nat) (i : Image) (place : List (Nat × Nat)) (team : Nat) (t : Team) : Option State :=
  match place.find? (fun p => p.1 == team), s.grids.get t.grid with
  | some (_, core), some gr =>
    let ts := s.coreTeams core
    if s.enabled core && ((s.ctxs.get ctx).elim false (fun c => c.cores.contains core)) &&
        decide ((ts.map (fun t => t.2.csSize)).sum + t.csSize ≤ csOf gr.lrec.carve) &&
        decide ((ts.map (fun t => t.2.accs)).sum + t.accs ≤ 48) && (ts.isEmpty || (s.core core).carve == some gr.lrec.carve)
    then
      let s := s.carve core gr.lrec.carve
      (i.groups.filter (fun g => g.2.team == team)).foldlM (fun s g => s.restoreGroup core g.1 g.2)
        { s with teams := s.teams.put team { t with core := core } }
    else none
  | _, _ => none

/-- A bin of the image on the core that now holds the teams it stood beside, the lowest of those that its records allow; where none
is left, or no bin is free, its records wait on the ready list. Its timer goes on (R349, R352). -/
def State.restoreBin (s : State) (ctx : Nat) (i : Image) (b : Nat × Bin) : State :=
  let hold (s : State) : State := s.updCtx ctx (fun c => { c with pool := { c.pool with ready := c.pool.ready ++ b.2.recs } })
  let home := leastBy (fun (t : Nat × Team) => t.2.teamNo)
    (i.teams.filter (fun t => t.2.core == b.1 && b.2.recs.head?.any (fun r => r.allows t.2)))
  match home.bind (fun t => s.teams.get t.1) with
  | none => hold s
  | some t =>
    let c := s.core t.core
    match b.2.recs.head?.bind (fun r => binFor c.bins r) with
    | some (k, x) =>
      let x := { x with recs := b.2.recs.foldl (fun l r => insertRec r l) x.recs, expired := x.expired || b.2.expired }
      s.setCore t.core { c with bins := c.bins.put k x }
    | none => match c.bins.freeFrom 0 64 with
      | some k =>
        let s := s.setCore t.core { c with bins := c.bins.put k b.2 }
        if b.2.expired then s else { s with timers := s.timers ++ [.binTimerExpiry t.core k] }
      | none => hold s

/-- Whether every cluster of the image comes to stand on one rectangle of one die, each team on the core of its position (R16, R18,
R32). -/
def State.placesClusters (s : State) (i : Image) (place : List (Nat × Nat)) : Bool :=
  let core (k : Nat) : Option Nat := (place.find? (fun p => p.1 == k)).map (·.2)
  i.teams.all (fun t => (s.grids.get t.2.grid).any (fun gr =>
    let n := gr.lrec.cw * gr.lrec.ch
    (rectangles gr.lrec.cw gr.lrec.ch).any (fun r => i.teams.all (fun u =>
      u.2.grid != t.2.grid || u.2.cluster != t.2.cluster || core u.1 == r[u.2.teamNo % n]?))))

/-- The copies of a context go on after its restore, in the queues of the cores that their groups now have, or, where a group has
exited, its team (R328). -/
def State.restartCopies (s : State) (ctx : Nat) : State :=
  let core (c : Copy) : Nat := (s.groups.get c.gid).elim ((s.teams.get c.team).elim c.core (·.core)) (·.core)
  let s := { s with copies := s.copies.map (fun (c : Nat × Copy) =>
    (c.1, if c.2.ctx = ctx then { c.2 with core := core c.2 } else c.2)) }
  let registering (id : Nat) : Bool := s.sweeps.any (fun w => match w.2 with
    | .register c => c == id
    | _ => false)
  (s.copies.filter (fun c => c.2.ctx == ctx && !c.2.paused && !registering c.1)).foldl
    (fun s c => s.post (.copyComplete c.1)) s

/-- CONTEXT_RESTORE: every team whole onto the core that Berm names, each cluster on a rectangle, or nothing. Groups for whose
records the pool was extended meanwhile leave (R345). -/
def execContextRestore (ctx : Nat) (place : List (Nat × Nat)) (s : State) : Out :=
  .next (match (s.ctxs.get ctx).bind (·.image) with
    | none => s
    | some i =>
      if s.hot || !s.placesClusters i place then s
      else match i.teams.foldlM (fun s t => s.restoreTeam ctx i place t.1 t.2) s with
        | none => s
        | some s' =>
          let s := (s'.updCtx ctx (fun c => { c with image := none })).restartCopies ctx
          let s := i.groups.foldl (fun s g => s.reap g.1) s.locksDropped
          (i.bins.foldl (fun s b => s.restoreBin ctx i b) s).retryAll)

/-! Removal (R398). -/

/-- A range of the polder is cleared (R306). -/
def State.clearTile (s : State) (t : Nat) : State := { s with polder := s.polder.clear (t * 2 ^ 18) ((t + 1) * 2 ^ 18) }

/-- The places of a task record's WAITERS (R356). -/
def TaskWait.field (w : TaskWait) : List Place := (List.range 8).map (fun i => w.place.add (16 + i))

/-- Wait lists without the records chosen; a task record that nothing waits for any more holds zero in WAITERS, once no range lock
and no seal covers it (R208, R209); behind a failed port the write faults (R427). -/
def State.dropRecs (s : State) (ctx : Nat) (gone : Nat → Bool) : State :=
  let keep (l : List Rec) : List Rec := l.filter (fun r => !gone r.grid)
  let (_, s) := s.takeBins gone
  match s.ctxs.get ctx with
  | none => s
  | some c =>
    let last (w : TaskWait) : Bool := (keep w.recs).isEmpty && s.unbarred (TaskWait.field w)
    let s := (c.taskWaits.filter last).foldl (fun s w => s.putBytes noCore (bytesAt (TaskWait.field w) 0)) s
    let s := (c.taskWaits.filter (fun w => (keep w.recs).isEmpty && !last w)).foldl (fun s w =>
      (s.portFault ctx 0 (TaskWait.field w) (w64 ((TaskWait.field w).headD (.glob 0)).addr)).getD s) s
    let s := s.updCtx ctx (fun c => { c with
      pool := { c.pool with ready := keep c.pool.ready }
      events := c.events.map (fun e => (e.1, { e.2 with waiters := keep e.2.waiters }))
      taskWaits := (c.taskWaits.filter (fun w => !last w)).map (fun w => { w with recs := keep w.recs })
      predWaits := (c.predWaits.map (fun w => { w with recs := keep w.recs })).filter (fun w => !w.recs.isEmpty)
      image := c.image.map (fun i => { i with bins := i.bins.filter (fun b => !gone b.2.grid) }) })
    { s with seals := s.seals.map (fun x => (x.1, { x.2 with waiters := keep x.2.waiters })) }

/-- What waits for a reversal of a group that is gone learns that no group is there (R399; DEDUCED, log 23). -/
def State.revLost (s : State) (gid : Nat) (g : Group) : State :=
  match g.hist.rev with
  | none => s
  | some r =>
    let s := match r.revg with
      | some (i, d) => (s.answer i d 2).updGroup i (fun x => x.wake (.revg gid))
      | none => s
    match r.dbg with
    | some (ctx, seq, loc) => s.updCtx ctx (fun c => c.dbgPost (g.reply 0x06 2 seq 0#64 0#64 loc))
    | none => s

/-- The groups chosen are cut, with all that the engines hold for them; no image is kept. -/
def State.cutGroups (s : State) (ctx : Nat) (gone : Group → Bool) : State :=
  let gs := s.groups.filter (fun g => g.2.ctx == ctx && gone g.2)
  let out := ((s.ctxs.get ctx).bind (·.image)).elim [] (fun i => i.groups.filter (fun g => gone g.2))
  let is (gid : Nat) : Bool := gs.any (fun g => g.1 == gid) || out.any (fun g => g.1 == gid)
  let s := gs.foldl (fun s g => s.release g.2.core g.1 .device) s
  let s := gs.foldl (fun s g => s.revLost g.1 g.2) s
  let s := { s with
    groups := s.groups.filter (fun g => !is g.1)
    growQ := s.growQ.filter (fun q => !is q.gid)
    pend := s.pend.filter (fun p => !is p.2.group)
    cores := s.cores.map (fun (c : Nat × Core) => (c.1, { c.2 with mq := c.2.mq.filter (fun m => !is m.gid) })) }
  s.updCtx ctx (fun c =>
    { c with
      image := c.image.map (fun i => { i with groups := i.groups.filter (fun g => !is g.1) })
      poolWaits := c.poolWaits.filter (fun w => !is w)
      faults := c.faults.filter (fun f => !is f.2.gid)
      faultHold := c.faultHold.filter (fun f => !is f.2.gid) })

/-- Copies end where they stand: locks drop, nothing is signalled. -/
def State.cutCopies (s : State) (gone : Copy → Bool) : State :=
  { s with copies := s.copies.filter (fun c => !gone c.2) }.locksDropped.refillAll

/-- The teams chosen go. Their tiles are cleared and pass on, where nothing bars the handover at once, else by a sweep (DEDUCED, log
23); what was under way for those tiles ends with the teams. -/
def State.cutTeams (s : State) (ctx : Nat) (gone : Team → Bool) : State :=
  let ts := s.teams.filter (fun t => t.2.ctx == ctx && gone t.2)
  let out := ((s.ctxs.get ctx).bind (·.image)).elim [] (fun i => i.teams.filter (fun t => gone t.2))
  let is (k : Nat) : Bool := ts.any (fun t => t.1 == k) || out.any (fun t => t.1 == k)
  let s := { s with teams := s.teams.filter (fun t => !is t.1) }
  let s := s.updCtx ctx (fun c =>
    { c with image := c.image.map (fun i => { i with teams := i.teams.filter (fun t => !is t.1) }) })
  let tiles := s.tiles.filter (fun x => (x.2.state == .held || x.2.state == .negotiated) && is x.2.team)
  let of (t : Nat) : Bool := tiles.any (fun x => x.1 == t)
  let s := { s with sweeps := s.sweeps.filter (fun w => match w.2 with
    | .release _ t _ => !of t
    | .handover _ t _ _ => !of t
    | _ => true) }
  tiles.foldl (fun s x =>
    let s := s.clearTile x.1
    if s.passBarred x.1 (0, 0) then (s.sweepTile 0 x.1 none).2 else s.settleTile x.1) s

/-- A grid is cut with everything that it holds; its join record and launch time record are written when they can be (R357, R360,
R398). -/
def State.killGrid (s : State) (grid : Nat) (g : Grid) (status : Nat) : State :=
  let s := s.cutGroups g.ctx (fun x => x.grid == grid)
  let s := s.cutCopies (fun c => c.grid == grid)
  let s := s.dropRecs g.ctx (fun k => k == grid)
  let s := { s with sent := s.sent.filter (fun m => !(m.ctx == g.ctx && m.frame.sgrid == g.gridNo)) }
  let s := s.cutTeams g.ctx (fun t => t.grid == grid)
  let s := s.updGrid grid (fun g => { g with killed := some status, reserved := [] })
  (((s.gridDone grid).getD s).poolMode g.ctx).retryAll.refillFaults g.ctx

/-- REMOVE_GRID. -/
def execRemoveGrid (grid : Nat) (status : Word) (s : State) : Out :=
  .next (match s.grids.get grid with
    | none => s
    | some g => s.killGrid grid g status.toNat)

/-! The pool's extension (R345). -/

/-- Where the free part holds the records that are charged to it, the groups that waited for that leave. -/
def State.grantPool (s : State) (ctx : Nat) : State :=
  match s.ctxs.get ctx with
  | none => s
  | some c =>
    if s.occupancy ctx ≤ c.pool.size then
      c.poolWaits.foldl (fun s w => s.reap w) (s.updCtx ctx (fun c => { c with poolWaits := [] }))
    else s

/-- The grid of the first group that waits for an extension. -/
def State.starved (s : State) (ctx : Nat) : Option Nat :=
  (s.ctxs.get ctx).bind (fun c => c.poolWaits.findSome? (fun i => (s.ctxGroup ctx i).map (·.grid)))

/-- POOL_EXTEND: Berm adds whole pages, each full of records (DESIGN CHOICE, log 33); none when it will extend no further: then the
grid that waits takes 0x0705, its waiting records saved, and is removed. -/
def execPoolExtend (ctx pages : Nat) (s : State) : Out :=
  .next (if pages ≠ 0 then
      (s.updCtx ctx (fun c => { c with pool := { c.pool with size := c.pool.size + 4096 * pages / 80 } })).grantPool ctx
    else match s.starved ctx with
      | none => s
      | some grid => match s.grids.get grid with
        | none => s
        | some g =>
          let recs := (s.waiting ctx ++ s.binned ctx).filter (fun r => r.grid == grid)
          ((s.ctxFault ctx g.gridNo 0 0x0705#16 0#64 0#64 (recs.flatMap Rec.words)).killGrid grid g 0x0705).grantPool ctx)

/-- A context with everything that it holds is gone; its tiles are cleared (R398). -/
def State.dropContext (s : State) (ctx : Nat) : State :=
  let mine (grid : Nat) : Bool := s.gridCtx grid == ctx
  let s := s.cutGroups ctx (fun _ => true)
  let s := s.cutCopies (fun c => c.ctx == ctx)
  let s := s.dropRecs ctx mine
  let tiles := s.tiles.filter (fun t => t.2.ctx == ctx)
  let s := tiles.foldl (fun s t => s.clearTile t.1) s
  { s with
    sent := s.sent.filter (fun m => m.ctx != ctx)
    teams := s.teams.filter (fun t => t.2.ctx != ctx)
    grids := s.grids.filter (fun g => g.2.ctx != ctx)
    seals := s.seals.filter (fun x => !tiles.any (fun t => t.1 == x.1))
    sweeps := s.sweeps.filter (fun w => match w.2 with
      | .release _ t _ => !tiles.any (fun x => x.1 == t)
      | .handover _ t _ _ => !tiles.any (fun x => x.1 == t)
      | _ => true)
    tiles := s.tiles.filter (fun t => t.2.ctx != ctx)
    goneDbg := (s.ctxs.get ctx).elim s.goneDbg (fun c => s.goneDbg.put ctx { c.dbg with right := false })
    ctxs := s.ctxs.del ctx }

/-! Migration (R187). -/

/-- The bytes of a range of global memory at another place. -/
def moveBytes (m : Cells 8) (from_ dst len : Nat) : Cells 8 :=
  (m.filter (fun c => decide (from_ ≤ c.1) && decide (c.1 < from_ + len))).foldl
    (fun x c => x.set (c.1 - from_ + dst) c.2) (m.clear dst (dst + len))

/-- A place of global memory in a range, moved. -/
def Place.moved (p : Place) (from_ dst len : Nat) : Place :=
  match p with
  | .glob a => if from_ ≤ a ∧ a < from_ + len then .glob (a - from_ + dst) else p
  | _ => p

/-- The buffered and private bytes of a range reach their home, no L1 keeps a copy of it, and no polder cache holds it. -/
def State.flushRange (s : State) (a len : Nat) : State :=
  let inside (line : Nat) : Bool := decide (a < 128 * line + 128) && decide (128 * line < a + len)
  let s := s.cores.foldl (fun s c => s.writeBack c.1) s
  let s := s.cores.foldl (fun s c => (c.2.wcb.filter (fun w => inside w.line)).foldl (fun s w => s.drainLine c.1 w.line) s) s
  let s := s.cores.foldl (fun s c => (c.2.l1.filter (fun x => inside x.line)).foldl (fun s x => s.dropCopy c.1 x.line) s) s
  { s with pcache := s.pcache.filter (fun x => !inside x.1) }

/-- PAGE_MIGRATION: the page's contents stand at its new home; an atomic that still reaches the old one is answered moved. -/
def execPageMigration (ctx va newPa : Nat) (s : State) : Out :=
  .next (match (s.ctxs.get ctx).bind (fun c => c.page va) with
    | none => s
    | some p =>
      match p.target with
      | .global pa =>
        let len := pageBytes p.size
        if pa < newPa + len ∧ newPa < pa + len ∨ 2 ^ 52 < newPa + len then s
        else
          let s := (s.flushRange pa len).flushRange newPa len
          let poison := s.poison.filter (fun q => !q.within (.glob newPa) len)
          let moved := (poison.filter (fun q => q.within (.glob pa) len)).map (fun q => q.moved pa newPa len)
          let s := { s with mem := moveBytes s.mem pa newPa len, poison := poison ++ moved }
          s.updCtx ctx (fun c => { c with
            pages := c.pages.map (fun q => if q = p then { q with target := .global newPa, movedFrom := some pa } else q)
            taskWaits := c.taskWaits.map (fun w => { w with place := w.place.moved pa newPa len }) })
      | _ => s)

end Sys2Proof.Machine
end

