-- ==== Sys2Proof/Machine/Dump.lean ====
section
/-! DEFINITION. Machine/Dump.lean: a core dump: tile summaries, the dump's sections, how it is taken and written (19_debug_host
R419, R420). -/

namespace Sys2Proof.Machine

/-! Tile summaries (R419). -/

/-- The fields of FP32 that a summary needs: NaN, infinity, the magnitude. -/
def isNaN32 (x : Word) : Bool := decide (0x7F800000 < x.toNat % 2 ^ 31)
def isInf32 (x : Word) : Bool := x.toNat % 2 ^ 31 == 0x7F800000

def tileSummary (vals : Cells 32) : List Byte :=
  let xs := vals.map (·.2)
  leBytes 4 (xs.filter isNaN32).length ++ leBytes 4 (xs.filter isInf32).length ++
  leBytes 4 (xs.foldl (fun m x => if isNaN32 x || isInf32 x then m else max m (x.toNat % 2 ^ 31)) 0) ++
  b4 (xs.foldl (· ^^^ ·) 0#32)

/-! The dump (R419, R420). -/

/-- The items of sections 2 to 8. -/
def State.dumpItems (s : State) (c : Ctx) (ctx : Nat) (i : Image) : List (List (List Byte)) :=
  let gs := i.groups.map (·.2)
  [ (c.faultLog.reverse.take 64).map FaultRec.bytes,
    (s.grids.filter (fun g => g.2.ctx == ctx && g.2.lrec.ltr != 0#64)).map (fun g =>
      (s.vaBytes ctx (g.2.lrec.ltr.setWidth 57).toNat 64).getD (zeros 64)),
    gs.map Group.record2048,
    gs.map (fun g => tailBytes g.hist.stack (min (g.hsp - g.hbase).toNat 4096)),
    i.teams.flatMap (fun t => (List.range t.2.accs).map (fun n => tileSummary (t.2.tileVals n))),
    gs.map Group.laneBytes,
    (gs.filter (fun g => g.window)).map Group.windowBytes ]

/-- How many bytes of each section are written when `left` bytes are free: whole items, until one does not fit. -/
def fitItems (left : Nat) : List Nat → Nat × Bool
  | [] => (0, true)
  | n :: t =>
    if n ≤ left then
      let r := fitItems (left - n) t
      (n + r.1, r.2)
    else (0, false)

/-- The bytes written of each section; no later section follows a partial one. -/
def fitSections (left : Nat) : List (List Nat) → List Nat
  | [] => []
  | x :: t =>
    let r := fitItems left x
    if r.2 then r.1 :: fitSections (left - r.1) t else r.1 :: t.map (fun _ => 0)

/-- Bytes wanted and bytes written per section, the header's 256 first. -/
def Dump.wanted (d : Dump) : List Nat := 256 :: d.sizes.map (fun x => x.sum)
def Dump.written (d : Dump) : List Nat := fitSections (min d.limit d.stop) ([256] :: d.sizes)
def Dump.truncated (d : Dump) : Bool := decide ((fitSections d.limit ([256] :: d.sizes)).sum < d.wanted.sum)

/-- The header (R420). The sections lie one after the other. -/
def Dump.header (d : Dump) : List Byte :=
  let w := d.wanted
  let g := d.written
  padTo 256 (leBytes 4 1 ++ leBytes 4 (bitN d.truncated 0 + bitN d.faulted 1 + bitN d.side 2) ++ leBytes 4 d.ctx ++
    leBytes 4 d.cause.toNat ++ leBytes 8 w.sum ++ leBytes 8 g.sum ++
    (List.range 8).flatMap (fun i => leBytes 4 (i + 1) ++ leBytes 8 (w.getD i 0) ++ leBytes 8 (g.getD i 0) ++
      leBytes 8 (g.take i).sum))

/-- Everything written: the header, and what of the sections fits. -/
def Dump.image (d : Dump) : List Byte :=
  if d.written.sum < 256 then [] else d.header ++ d.bytes.take (d.written.sum - 256)

/-- The dump of a context from its image; the dump window holds 4 MiB (R426). -/
def State.makeDump (s : State) (ctx buf len : Nat) (cause : Cause) : Option Dump := do
  let c ← s.ctxs.get ctx
  let i ← c.image
  let items := s.dumpItems c ctx i
  let n := min len 0x400000
  return { ctx := ctx, cause := cause, buf := buf, limit := n, stop := n, sizes := items.map (fun x => x.map List.length),
           bytes := items.flatMap (fun x => x.flatMap id), faulted := false, side := false }

/-- Bytes of the host's buffer. -/
def State.putHost (s : State) (a : Nat) (bs : List Byte) : State :=
  { s with hostBuf := bs.zipIdx.foldl (fun m b => m.set (a + b.2) b.1) s.hostBuf }

/-- The dump is written to the host's buffer. -/
def State.writeDump (s : State) (d : Dump) : State := { s.putHost d.buf d.image with dump := some d }

/-- The image of a context is discarded: its groups, teams and bins are gone (R419). -/
def State.dropImage (s : State) (ctx : Nat) : State :=
  let s := (s.cutGroups ctx (fun _ => true)).cutTeams ctx (fun _ => true)
  s.updCtx ctx (fun c => { c with image := none })

/-- A context is cut as by a removal, its image kept for its dump (R398, R419). -/
def State.cutForDump (s : State) (ctx : Nat) : State :=
  let s := s.cutCopies (fun c => c.ctx == ctx)
  { s with sent := s.sent.filter (fun m => m.ctx != ctx) }.saveImage ctx

/-- CORE_DUMP: Berm has the context pre-empted, or cut, and its image dumped; then the image is discarded (R419). Where it is to be
pre-empted, the first step asks for the image. -/
def execCoreDump (ctx : Nat) (how : DumpAsk) (cause : Cause) (s : State) : Out :=
  let t := if how.cut && (s.ctxs.get ctx).any (fun c => c.image.isNone) then s.cutForDump ctx else s
  .next (match t.makeDump ctx 0 how.len cause with
    | some d => (t.writeDump d).dropImage ctx
    | none => s.updCtx ctx (fun c => if c.preempt.isNone && c.image.isNone then { c with preempt := some [] } else c))

end Sys2Proof.Machine
end

