-- ==== Sys2Proof/Machine/Debug.lean ====
section
/-! DEFINITION. Machine/Debug.lean: the debug monitor's session and mailbox (19_debug_host R410 to R412), its commands (R414
to R417) and the revocation of its right (R418). A command that waits stays among the inputs (DESIGN CHOICE, log 14);
`cmdWaits` and `cmdKept` say which. -/

namespace Sys2Proof.Machine

/-! The session. -/

/-- A command's context, code, sequence and locator (R413, R414). -/
def commandOf (i : Instr) : Option (Nat × Nat × Word × DWord) :=
  match i with
  | .attach c h => some (c, 0x01, h.seq, h.loc)
  | .detach c h => some (c, 0x02, h.seq, h.loc)
  | .halt c q l => some (c, 0x03, q, l)
  | .resume c q l => some (c, 0x04, q, l)
  | .step c q l => some (c, 0x05, q, l)
  | .rewind c q l _ _ => some (c, 0x06, q, l)
  | .read c q l _ => some (c, 0x07, q, l)
  | .write c q l _ _ => some (c, 0x08, q, l)
  | .readmem c q l _ _ _ => some (c, 0x09, q, l)
  | .writemem c q l _ _ _ => some (c, 0x0A, q, l)
  | .dump c h _ _ => some (c, 0x0B, h.seq, h.loc)
  | .evtHead c (.entry n q l) => if 1 ≤ n ∧ n ≤ 0x0B then none else some (c, n, q, l)
  | _ => none

/-- A command's arguments (R414). -/
def commandArgs (i : Instr) : List DWord :=
  match i with
  | .rewind _ _ _ a b => [a, b]
  | .read _ _ _ a => [a]
  | .write _ _ _ a b => [a, b]
  | .readmem _ _ _ a b c => [a, b, c]
  | .writemem _ _ _ a b c => [a, b, c]
  | .dump _ _ a b => [a, b]
  | _ => []

/-- A command's entry of 64 bytes (R413). -/
def commandBytes (i : Instr) : List Byte :=
  padTo 64 ((commandOf i).elim [] (fun c => leBytes 4 c.2.1 ++ b4 c.2.2.1 ++ leBytes 8 c.1 ++ b8 c.2.2.2 ++
    (commandArgs i).flatMap b8))

/-- The entry of an event or a reply (R413). -/
def DbgEvent.bytes (e : DbgEvent) : List Byte :=
  padTo 64 (leBytes 2 e.code ++ leBytes 2 e.status ++ b4 e.seq ++ b8 e.v0 ++ b8 e.v1 ++ b8 e.loc ++ bC e.ic ++ bA e.addr ++
    leBytes 2 e.cause.toNat)

/-- Whether a reset, or the boot that follows it stage by stage, has another stage after this step (R434). -/
def State.bootGoesOn (s : State) (b : BootParams) : Bool :=
  !s.mgmt.booting || !bootEnds (BootParams.next b s.mgmt.stage).1

/-- Whether the input is a command of the context's session. -/
def isCommandOf (ctx : Nat) (i : Instr) : Bool := (commandOf i).any (fun c => c.1 == ctx)

/-- A reply about no one group. -/
def bareReply (code status : Nat) (seq : Word) (loc : DWord) : DbgEvent :=
  { code := 0x8000 ||| code, status := status, seq := seq, v0 := 0#64, v1 := 0#64, loc := loc, ic := 0#48, addr := 0#57,
    cause := 0#16 }

/-- Changes the mailbox of a context, or the one that a removed context has left (R418). -/
def State.updDbg (s : State) (ctx : Nat) (f : Debug → Debug) : State :=
  if (s.ctxs.get ctx).isSome then s.updCtx ctx (fun c => { c with dbg := f c.dbg })
  else { s with goneDbg := s.goneDbg.upd ctx f }

/-- The mailbox of a context, there or removed. -/
def State.debugOf (s : State) (ctx : Nat) : Option Debug := ((s.ctxs.get ctx).map (·.dbg)).or (s.goneDbg.get ctx)

def State.dbgPost (s : State) (ctx : Nat) (e : DbgEvent) : State := s.updDbg ctx (·.post e)

/-- The device takes the command from its ring (R412). -/
def State.takeCmd (s : State) (ctx : Nat) : State := s.updDbg ctx (fun d => { d with cmdHead := d.cmdHead + 1#32 })

/-- Whether the context has a session that may command (R411, R418). -/
def State.session (s : State) (ctx : Nat) : Bool :=
  (s.ctxs.get ctx).elim false (fun c => c.dbg.right && c.dbg.attached)

/-- The group that a command's locator names: bit 15 and another context answer 2 (R399, R414). -/
def State.cmdGroup (s : State) (ctx : Nat) (loc : DWord) : Except Nat (Nat × Group) :=
  if fld loc 16 16 ≠ ctx then .error 2 else s.locate ((s.ctxs.get ctx).map (·.dbg.monitor)) loc

/-- A command that ends with one reply: status 3 without the session; else what its body answers. -/
def State.command (s : State) (ctx code : Nat) (seq : Word) (loc : DWord) (body : State → DbgEvent × State) : State :=
  let s := s.takeCmd ctx
  if s.session ctx then
    let (e, s) := body s
    s.dbgPost ctx e
  else s.dbgPost ctx (bareReply code 3 seq loc)

/-- A command about one group. -/
def State.groupCommand (s : State) (ctx code : Nat) (seq : Word) (loc : DWord)
    (body : State → Nat → Group → DbgEvent × State) : State :=
  s.command ctx code seq loc (fun s =>
    match s.cmdGroup ctx loc with
    | .error e => (bareReply code e seq loc, s)
    | .ok (i, g) => body s i g)

/-- Changes every group of a context, those of its image among them. -/
def State.allGroups (s : State) (ctx : Nat) (f : Group → Group) : State :=
  let s := { s with groups := s.groups.map (fun (x : Nat × Group) => if x.2.ctx = ctx then (x.1, f x.2) else x) }
  s.updCtx ctx (fun c => { c with image := c.image.map (fun i =>
    { i with groups := i.groups.map (fun (x : Nat × Group) => (x.1, f x.2)) }) })

/-- Whether a locator names every group (R414). -/
def allBit (loc : DWord) : Bool := loc.getLsbD 15

/-- Changes the groups that a HALT, RESUME or STEP names; the status. -/
def State.cmdGroups (s : State) (ctx : Nat) (loc : DWord) (f : Group → Group) : Nat × State :=
  if allBit loc then
    if fld loc 16 16 = ctx then (0, s.allGroups ctx f) else (2, s)
  else match s.cmdGroup ctx loc with
    | .error e => (e, s)
    | .ok (i, g) => (0, s.setGroup i (f g))

/-- The reply of a HALT, RESUME or STEP: about its group, where it names one. -/
def State.cmdReply (s : State) (ctx code status : Nat) (seq : Word) (loc : DWord) : DbgEvent :=
  match s.cmdGroup ctx loc with
  | .ok (_, g) => g.reply code status seq 0#64 0#64 loc
  | .error _ => bareReply code status seq loc

/-- The group is released (R414, R416). -/
def Group.freed (g : Group) : Group := { g with halted := false, haltReq := false }

/-- The monitor's group leaves its slot (R410). -/
def State.endMonitor (s : State) (gid : Nat) : State :=
  match s.groups.get gid with
  | none => s
  | some g =>
    let s := s.release g.core gid .device
    { s with groups := s.groups.del gid, growQ := s.growQ.filter (fun q => q.gid != gid),
             pend := s.pend.filter (fun p => p.2.group != gid) }

/-- A session ends: what is in the ring is answered, %step cleared, every group released, 0x0983 posted (R418). The monitor's
group goes. -/
def State.endSession (s : State) (ctx : Nat) : State :=
  let left := s.inputs.filter (isCommandOf ctx)
  let s := { s with inputs := s.inputs.filter (fun i => !isCommandOf ctx i) }
  let s := left.foldl (fun s i =>
    match commandOf i with
    | some (_, code, seq, loc) => (s.takeCmd ctx).dbgPost ctx (bareReply code 3 seq loc)
    | none => s) s
  let s := s.allGroups ctx (fun g => { g.freed with stepBit := false })
  let s := s.dbgPost ctx
    { code := 0x0983, status := 0, seq := 0#32, v0 := 0#64, v1 := 0#64, loc := 0#64, ic := 0#48, addr := 0#57, cause := 0x0983#16 }
  (s.endMonitor ((s.ctxs.get ctx).elim 0 (·.dbg.monitor))).updCtx ctx (fun c =>
    { c with dbg := { c.dbg with attached := false, monitor := 0 } })

/-- The core for the monitor's group, which Berm chooses: the context's first, else the device's first, of those that are enabled
and have slot 31, 64 registers and history free (R2, R410; DESIGN CHOICE, log 16). -/
def State.monitorCore (s : State) (c : Ctx) : Option Nat :=
  (c.cores ++ List.range 256).find? (fun k => s.enabled k && (s.freeSlots k 3).contains 31 &&
    decide (64 ≤ s.quadFree (4 * k + 3)) && decide (s.histUsed k < 256))

/-- The monitor's group starts in slot 31 of a core (R410). -/
def State.startMonitor (s : State) (ctx core : Nat) : State :=
  let (id, s) := s.newId
  (s.setGroup id (bermGroup .monitor core 31 s.mgmt.monitor 64)).updCtx ctx (fun c =>
    { c with dbg := { c.dbg with attached := true, monitor := id } })

/-! Halts (R415). -/

/-- A group that stands where a halt takes effect (R385, R415). -/
def Group.haltHere (g : Group) : Bool := g.clause.isNone && !g.inHandler && !g.dir

/-- The halt is asked for; it takes effect at once where the group stands at a boundary. -/
def Group.askHalt (g : Group) : Group :=
  if g.halted then g
  else if g.haltHere then { g with halted := true, haltReq := false }
  else { g with haltReq := true }

/-- Whether a HALT has nothing left to wait for. -/
def State.haltDone (s : State) (ctx : Nat) (loc : DWord) : Bool :=
  if allBit loc then fld loc 16 16 ≠ ctx || (s.groups.all (fun g => g.2.ctx != ctx || g.2.halted))
  else match s.cmdGroup ctx loc with
    | .ok (_, g) => g.halted
    | .error _ => true

/-- Whether a HALT has still to ask. -/
def State.haltAsks (s : State) (ctx : Nat) (loc : DWord) : Bool :=
  if allBit loc then s.groups.any (fun g => g.2.ctx == ctx && !g.2.halted && !g.2.haltReq)
  else match s.cmdGroup ctx loc with
    | .ok (_, g) => !g.halted && !g.haltReq
    | .error _ => false

/-! Which commands wait (R399, R405, R412). -/

/-- Whether an event of a group that the locator names is held, so that the group stays halted (R412). -/
def State.eventHeld (s : State) (ctx : Nat) (loc : DWord) : Bool :=
  (s.ctxs.get ctx).elim false (fun c => c.dbg.held.any (fun e =>
    decide (e.code < 0x8000) && (if allBit loc then e.code != 0x0983 else e.loc == loc)))

/-- A reversal that a command ordered is under way. -/
def State.rewinding (s : State) (ctx : Nat) : Bool :=
  let mine (g : Group) : Bool := (g.hist.rev.bind (·.dbg)).any (fun d => d.1 == ctx)
  s.groups.any (fun g => mine g.2) ||
    (s.ctxs.get ctx).elim false (fun c => c.image.elim false (fun i => i.groups.any (fun g => mine g.2)))

/-- Whether a command that names a group waits for it. -/
def State.groupWaits (s : State) (ctx : Nat) (loc : DWord) (busy : Nat → Group → Bool) : Bool :=
  s.session ctx && (match s.cmdGroup ctx loc with
    | .ok (i, g) => busy i g
    | .error _ => false)

/-- What a REWIND, a READ and a WRITE wait for. -/
def State.rewindWaits (s : State) (ctx : Nat) (loc : DWord) : Bool :=
  s.groupWaits ctx loc (fun _ g => !g.actable || g.dir)
def State.readWaits (s : State) (ctx : Nat) (loc : DWord) : Bool := s.groupWaits ctx loc (fun _ g => !g.actable)
def State.writeWaits (s : State) (ctx : Nat) (loc : DWord) : Bool :=
  s.groupWaits ctx loc (fun i g => !g.actable || s.memwOpen i)

/-- An ATTACH waits while no core has room for the monitor's group (R410). -/
def State.attachWaits (s : State) (ctx : Nat) : Bool :=
  (s.ctxs.get ctx).any (fun c => c.dbg.right && !c.dbg.attached && (s.monitorCore c).isNone)

/-- Whether a command of the mailbox waits. -/
def State.cmdWaits (s : State) (i : Instr) : Bool :=
  match i with
  | .attach c h => !allBit h.loc && s.attachWaits c
  | .halt c _ l => s.session c && !s.haltDone c l && !s.haltAsks c l
  | .resume c _ l => s.session c && s.eventHeld c l
  | .step c _ l => s.session c && s.eventHeld c l
  | .rewind c _ l _ _ => s.rewindWaits c l
  | .read c _ l _ => s.readWaits c l
  | .write c _ l _ _ => s.writeWaits c l
  | .dump c h _ _ => s.session c && !allBit h.loc && (s.ctxs.get c).elim false (fun x => x.preempt.isSome)
  | _ => false

/-- Whether a step from outside goes on being executed after the step that begins it: a command, a dump, a boot, a request that a
failed port holds up. -/
def State.cmdKept (s : State) (i : Instr) : Bool :=
  match i with
  | .halt c _ l => s.session c && !s.haltDone c l
  | .dump c h _ _ => s.session c && !allBit h.loc && (s.ctxs.get c).elim false (fun x => x.image.isNone)
  | .coreDump c how _ => !how.cut && (s.ctxs.get c).elim false (fun x => x.image.isNone)
  | .deviceReset b => s.bootGoesOn b
  | .doorbell c r q => s.ringLive c r && (s.serve c r q).isNone
  | _ => false

/-! Memory (R414). -/

/-- The monitor's view of a group: its accesses are not user's. -/
def Group.asMonitor (g : Group) : Group := { g with mode := .monitor }

/-- The places of n bytes that a command names; a byte that an access may not reach fails them all. -/
def State.cmdPlaces (s : State) (gid : Nat) (g : Group) (sp : Space) (k : Kind) (a : DWord) (n : Nat) : Option (List Place) :=
  match gather ((List.range n).map (fun i =>
      (s.laneCheck g.asMonitor sp k 0 (a + w64 i) 1).map (fun ps => ps.headD (.scr gid 0)))) with
  | .ok ps => if s.consumes (if sp = .priv then g.core else noCore) gid sp k ps then none else some (ps.map (ownPlace gid))
  | .error _ => none

/-- The space code of R175. -/
def spaceAt (x : DWord) (i : Nat) : Space :=
  match fld x i 2 with
  | 0 => .global
  | 1 => .polder
  | 2 => .cs
  | _ => .priv

/-- The bytes as they stand at their home. -/
def State.cmdRead (s : State) (g : Group) (sp : Space) (ps : List Place) : Nat :=
  leNat (ps.map (fun p => if sp = .priv then s.privRead g.core p else s.homeRead p))

/-- A write at the home, followed by a release (R414). -/
def State.cmdWrite (s : State) (gid : Nat) (g : Group) (sp : Space) (bs : List (Place × Byte)) : State :=
  (s.pointPut (if sp = .priv then g.core else noCore) gid sp bs).settle

/-! The commands. -/

/-- ATTACH (R410, R411, R414). -/
def execAttach (ctx : Nat) (cmd : CmdHead) (s : State) : Out :=
  .next (match s.ctxs.get ctx with
    | none => (s.takeCmd ctx).dbgPost ctx (bareReply 0x01 3 cmd.seq cmd.loc)
    | some c =>
      if !allBit cmd.loc && s.attachWaits ctx then s
      else
        let s := s.takeCmd ctx
        if !c.dbg.right then s.dbgPost ctx (bareReply 0x01 3 cmd.seq cmd.loc)
        else if allBit cmd.loc then s.dbgPost ctx (bareReply 0x01 2 cmd.seq cmd.loc)
        else
          let s := if c.dbg.attached then s else (s.monitorCore c).elim s (fun k => s.startMonitor ctx k)
          s.dbgPost ctx (bareReply 0x01 0 cmd.seq cmd.loc))

/-- DETACH (R414, R418). -/
def execDetach (ctx : Nat) (cmd : CmdHead) (s : State) : Out :=
  let t := s.command ctx 0x02 cmd.seq cmd.loc (fun s =>
    (bareReply 0x02 (if allBit cmd.loc then 2 else 0) cmd.seq cmd.loc, s))
  .next (if s.session ctx && !allBit cmd.loc then t.endSession ctx else t)

/-- HALT (R415): the reply comes when every group named stands halted. -/
def execHalt (ctx : Nat) (seq : Word) (loc : DWord) (s : State) : Out :=
  .next (if s.session ctx && !s.haltDone ctx loc then (s.cmdGroups ctx loc Group.askHalt).2
    else s.command ctx 0x03 seq loc (fun s =>
      let r := s.cmdGroups ctx loc Group.askHalt
      (r.2.cmdReply ctx 0x03 r.1 seq loc, r.2)))

/-- RESUME keeps %step (R414). -/
def execResume (ctx : Nat) (seq : Word) (loc : DWord) (s : State) : Out :=
  .next (s.command ctx 0x04 seq loc (fun s =>
    let r := s.cmdGroups ctx loc Group.freed
    (r.2.cmdReply ctx 0x04 r.1 seq loc, r.2)))

/-- STEP (R416). -/
def execStep (ctx : Nat) (seq : Word) (loc : DWord) (s : State) : Out :=
  .next (s.command ctx 0x05 seq loc (fun s =>
    let r := s.cmdGroups ctx loc (fun g => { g.freed with stepBit := true })
    (r.2.cmdReply ctx 0x05 r.1 seq loc, r.2)))

/-- REWIND (R405, R417): the reply comes when the walk lands. -/
def execRewind (ctx : Nat) (seq : Word) (loc target info : DWord) (s : State) : Out :=
  .next (if s.rewindWaits ctx loc then s
    else if !s.session ctx then s.command ctx 0x06 seq loc (fun s => (bareReply 0x06 3 seq loc, s))
    else match s.cmdGroup ctx loc with
      | .error e => s.command ctx 0x06 seq loc (fun s => (bareReply 0x06 e seq loc, s))
      | .ok (i, g) =>
        let answer (status : Nat) (x : DWord) : State :=
          s.command ctx 0x06 seq loc (fun s => (g.reply 0x06 status seq x 0#64 loc, s))
        if g.inHandler then answer 6 0#64
        else match g.landing target with
          | none => answer 1 (g.ic.setWidth 64)
          | some (land, rounded) =>
            let r := s.orderedRev g (target.setWidth 48) land rounded info
            (s.takeCmd ctx).orderRev i g { r with dbg := some (ctx, seq, loc) })

/-- READ (R404). -/
def execRead (ctx : Nat) (seq : Word) (loc sel : DWord) (s : State) : Out :=
  .next (if s.readWaits ctx loc then s
    else s.groupCommand ctx 0x07 seq loc (fun s _ g =>
      match g.item sel with
      | some x => (g.reply 0x07 0 seq x 0#64 loc, s)
      | none => (g.reply 0x07 4 seq 0#64 0#64 loc, s)))

/-- WRITE (R404). -/
def execWrite (ctx : Nat) (seq : Word) (loc sel val : DWord) (s : State) : Out :=
  .next (if s.writeWaits ctx loc then s
    else s.groupCommand ctx 0x08 seq loc (fun s i g =>
      match s.editGroup i g sel val with
      | some s' => (((s'.groups.get i).getD g).reply 0x08 0 seq 0#64 0#64 loc, s')
      | none => (g.reply 0x08 4 seq 0#64 0#64 loc, s)))

/-- READMEM: up to 16 bytes at their home (DEDUCED, log 28). -/
def execReadmem (ctx : Nat) (seq : Word) (loc addr len space : DWord) (s : State) : Out :=
  .next (s.groupCommand ctx 0x09 seq loc (fun s i g =>
    let n := fld len 0 5
    let sp := spaceAt space 0
    match (if 1 ≤ n ∧ n ≤ 16 then s.cmdPlaces i g sp .load addr n else none) with
    | some ps =>
      let x := s.cmdRead g sp ps
      (g.reply 0x09 0 seq (w64 x) (w64 (x / 2 ^ 64)) loc, s)
    | none => (g.reply 0x09 4 seq 0#64 0#64 loc, s)))

/-- WRITEMEM: a range that is sealed, range-locked or not to be written answers 4 and changes nothing. -/
def execWritemem (ctx : Nat) (seq : Word) (loc addr data mode : DWord) (s : State) : Out :=
  .next (s.groupCommand ctx 0x0A seq loc (fun s i g =>
    let sp := spaceAt mode 0
    match s.cmdPlaces i g sp .store addr (2 ^ fld mode 2 2) with
    | some ps => (g.reply 0x0A 0 seq 0#64 0#64 loc, s.cmdWrite i g sp (bytesAt ps data.toNat))
    | none => (g.reply 0x0A 4 seq 0#64 0#64 loc, s)))

/-- DUMP (R419, R420): the context is pre-empted, then its image is dumped. -/
def execDump (ctx : Nat) (cmd : CmdHead) (buf len : DWord) (s : State) : Out :=
  let answer (status : Nat) : DbgEvent := bareReply 0x0B status cmd.seq cmd.loc
  .next (if s.session ctx && !allBit cmd.loc then
      match s.makeDump ctx buf.toNat len.toNat 0#16 with
      | some d => s.command ctx 0x0B cmd.seq cmd.loc (fun s => (answer 0, s.writeDump d))
      | none => s.updCtx ctx (fun c => if c.preempt.isNone && c.image.isNone then { c with preempt := some [] } else c)
    else s.command ctx 0x0B cmd.seq cmd.loc (fun s => (answer 2, s)))

/-- EVT_HEAD: entries that the host has consumed make room for the events held (R412). An entry of the command ring with a code
that no command has answers 7 (R413); the other codes are rows of their own. -/
def execEvtHead (ctx : Nat) (w : HostWrite) (s : State) : Out :=
  .next (match w with
    | .head n => s.updDbg ctx (fun d => d.held.foldl (fun d e => d.post e) { d with evtHead := n, held := [] })
    | .entry n seq loc =>
      if 1 ≤ n ∧ n ≤ 0x0B then s else (s.takeCmd ctx).dbgPost ctx (bareReply n 7 seq loc))

/-! The mailbox page (R412). -/

/-- The commands of a context that are in its ring, in order. -/
def State.commands (s : State) (ctx : Nat) : List Instr := s.inputs.filter (isCommandOf ctx)

/-- Whether a command of the context's session is being executed: a reversal walks, or the first of the ring waits for its group or
its dump. -/
def State.cmdBusy (s : State) (ctx : Nat) : Bool := s.rewinding ctx || (s.commands ctx).head?.any (fun i => s.cmdWaits i)

/-- CMD_HEAD and CMD_TAIL: the device takes the first entry of the ring as soon as the command before it is done; `cmdHead` counts
those answered. -/
def State.cmdHeadAt (s : State) (ctx : Nat) : Word :=
  (s.debugOf ctx).elim 0#32 (fun d =>
    d.cmdHead + if s.rewinding ctx || (s.commands ctx).isEmpty then 0#32 else 1#32)
def State.cmdTailAt (s : State) (ctx : Nat) : Word :=
  (s.debugOf ctx).elim 0#32 (fun d => d.cmdHead + w32 (s.commands ctx).length)

/-- The page of 4 KiB: the command ring, the event ring, the four indices. -/
def State.mailboxPage (s : State) (ctx : Nat) : List Byte :=
  match s.debugOf ctx with
  | none => []
  | some d =>
    let slot (i : Nat) : List Byte :=
      ((s.commands ctx)[(i + 16 - d.cmdHead.toNat % 16) % 16]?).elim (zeros 64) commandBytes
    padTo 0xC00 ((List.range 16).flatMap slot ++
      (List.range 32).flatMap (fun i => (d.ring.get i).elim (zeros 64) DbgEvent.bytes)) ++
    padTo 0x400 (b4 (s.cmdTailAt ctx) ++ b4 (s.cmdHeadAt ctx) ++ b4 d.evtTail ++ b4 d.evtHead)

/-- REMOVE_CONTEXT: its session ends first, and its mailbox stays for the host (R418). Its bins are free for the others (R32). -/
def execRemoveContext (ctx : Nat) (s : State) : Out :=
  let t := if s.session ctx then s.endSession ctx else s
  .next (if ctx = bermKey then s else (t.dropContext ctx).retryAll)

/-- DEBUG_REVOKE (R418). -/
def execDebugRevoke (ctx : Nat) (s : State) : Out :=
  let t := if s.session ctx then s.endSession ctx else s
  .next (t.updCtx ctx (fun c => { c with dbg := { c.dbg with right := false } }))

end Sys2Proof.Machine
end

