-- ==== Sys2Proof/Machine/Peers.lean ====
section
/-! DEFINITION. Machine/Peers.lean: messages of peer devices (14_task_engine R359, 19 R429, R430) and the links (19 R423,
R427). -/

namespace Sys2Proof.Machine

/-! At the destination. -/

/-- The context in which a frame's block is mapped: the lowest that maps it (DESIGN CHOICE, log 12). -/
def State.frameCtx (s : State) (block : Nat) : Option Nat :=
  (s.ctxs.find? (fun c => (c.2.page block).isSome)).map (·.1)

/-- A queue of the peer as a frame finds it: its block's places, its fields, the places of its next element. -/
structure PeerQueue where
  block : List Place
  ring  : Ring
  slot  : List Place
  deriving DecidableEq, Repr

/-- Whether the control block cannot be read now: a range lock covers it, its words are uncorrectable, or it lies behind a
failed port (R185, R208, R427). -/
def State.blockBarred (s : State) (f : Frame) : Bool :=
  ((s.frameCtx f.block).bind (fun ctx => s.vaPlaces ctx f.block 64)).any (fun ps =>
    (ps.take 32).any s.locked || s.consumes noCore 0 .global .load (ps.take 32))

/-- The queue that a frame names; `none` where it cannot be accepted, the block breaking R196 or an address not being mapped, and
where the block cannot be read. -/
def State.peerQueue (s : State) (f : Frame) : Option PeerQueue := do
  let ctx ← s.frameCtx f.block
  let ps ← s.vaPlaces ctx f.block 64
  if s.blockBarred f then none else
  let r := ringOf (ps.map s.homeRead)
  if f.block % 64 = 0 ∧ r.sound ∧ r.esize = 64 ∧ f.data.length = 16 then
    let slot ← s.vaPlaces ctx ((r.elem r.tail).setWidth 57).toNat 64
    return ⟨ps, r, slot⟩
  else none

/-- Whether an element can be enqueued now: there is a slot, and what is written can be (R209). -/
def State.peerRoom (s : State) (q : PeerQueue) : Bool :=
  decide (q.ring.held < q.ring.cap) && s.unbarred (q.block.take 32 ++ q.slot)

/-- The fault of a frame's queue that lies behind a failed port, against the queue's context (R427). -/
def State.peerPort (s : State) (f : Frame) : Option State := do
  let ctx ← s.frameCtx f.block
  let ps ← s.vaPlaces ctx f.block 64
  s.portFault ctx 0 ((ps.take 32) ++ (s.peerQueue f).elim [] (·.slot)) (w64 f.block)

/-- A frame's 64 bytes. -/
def frameBytes (f : Frame) : List Byte := f.data.flatMap (fun w => leBytes 4 w.toNat)

/-- The acknowledgement of a sequence number goes to its source (R430). -/
def State.ack (s : State) (f : Frame) : State := { s with wire := s.wire ++ [.ack f.src f.seq] }

/-- A message that this device cannot accept goes back to its source (R359). -/
def State.sendBack (s : State) (f : Frame) : State := { s with wire := s.wire ++ [.back f.src f.seq] }

/-- The element is written, then TAIL, by an ENQ at system scope (R198, R359); its sequence number is acknowledged. -/
def State.peerPut (s : State) (q : PeerQueue) (f : Frame) : State :=
  let s := s.putBytes noCore (q.slot.zip (frameBytes f))
  let s := s.putBytes noCore (bytesAt ((q.block.drop 16).take 8) (q.ring.tail + 1))
  s.settle.writeHome.ack f

/-- The message waits here, its sequence number known (R359). -/
def State.holdFrame (s : State) (f : Frame) : State :=
  { s with rxSeq := (f.src, f.seq) :: s.rxSeq, rxHeld := s.rxHeld ++ [⟨f⟩] }

/-- THOHEL_FRAME_RX: a sequence number is enqueued once, or held while its queue is full or barred (R208; DESIGN CHOICE, log
51); one that is enqueued already is only acknowledged again (DEDUCED, log 44); a frame that this device cannot accept is
returned. -/
def execThohelFrameRx (f : Frame) (s : State) : Out :=
  .next (if f.dst ≠ s.deviceNo then s
    else if s.rxSeq.contains (f.src, f.seq) then
      (if s.rxHeld.any (fun h => h.frame.src == f.src && h.frame.seq == f.seq) then s else s.ack f)
    else match s.peerQueue f with
      | none => if s.blockBarred f then s.holdFrame f else s.sendBack f
      | some q =>
        if s.peerRoom q && !s.rxHeld.any (fun h => h.frame.block == f.block) then
          { s with rxSeq := (f.src, f.seq) :: s.rxSeq }.peerPut q f
        else s.holdFrame f)

/-- A held message that may be enqueued: the oldest of its queue, with a slot free. -/
def State.heldReady (s : State) (idx : Nat) : Option (Frame × PeerQueue) := do
  let h ← s.rxHeld[idx]?
  let q ← s.peerQueue h.frame
  if s.peerRoom q && !(s.rxHeld.take idx).any (fun x => x.frame.block == h.frame.block) then some (h.frame, q) else none

/-- A held message whose queue can take none any more. -/
def State.heldLost (s : State) (idx : Nat) : Option Frame :=
  (s.rxHeld[idx]?).bind (fun h => if (s.peerQueue h.frame).isNone && !s.blockBarred h.frame then some h.frame else none)

/-- The fault of a held message's queue, which lies behind a failed port. -/
def State.heldPort (s : State) (idx : Nat) : Option State := (s.rxHeld[idx]?).bind (fun h => s.peerPort h.frame)

/-- PEER_HELD_ENQUEUE: a message that can no longer be accepted is returned (R359); one whose queue lies behind a failed port waits,
and its access faults (R427). -/
def execPeerHeldEnqueue (idx : Nat) (s : State) : Out :=
  .next (match s.heldReady idx, s.heldLost idx with
    | some (f, q), _ => { s with rxHeld := s.rxHeld.eraseIdx idx }.peerPut q f
    | none, some f =>
      { s with rxHeld := s.rxHeld.eraseIdx idx, rxSeq := s.rxSeq.filter (fun x => x != (f.src, f.seq)) }.sendBack f
    | none, none => (s.heldPort idx).getD s)

/-! At the source. -/

def State.sentTo (s : State) (dst seq : Nat) : Option Sent := s.sent.find? (fun m => m.frame.dst == dst && m.frame.seq == seq)

/-- THOHEL_ACK: the message is enqueued at its peer; the flags of its SEND fall with the last of its messages (R362). -/
def execThohelAck (dst seq : Nat) (s : State) : Out :=
  .next (match s.sentTo dst seq with
    | none => s
    | some m =>
      let s := { s with sent := s.sent.erase m }
      if s.sent.any (fun x => x.batch == m.batch) then s
      else match s.ctxGroup m.ctx m.gid with
        | some g => s.putCtxGroup m.ctx m.gid (g.lowerFlags m.flags)
        | none => s)

/-- A message as double words (R363). -/
def packWords : List Word → List DWord
  | a :: b :: t => joinW b a :: packWords t
  | [a] => [a.setWidth 64]
  | [] => []

/-- MESSAGE_RETURN: 0x0704 against the sender's context, with the peer's number and the message (R359, R363). The flags of its
SEND, whose messages are not all enqueued, do not fall (DESIGN CHOICE, log 15). -/
def execMessageReturn (dst seq : Nat) (s : State) : Out :=
  .next (match s.sentTo dst seq with
    | none => s
    | some m =>
      let rest := (s.sent.erase m).map (fun (x : Sent) => if x.batch = m.batch then { x with flags := [] } else x)
      { s with sent := rest }.ctxFault m.ctx m.frame.sgrid 0 0x0704#16 (w64 dst) (w64 m.frame.block) (packWords m.frame.data))

/-! Links. -/

/-- The key of a link's record (R423). -/
def linkKey (l : Link) : Option Nat :=
  match l with
  | .cxl n => if n < 64 then some n else none
  | .host => some 64
  | .storage => some 65
  | .thohel n => if n < 12 then some (66 + n) else none

/-- The frames that no peer has acknowledged and that take a link go out on it again (R430). -/
def State.retransmit (s : State) (link : Nat) : State :=
  (s.sent.filter (fun m => s.routeOf m.frame == some link)).foldl (fun s m => s.transmit m.frame) s

/-- LINK_RETRAIN: counted; a Thohel link carries its unacknowledged frames again (R423, R430). -/
def execLinkRetrain (l : Link) (s : State) : Out :=
  .next (match linkKey l with
    | some k =>
      let s := { s with field := { s.field with retrains := bump s.field.retrains k } }
      match l with
      | .thohel n => s.retransmit n
      | _ => s
    | none => s)

/-- The decoders that a port's root can be programmed with (R427). -/
def Decoder.sound (d : Decoder) : Bool :=
  [1, 2, 4, 8, 16].contains d.ports.length && d.ports.all (fun p => decide (p < 64)) &&
  [256, 512, 1024, 2048, 4096, 8192, 16384].contains d.gran && decide (d.base + d.len ≤ 2 ^ 52)

/-- Whether decoders address no more than the 64 TiB that CXL memory can hold (R4). -/
def decodersFit (ds : List Decoder) : Bool := decide ((ds.map (·.len)).sum ≤ 2 ^ 46)

/-- The decoders that there can be: each sound, all within what CXL memory can hold. -/
def decodersSound (ds : List Decoder) : Bool := ds.all Decoder.sound && decodersFit ds

/-- CXL_LINK_FAIL: every access through the port faults with 0x0307 until Berm remaps the range, by the decoders that it then
programs (R427). -/
def execCxlLinkFail (port : Nat) (remap : Bool) (ds : List Decoder) (s : State) : Out :=
  .next (if remap then (if decodersSound ds then { s with decoders := ds } else s)
    else if s.failed.contains port then s
    else { s with failed := s.failed ++ [port] })

end Sys2Proof.Machine
end

