-- ==== Sys2Proof/Machine/Mgmt.lean ====
section
/-! DEFINITION. Machine/Mgmt.lean: the management side (19_debug_host): a dump's faults and its side-band reading (R421,
R422), the management status register and mailbox (R432, R433), the field records' hour (R423), retirement and disabling of
cores (R424, R425), the thermal states (R438), the power limit (R436), attestation (R435) and boot (R434). -/

namespace Sys2Proof.Machine

/-! The status register and the mailbox. -/

/-- Four values packed low to high, w bits each. -/
def packDies (w : Nat) (l : List Nat) : Nat := (List.range 4).foldl (fun n i => n + l.getD i 0 * 2 ^ (w * i)) 0

/-- The management status register (R432); a state is the highest of the dies'. -/
def Mgmt.status (m : Mgmt) : DWord :=
  w64 (m.reason + 2 ^ 8 * m.stage + 2 ^ 14 * m.therm.foldl max 0 + bitN m.dumpFlt 17 + bitN m.dumpHeld 18 +
    bitN m.replReq 19 + 2 ^ 20 * m.retired + 2 ^ 28 * packDies 3 m.split + 2 ^ 40 * packDies 2 m.spares)

/-- A record enters the ring of 15; the oldest is overwritten (R433). -/
def Mgmt.record (m : Mgmt) (r : MgmtRec) : Mgmt := { m with mailbox := m.mailbox.put (m.mbIndex % 15) r, mbIndex := m.mbIndex + 1 }

/-- A record of a kind (DESIGN CHOICE, log 30). -/
def State.mgmtRec (s : State) (kind port ctx : Nat) (detail : DWord) : State :=
  { s with mgmt := s.mgmt.record ⟨kind, port, ctx, detail⟩ }

/-! Dumps (R421, R422). -/

/-- What follows the cut of a dump in the host's buffer was not written. -/
def State.cutDump (s : State) (d : Dump) : State :=
  { s with hostBuf := s.hostBuf.clear (d.buf + d.written.sum) (d.buf + d.limit) }

/-- DUMP_WRITE_FAULT: the dump stops at the item that the offset lies in. After a lost link Dike keeps it for side-band reading. -/
def execDumpWriteFault (offset err : Nat) (rewritten linkLost : Bool) (s : State) : Out :=
  .next (match s.dump with
    | none => s
    | some d =>
      let cut := { d with stop := min d.stop offset, faulted := true }
      let s := s.cutDump cut
      let s := if rewritten && decide (256 ≤ cut.written.sum) then s.putHost cut.buf cut.header else s
      let s := s.mgmtRec 1 0 d.ctx (w64 (offset % 2 ^ 32 + 2 ^ 32 * err))
      let kept := if linkLost then { cut with stop := d.limit, side := true } else cut
      { s with
        dump := some kept
        heldDumps := if linkLost then s.heldDumps ++ [(kept, [])] else s.heldDumps
        mgmt := { s.mgmt with dumpFlt := true, dumpHeld := s.mgmt.dumpHeld || linkLost } })

/-- The length that the controller sets (R422). -/
def Dump.limited (d : Dump) (n : Nat) : Dump := { d with limit := n, stop := n }

/-- MCTP_DUMP_READ: a message of the vendor-defined type with the maker's number, the offset, 64 bytes of the oldest dump that is
held; the hold ends when all of it has been read, in whatever order. -/
def execMctpDumpRead (r : DumpRead) (s : State) : Out :=
  .next (match s.heldDumps with
    | [] => s
    | (d, seen) :: rest =>
      let x := (d.limited r.limit).image
      let m := leBytes 1 0x7F ++ leBytes 4 Config.enterprise.toNat ++ leBytes 4 r.offset ++ padTo 64 (x.drop r.offset)
      let seen := r.offset :: seen
      let all_ := (List.range ((x.length + 63) / 64)).all (fun i => seen.contains (64 * i))
      let kept := if all_ then rest else (d, seen) :: rest
      { s with heldDumps := kept, mgmt := { s.mgmt with mctp := m, dumpHeld := !kept.isEmpty } })

/-- DUMPFLT: a write of one clears the bit. -/
def execDumpflt (s : State) : Out := .next { s with mgmt := { s.mgmt with dumpFlt := false } }

/-! What the host port and the management port reach (R426, R431). -/

/-- A record's 16 bytes (R433). -/
def MgmtRec.bytes (r : MgmtRec) : List Byte := leBytes 2 r.kind ++ leBytes 2 r.port ++ leBytes 4 r.ctx ++ b8 r.detail

/-- The first 512 bytes of BAR 0, which the management port reads as well: the status register, the mailbox's ring at 0x0100, its
index at 0x01F0 (R426, R431 to R433). -/
def Mgmt.bar0 (m : Mgmt) : List Byte :=
  padTo 0x100 (b8 m.status) ++
    (List.range 15).flatMap (fun i => (m.mailbox.get i).elim (zeros 16) MgmtRec.bytes) ++ leBytes 16 (m.mbIndex % 15)

/-- The field records as the management port reads them: the counts of a kind, in R423's order, at a key. -/
def Field.read (f : Field) (kind key : Nat) : Nat :=
  let t := [f.corrected, f.uncorrected, f.hour, f.buckets, f.rollbacks, f.defaults, f.discards, f.retrains, f.thermal].getD kind []
  (t.get key).getD 0

/-- Where a ring's doorbell lies in BAR 0, and its 64 KiB and its mailbox page in BAR 2 (R426). -/
def doorbellAt (ring : Nat) : Nat := 0x1000 + 8 * ring
def ringAt (ring : Nat) : Nat := 0x10000 * ring
def mailboxAt (ring : Nat) : Nat := ringAt ring + 0xF000

/-- REGISTER_WRITE: of the management registers DUMPFLT alone can be written, by a one at its bit (R432); a doorbell, and what the
host writes in BAR 2 and BAR 4, are rows of their own (log 40). -/
def execRegisterWrite (r : RegAddr) (val : DWord) (s : State) : Out :=
  .next (if r.bar = 0 ∧ r.offset = 0 ∧ val.getLsbD 17 then { s with mgmt := { s.mgmt with dumpFlt := false } } else s)

/-! Attestation, power (R435, R436). -/

/-- The byte that stands for the ordering code in a report, for which the manual gives no coding (DESIGN CHOICE, log 30). -/
def partCode : Part → Nat
  | .gxv256M => 0
  | .gxv256P => 1
  | .gxv240M => 2

/-- The report that is signed: R435's items in its order; their sizes and the byte of each are the model's (DESIGN CHOICE, log
30). -/
def State.report (s : State) (nonce : List Byte) : List Byte :=
  nonce ++ (List.range 3).flatMap (fun i => leBytes 32 (Config.identity i).toNat) ++ leBytes 1 (partCode s.part) ++
    (List.range 4).flatMap (fun d => b8 (s.enabledMask d)) ++ leBytes 1 (packDies 2 s.mgmt.spares) ++ leBytes 1 s.mgmt.retired

/-- ATTESTATION_REQUEST: a nonce has 32 bytes. -/
def execAttestationRequest (nonce : List Byte) (s : State) : Out :=
  .next (if nonce.length = 32 then
      let r := s.report nonce
      { s with mgmt := { s.mgmt with reports := s.mgmt.reports ++ [(r, Config.sign r)] } }
    else s)

/-- POWER_LIMIT_SET. -/
def execPowerLimitSet (watts : Nat) (s : State) : Out :=
  .next (if 1200 ≤ watts ∧ watts ≤ 2200 then { s with mgmt := { s.mgmt with power := watts } } else s)

/-! Field records (R423). -/

/-- The bucket of an hour's count of corrected errors. -/
def bucketOf (n : Nat) : Nat :=
  if n = 0 then 0 else if n < 2 then 1 else if n < 4 then 2 else if n < 16 then 3 else if n < 64 then 4
  else if n < 256 then 5 else if n < 1024 then 6 else 7

/-- The keys of the structures that keep counts: seven on each core. -/
def eccKeys : List Nat := (List.range 256).flatMap (fun c => (List.range 7).map (fun i => 16 * c + i))

/-- FIELD_HOUR_ROLLOVER: every structure's hour enters its bucket; the next hour counts from zero, and what the hour has made due
stays so (R424). -/
def execFieldHourRollover (s : State) : Out :=
  let hour (k : Nat) : Nat := (s.field.hour.get k).getD 0
  .next { s with field := { s.field with
    buckets := eccKeys.foldl (fun t k => bump t (8 * k + bucketOf (hour k))) s.field.buckets, hour := []
    pastDue := s.field.pastDue ++ (s.field.hour.map (·.1)).filter (fun k => s.field.due k && !s.field.pastDue.contains k) } }

/-! Cores (R424, R425). -/

/-- Whether no context holds a group, a team or a reservation on a core. -/
def State.coreIdle (s : State) (core : Nat) : Bool :=
  (s.coreGroups core).isEmpty && (s.coreTeams core).isEmpty &&
  !s.grids.any (fun g => g.2.reserved.contains core)

/-- What a core holds reaches the home, and the core is empty. -/
def State.emptyCore (s : State) (core : Nat) : State :=
  let s := ((s.writeBack core).drainCore core).settle
  let s := (s.core core).l1.foldl (fun s x => s.dropCopy core x.line) s
  { s with cores := s.cores.del core }

/-- Whether a core is due, by the structures that are its own: register file, core store, accumulators, L1 (R424). -/
def State.due (s : State) (core : Nat) : Bool := (List.range 4).any (fun i => s.field.due (16 * core + i))

/-- Whether a core that is due may be replaced or disabled now; while a context holds it, it waits (R424, R425). -/
def State.mayLeave (s : State) (core : Nat) : Bool := !s.enabled core || !s.due core || s.coreIdle core

/-- Counts that move to other keys. -/
def moveRun (t : Tbl Nat) (a b n : Nat) : Tbl Nat :=
  (List.range n).foldl (fun t i => (t.get (a + i)).elim t (fun c => (t.del (a + i)).put (b + i) c)) t

/-- The lifetime records when a spare takes a position (R423, R424): those of the n-th core retired stay under a number of their
own, and the spare's begin (DESIGN CHOICE, log 49). -/
def Field.retire (f : Field) (core n : Nat) : Field :=
  let m := 512 + n
  { f with
    corrected := moveRun f.corrected (16 * core) (16 * m) 4, uncorrected := moveRun f.uncorrected (16 * core) (16 * m) 4,
    hour := moveRun f.hour (16 * core) (16 * m) 4, buckets := moveRun f.buckets (128 * core) (128 * m) 32,
    pastDue := f.pastDue.filter (fun k => k / 16 != core || decide (4 ≤ k % 16)),
    rollbacks := moveRun f.rollbacks core m 1, defaults := moveRun f.defaults core m 1, discards := moveRun f.discards core m 1 }

/-- CORE_RETIRE: a spare of the die takes the position of a core that is due. -/
def execCoreRetire (core : Nat) (s : State) : Out :=
  let die := core / 64
  let left := s.mgmt.spares.getD die 0
  .next (if s.enabled core && s.due core && s.coreIdle core && decide (0 < left) then
      let s := (s.emptyCore core).mgmtRec 2 die 0 (w64 core)
      { s with
        field := s.field.retire core s.mgmt.retired
        mgmt := { s.mgmt with
          spares := s.mgmt.spares.set die (left - 1), retired := min 255 (s.mgmt.retired + 1) } }
    else s)

/-- CORE_DISABLE: no spare is left for a core that is due. -/
def execCoreDisable (core : Nat) (s : State) : Out :=
  let die := core / 64
  .next (if s.enabled core && s.due core && s.coreIdle core && s.mgmt.spares.getD die 0 == 0 then
      let s := (s.emptyCore core).mgmtRec 3 die 0 (w64 core)
      let m := s.mgmt.enabled.getD die 0#64 &&& ~~~(BitVec.twoPow 64 (core % 64))
      { s with mgmt := { s.mgmt with enabled := s.mgmt.enabled.set die m, replReq := true } }
    else s)

/-! Temperatures (R438). -/

/-- An entry of a die into a state: the status, the record, the count. -/
def State.enterTherm (s : State) (die state : Nat) : State :=
  let s := { s with
    mgmt := { s.mgmt with therm := s.mgmt.therm.set die state }
    field := { s.field with thermal := bump s.field.thermal (2 * die + (state - 1)) } }
  s.mgmtRec 4 die 0 (w64 state)

/-- A die falls below 95 degrees; with the last one grids run again. -/
def State.coolDie (s : State) (die : Nat) : State :=
  let t := s.mgmt.therm.set die 0
  { s with mgmt := { s.mgmt with therm := t, hot := s.mgmt.hot && t.any (fun x => x != 0) } }

/-- THERMAL_THROTTLE: a die passes 95 degrees. One that is critical stays so until it has cooled. -/
def execThermalThrottle (d : DieTemp) (s : State) : Out :=
  .next (match d with
    | .above die => if s.mgmt.therm.getD die 1 = 0 then s.enterTherm die 1 else s
    | .below die => s.coolDie die)

/-- THERMAL_CRITICAL: every context is pre-empted, and no grid runs until every die has cooled. -/
def execThermalCritical (die : Nat) (s : State) : Out :=
  .next (if s.mgmt.therm.getD die 2 < 2 then
      let s := s.enterTherm die 2
      { s with mgmt := { s.mgmt with hot := true }, ctxs := s.ctxs.map (fun (c : Nat × Ctx) =>
          (c.1, if c.1 ≠ bermKey && c.2.preempt.isNone && c.2.image.isNone then { c.2 with preempt := some [] } else c.2)) }
    else s)

/-- THERMAL_NORMAL: every die is below 95 degrees. -/
def execThermalNormal (s : State) : Out := .next ((List.range 4).foldl State.coolDie s)

/-! Boot (R434). -/

/-- The management side after a reset. What holds since manufacture stays; the rest takes its reset value (R432). -/
def Mgmt.restarted (m : Mgmt) : Mgmt :=
  { Mgmt.reset with spares := m.spares, retired := m.retired, enabled := m.enabled, booting := true }

/-- The system cores run Berm, each one group of system mode (R20, R22): system core n is core 256 + n. Pages and decoders name
addresses that there are (R4, R427). -/
def State.startBerm (s : State) (b : BootParams) : State :=
  let ds := b.decoders.filter Decoder.sound
  let s := { s with
    ctxs := s.ctxs.put bermKey (bermCtx (b.pages.filter Page.sound)), decoders := if decodersFit ds then ds else [],
    routes := b.routes }
  (List.range 8).foldl (fun s n =>
    let (id, s) := s.newId
    s.setGroup id (bermGroup .system (256 + n) 0 b.entry 256)) s

/-- A stage of the boot: with stage 4 the polder is divided and Berm runs (R178, R434). -/
def State.bootStep (s : State) (b : BootParams) : State :=
  let o := BootParams.next b s.mgmt.stage
  let s := { s with mgmt := { s.mgmt with stage := o.1, reason := o.2, booting := !bootEnds o.1, monitor := b.monitor } }
  if o.1 = 4 then
    { s with mgmt := { s.mgmt with split := (List.range 4).map (fun i => min 7 (b.split.getD i 0)) } }.startBerm b
  else s

/-- DEVICE_RESET: nothing runs; the field records and the memory behind the ports stay (DESIGN CHOICE, log 26). The boot follows, a
stage at each step. -/
def execDeviceReset (b : BootParams) (s : State) : Out :=
  .next (if s.mgmt.booting then s.bootStep b
    else
      { State.resetOf s.part with
        deviceNo := s.deviceNo, mem := s.mem,
        poison := s.poison.filter (fun p => match p with | .glob _ => true | _ => false), failed := s.failed, field := s.field,
        mgmt := s.mgmt.restarted, hostBuf := s.hostBuf, inputs := s.inputs, nextId := s.nextId, fresh := s.fresh })

end Sys2Proof.Machine
end

