-- ==== Sys2Proof/Machine/Sched.lean ====
section
/-! DEFINITION. Machine/Sched.lean: clause boundaries: which split starts the next clause (03 R85, R90), the boundary's
history entries and their fit (09 R231, R232, R237), merges and unparking (03 R79, R80), the structural checks (02 R57,
R60), and the ends of CONV, BAR and GROW (03 R72, R73, R81, R82, 14 R362). -/

namespace Sys2Proof.Machine

/-! The chosen split. -/

/-- The WAIT mask of the clause at a split's header; a foreign header is not decoded (R60). -/
def State.waitMask (s : State) (g : Group) (sp : Split) : BitVec 12 :=
  match s.parcel g.ctx sp.pc with
  | some w => if lenCode w = 3 ∧ (headerOf w).ver < 2 then (headerOf w).wait else 0#12
  | none => 0#12

/-- Whether a split is ready (R85, R90). One that resumes inside its clause has passed its header. -/
def State.splitReady (s : State) (g : Group) (sp : Split) : Bool :=
  sp.wait == .ready && (sp.mid.isSome || g.flagsClear (s.waitMask g sp))

/-- The ready splits of a group, in order of number. -/
def State.readySplits (s : State) (g : Group) : List Nat := (g.splits.filter (fun x => s.splitReady g x.2)).map (·.1)

/-- The next number after n in cyclic order. -/
def nextAfter (n : Nat) (l : List Nat) : Option Nat := (l.find? (fun x => decide (n < x))).or l.head?

/-- The split that starts the next clause among the ready ones (R90). -/
def Group.choose (g : Group) (ready : List Nat) : Option Nat :=
  let others := ready.filter (· != g.lastStart)
  if ready.contains g.lastStart && (others.isEmpty || (!g.yielded && decide (g.inARow < 8))) then some g.lastStart
  else nextAfter g.lastStart others

/-- Unparks paths while numbers are free: the group, and the entry of each (R79). -/
def Group.unparkAll (g : Group) : Nat → Group × List HKind
  | 0 => (g, [])
  | fuel + 1 =>
    match g.parked.getLast?, g.splits.freeFrom 0 4 with
    | some p, some n =>
      let g : Group := { g with
        parked := g.parked.dropLast
        splits := g.splits.put n { pc := p.pc, mask := p.mask, cfrPc := 0#57, cfrIc := 0#48, wait := .ready, mid := none } }
      let r := g.unparkAll fuel
      (r.1, .parkrec true n p.mask p.pc :: r.2)
    | _, _ => (g, [])

/-- One merge of two splits at one header: the lower number stays, and holds the last instruction retired (R80, R405). -/
def Group.mergeTwo (g : Group) (a b : Nat) : Group × List HKind :=
  let k := min a b
  let r := max a b
  match g.splits.get k, g.splits.get r with
  | some x, some y =>
    ({ g with splits := (g.splits.put k { x with mask := x.mask ||| y.mask }).del r
              lastSplit := if g.lastSplit = r then k else g.lastSplit },
      [.merge k r x.mask y.mask x.pc y.pc y.cfrPc y.cfrIc])
  | _, _ => (g, [])

/-- Merges splits into k, the lowest, in the order given. -/
def Group.mergeInto (g : Group) (k : Nat) : List Nat → Group × List HKind
  | [] => (g, [])
  | m :: t =>
    let (g, e) := g.mergeTwo k m
    let (g, es) := g.mergeInto k t
    (g, e ++ es)

/-- The splits that become one as n starts the clause at its PC, n among them, in order of number: those that wait ready
there. -/
def Group.mergeables (g : Group) (n : Nat) : List Nat :=
  match g.splits.get n with
  | none => [n]
  | some sp =>
    if sp.mid.isSome then [n]
    else (g.splits.filter (fun x =>
      x.1 == n || (x.2.wait == .ready && x.2.mid.isNone && x.2.pc == sp.pc))).map (·.1)

/-- The merges at the start of n's clause, in pairs, the lower numbers first (R80, R81, R231): the group, the split that
starts, the entries. -/
def Group.mergeAt (g : Group) (n : Nat) : Group × Nat × List HKind :=
  match g.mergeables n with
  | [] => (g, n, [])
  | k :: t => ((g.mergeInto k t).1, k, (g.mergeInto k t).2)

/-- A clause boundary worked out: the split chosen, the split that starts after merges and that its entries name (R229), the
group, its entries in order. -/
structure Boundary where
  chosen  : Nat
  starts  : Nat
  g       : Group
  entries : List HKind
  deriving DecidableEq, Repr

/-- The split with which a released group goes on inside its clause (R416). -/
def Group.halfway (g : Group) : Option Nat :=
  g.resume.filter (fun n => (g.splits.get n).any (fun sp => sp.wait == .ready && sp.mid.isSome))

/-- The boundary of a group; `none` when no split can start (R231, R232). Where a halt has stopped a clause there is none: the
clause goes on (R416). -/
def State.boundary (s : State) (g : Group) : Option Boundary :=
  match g.halfway with
  | some n => some ⟨n, n, { g with cur := n }, []⟩
  | none =>
  let ready := s.readySplits g
  let (g1, un1) := if ready.isEmpty then g.unparkAll 4 else (g, [])
  let ready := if ready.isEmpty then s.readySplits g1 else ready
  (g1.choose ready).map (fun n =>
    let weave := if n ≠ g.lastStart ∧ !g.inHandler then [HKind.weave g.lastStart g.hist.switchCnt] else []
    let (g2, k, ms) := if un1.isEmpty then g1.mergeAt n else (g1, n, [])
    let (g3, un2) := g2.unparkAll 4
    let others := decide (1 < ready.length)
    let row := if others then (if k = g.lastStart then g.inARow + 1 else 1) else 0
    ⟨n, k, { g3 with
      cur := k, lastStart := k, inARow := row
      hist := if weave.isEmpty then g3.hist else { g3.hist with switchCnt := 0 } }, weave ++ ms ++ un1 ++ un2⟩)

/-- Pushes a boundary's entries, which name the split that starts (R229): STEP grade holds them (R224). -/
def Group.pushAll (g : Group) (es : List HKind) (split : Nat) : Group :=
  if g.recGrade = .step then es.foldl (fun g e => g.push e split) g else g

def entriesSize (es : List HKind) : Nat := (es.map (·.size)).sum

/-- Whether n bytes of boundary entries fit together (R237). -/
def Group.fits (g : Group) (n : Nat) : Bool :=
  n == 0 || g.recGrade != .step || decide (g.hsp.toNat + n ≤ g.hlim.toNat)

/-- A foreign clause whose header vectors to a handler: its open frame is pushed last at the boundary (R60, R231, R249). -/
def State.frameSize (s : State) (g : Group) (hdr : Option (Header × CAddr)) : Nat :=
  match hdr with
  | some (h, _) => if 2 ≤ h.ver ∧ g.depth < 2 ∧ (s.handlerFor g .emulation).isSome then 24 else 0
  | none => 0

/-- The bytes that a boundary pushes. -/
def State.boundarySize (s : State) (g : Group) (b : Boundary) (hdr : Option (Header × CAddr)) : Nat :=
  entriesSize b.entries + s.frameSize g hdr

/-! The start of a clause. -/

/-- The group with the split at its instruction: the clause that it resumes, or the one that its header opens. -/
def Group.startClause (g : Group) (n : Nat) (hdr : Option Header) : Group :=
  match g.splits.get n with
  | none => g
  | some sp =>
    match sp.mid, hdr with
    | some cl, _ => { g with clause := some cl, yielded := cl.yld, resume := none, splits := g.splits.put n { sp with mid := none } }
    | none, some h =>
      { g with
        clause := some (clauseOf sp.pc h h.count)
        yielded := h.yld
        splits := g.splits.put n { sp with pc := sp.pc + 4#57 } }
    | none, none => g

/-- A fault at a clause's header: Continue acts as Replay (R384). -/
def State.headerFault (s : State) (gid : Nat) (g : Group) (n : Nat) (cause : Cause) (a : CAddr) (detA : DWord) : State :=
  s.toBerm gid { g with cur := n } n cause ((g.splits.get n).elim 0#32 (·.mask)) a detA 0#64 0 none

/-- The pointer of a quadrant advances to its next resident group, in order of core slot number, cyclically (R89). -/
def State.advance (s : State) (quad : Nat) : State :=
  let p := (s.ptrs.get quad).getD 0
  let at_ (i : Nat) : Nat := 8 * (quad % 4) + (p + i) % 8
  let taken (n : Nat) : Bool := s.groups.any (fun x => x.2.quad == quad && x.2.slot == n)
  match ((List.range 8).map (fun i => at_ (i + 1))).find? taken with
  | some n => { s with ptrs := s.ptrs.put quad n }
  | none => s

/-- The boundary done: its entries pushed, then the clause or the emulation of a foreign one (R60), which counts in the row of R90
but is no start of a clause for the quadrant's pointer (R89; DESIGN CHOICE, log 53). -/
def State.enterClause (s : State) (gid : Nat) (b : Boundary) (hdr : Option (Header × CAddr)) : State :=
  let s := b.entries.foldl (fun s e => match e with
    | .merge k r .. => s.joinScores gid k r
    | _ => s) s
  let g := (b.g.pushAll b.entries b.starts).pushed b.chosen true
  match hdr, g.splits.get b.starts with
  | some (h, e), some sp =>
    if 2 ≤ h.ver then
      s.emulate gid g sp (if h.ver = 2 then 0x0007#16 else 0x0008#16) sp.pc (s.rawParcel g.ctx sp.pc) 0#32 0#32
        ((e - sp.pc).toNat / 4) true sp.mask
    else (s.setGroup gid (g.startClause b.starts (some h))).advance g.quad
  | _, _ => (s.setGroup gid (g.startClause b.starts none)).advance g.quad

/-- The group after the commit of the default action at a boundary: MTG's (R237, R404), but in a handler, whose commits are of the
number that the instruction which it stands for has (R250). -/
def Group.commitBoundary (g after : Group) : Group :=
  { (if g.inHandler then after.commitAt g.ic else after.commitBelow g.snapshot) with drops := [] }

/-- The default action at a boundary (R237). -/
def State.boundaryDefault (s : State) (gid : Nat) (g : Group) (b : Boundary) (a : CAddr) (hdr : Option (Header × CAddr)) :
    State :=
  if s.memwOpen gid then s
  else
    let s := (s.commitOuter gid g.core g.drops).countDefault g.core
    let g' := g.commitBoundary b.g
    if g'.fits (s.boundarySize g b hdr) then s.enterClause gid { b with g := g' } hdr
    else s.headerFault gid (g.commitBoundary g) b.chosen 0x0402#16 a 0#64

/-- Whether the boundary's clause is a foreign one that enters the emulation handler. -/
def State.foreign (s : State) (g : Group) (hdr : Option (Header × CAddr)) : Bool := decide (0 < s.frameSize g hdr)

/-- The boundary with its history test: the handler, the overflow fault, the default action (R237, R238). The emulation of a foreign
clause comes before the history-full trap, so that its boundary's pushes are a handler's, which take the default action (R26, R383,
R385; DEDUCED, log 54). Pushes that the buffer cannot hold wait for an incomplete MEMW entry (R195). -/
def State.takeBoundary (s : State) (gid : Nat) (g : Group) (b : Boundary) (hdr : Option (Header × CAddr)) : State :=
  let sp := (b.g.splits.get b.chosen).or (b.g.splits.get b.starts)
  let a := sp.elim 0#57 (·.pc)
  if (b.g.pushAll b.entries b.starts).overfull then s
  else if g.fits (s.boundarySize g b hdr) then s.enterClause gid b hdr
  else if s.foreign g hdr then s.boundaryDefault gid g b a hdr
  else if g.hist.fullRet.contains (b.chosen, a, true) then s.headerFault gid g b.chosen 0x0402#16 a 0#64
  else match (if g.inHandler then none else s.handlerFor g .historyFull) with
    | some pc =>
      let m := sp.elim 0#32 (·.mask)
      s.enterAt gid { g with cur := b.chosen, clause := sp.bind (·.mid) } (g.fullEntry pc 0 a 0 false m m)
    | none => s.boundaryDefault gid g b a hdr

/-- Whether a group's splits and those kept aside all wait where only a CONV or a BAR can free them, and none completes
(R82). -/
def Group.deadlocked (g : Group) : Bool :=
  !g.splits.isEmpty &&
  g.splits.all (fun x => match x.2.wait with
    | .conv _ => true
    | .bar _ => true
    | _ => false) &&
  (if g.parked.isEmpty then decide (1 < (g.splits.map (fun x => x.2.wait)).eraseDups.length)
   else (g.splits.freeFrom 0 4).isNone)

/-- Whether the context's groups may issue: while it is pre-empted, only a running surrender routine does (R35, R394). -/
def State.ctxRuns (s : State) (g : Group) : Bool :=
  (s.ctxs.get g.ctx).elim true (fun c => c.image.isNone && (c.preempt.isNone || g.inRoutine))

/-- A group at a clause boundary that may start a clause. A handler runs on to its return under a requested halt (R415). -/
def State.mayStartClause (s : State) (g : Group) : Bool :=
  g.runs && g.clause.isNone && (!g.haltReq || g.inHandler) && s.ctxRuns g

/-- A clause's start as far as its boundary: the chosen split's header is checked first (R57). -/
def State.startAt (s : State) (gid : Nat) (g : Group) (b : Boundary) : State :=
  match b.g.splits.get b.starts with
  | none => s
  | some sp =>
    if sp.mid.isSome then s.takeBoundary gid g b none
    else match s.clauseCheck g.ctx sp.pc with
      | .error (cause, a) =>
        let g' := if (g.splits.get b.chosen).isSome then g
          else { (g.unparkAll 4).1.pushAll (g.unparkAll 4).2 b.starts with lastStart := g.lastStart }
        s.headerFault gid g' b.chosen cause sp.pc (a.setWidth 64)
      | .ok h => s.takeBoundary gid g b (some h)

/-- CLAUSE_START: a ready split starts its next clause (R90). An abort of a copy, or a deadlock, that falls due at the
boundary comes first (R82, R329). -/
def execClauseStart (gid : Nat) (s : State) : Out :=
  .next (match s.groups.get gid with
    | none => s
    | some g =>
      if !s.mayStartClause g then s
      else match g.abortDue with
        | x :: rest =>
          let s := s.impreciseWith gid { g with cur := g.standing } 0x0607#16 0#32 (x.getLastD 0#64) x
          s.updGroup gid (fun g => { g with abortDue := rest })
        | [] =>
          if g.deadlocked then
            let n := g.standing
            s.headerFault gid g n 0x0204#16 ((g.splits.get n).elim 0#57 (·.pc)) 0#64
          else match s.boundary g with
            | none => s
            | some b => s.startAt gid g b)

/-! The ends of CONV and BAR. -/

/-- The one wait that every split of a group shares, when no path is parked. -/
def Group.common (g : Group) : Option Wait :=
  match g.baseSplits with
  | [] => none
  | x :: t => if g.baseParked.isEmpty && t.all (fun y => y.2.wait == x.2.wait) then some x.2.wait else none

/-- CONV_COMPLETE: every split has reached one CONV; they merge as the group starts its next clause (R81). -/
def execConvComplete (gid : Nat) (s : State) : Out :=
  .next (match s.groups.get gid with
    | none => s
    | some g => match g.common with
      | some (.conv a) => s.setGroup gid (g.wake (.conv a))
      | _ => s)

/-- Whether a group has arrived at its team's next BAR (R82, R362). -/
def Group.arrived (g : Group) (bars : Nat) : Bool :=
  g.barCount == bars && (match g.common with
    | some (.bar _) => true
    | _ => false)

/-- The resident groups of a team. -/
def State.teamGroups (s : State) (team : Nat) : Tbl Group := s.groups.filter (fun x => x.2.team == team)

def State.barReady (s : State) (team : Nat) : Bool :=
  match s.teams.get team with
  | none => false
  | some t => !(s.teamGroups team).isEmpty && (s.teamGroups team).all (fun x => x.2.arrived t.bars)

/-- A group passes its BAR. -/
def Group.passBar (g : Group) : Group :=
  match g.common with
  | some (.bar a) => { g.wake (.bar a) with barCount := g.barCount + 1 }
  | _ => g

/-- BAR_COMPLETE (R32, R362). -/
def execBarComplete (team : Nat) (s : State) : Out :=
  .next (if s.barReady team then
      let s : State := { s with groups := s.groups.map (fun x => if x.2.team = team then (x.1, x.2.passBar) else x) }
      s.updTeam team (fun t => { t with bars := t.bars + 1 })
    else s)

/-! GROW (R72, R73). -/

/-- The oldest request of a quadrant. -/
def State.growHead (s : State) (quad : Nat) : Option GrowReq := s.growQ.find? (fun r => r.quad == quad)

def State.growGrantable (s : State) (quad : Nat) : Option (GrowReq × Group) := do
  let r ← s.growHead quad
  let g ← s.groups.get r.gid
  if r.want - g.regs ≤ s.quadFree quad then some (r, g) else none

/-- A split of a group that waits at GROW goes on. -/
def Group.wakeSplit (g : Group) (n : Nat) : Group :=
  g.mapSplits (fun i sp => if i = n ∧ sp.wait = .grow then { sp with wait := .ready } else sp)

/-- The budget n is granted to a split that waits: what lay below the grants stays for its GROWREC (R72, R75). -/
def Group.grant (g : Group) (split n : Nat) : Group :=
  let g' := if g.regs < n then g.setRegs n else g
  if n ≤ g.baseRegs then g' else { g' with grants := g.grants.put split n, growOld := g.baseRegs }

/-- GROW_GRANT: the oldest request of a quadrant is granted (R72). -/
def execGrowGrant (core quad : Nat) (s : State) : Out :=
  .next (match s.growGrantable (4 * core + quad) with
    | none => s
    | some (r, g) =>
      { s.setGroup r.gid ((g.grant r.split r.want).wakeSplit r.split) with growQ := s.growQ.erase r })

/-- Whether a group is stalled: it waits at a GROW, or at a BAR (R73). A group of several splits waits at a GROW when one
does and the others wait there, at a BAR or at a CONV, and at a BAR when all do; a parked path that has a number to
resume under does not wait (DESIGN CHOICE, log 45). -/
def Group.stalled (g : Group) : Bool :=
  !g.baseSplits.isEmpty && g.clause.isNone && !g.inHandler &&
  (g.baseParked.isEmpty || (g.baseSplits.freeFrom 0 4).isNone) &&
  g.baseSplits.all (fun x => match x.2.wait with
    | .grow => true
    | .bar _ => true
    | .conv _ => true
    | _ => false) &&
  (g.baseSplits.any (fun x => x.2.wait == .grow) || g.baseSplits.all (fun x => match x.2.wait with
    | .bar _ => true
    | _ => false))

/-- The request that a core fails: the waiting GROW with the highest core slot number; of two of one group, the one that
waits longer (DESIGN CHOICE, log 45). -/
def State.growVictim (s : State) (core : Nat) : Option GrowReq :=
  let gs := s.groups.filter (fun x => x.2.core == core)
  if !gs.isEmpty && gs.all (fun x => x.2.stalled) && (List.range 4).all (fun q => (s.growGrantable (4 * core + q)).isNone)
  then
    let rs := s.growQ.filter (fun r => r.quad / 4 == core)
    leastBy (fun r => 32 - (s.groups.get r.gid).elim 0 (·.slot)) rs
  else none

/-- GROW_FAIL (R73). -/
def execGrowFail (core : Nat) (s : State) : Out :=
  .next (match s.growVictim core with
    | none => s
    | some r =>
      { s.updGroup r.gid (fun g => { g.wakeSplit r.split with growFail := some r.split }) with growQ := s.growQ.erase r })

/-- GROUP_HALT: a requested halt takes effect at a clause boundary outside handler mode (R415). -/
def execGroupHalt (gid : Nat) (s : State) : Out :=
  .next (s.updGroup gid (fun g =>
    if g.haltReq && g.clause.isNone && !g.inHandler && !g.dir then { g with halted := true, haltReq := false } else g))

end Sys2Proof.Machine
end

