-- ==== Sys2Proof/Machine/Dispatch.lean ====
section
/-! DEFINITION. Machine/Dispatch.lean: one arm per constructor of `Instr`, each a call of its meaning. -/

namespace Sys2Proof.Machine

def exec (i : Instr) (s : State) : Host.Outcome State Fault Refusal :=
  match i with
  | .iadd z sat o => Sys2Proof.Machine.execIadd z sat o s
  | .iaddL96 z sat o => Sys2Proof.Machine.execIaddL96 z sat o s
  | .isub z sat o => Sys2Proof.Machine.execIsub z sat o s
  | .isubL96 z sat o => Sys2Proof.Machine.execIsubL96 z sat o s
  | .ineg sat o => Sys2Proof.Machine.execIneg sat o s
  | .iadd3 o => Sys2Proof.Machine.execIadd3 o s
  | .iadd64 z sat o => Sys2Proof.Machine.execIadd64 z sat o s
  | .isub64 z sat o => Sys2Proof.Machine.execIsub64 z sat o s
  | .imul o => Sys2Proof.Machine.execImul o s
  | .imulL96 o => Sys2Proof.Machine.execImulL96 o s
  | .imulhi z o => Sys2Proof.Machine.execImulhi z o s
  | .imad o => Sys2Proof.Machine.execImad o s
  | .imadL96 o => Sys2Proof.Machine.execImadL96 o s
  | .imadhi z o => Sys2Proof.Machine.execImadhi z o s
  | .imin z o => Sys2Proof.Machine.execImin z o s
  | .iminL96 z o => Sys2Proof.Machine.execIminL96 z o s
  | .imax z o => Sys2Proof.Machine.execImax z o s
  | .imaxL96 z o => Sys2Proof.Machine.execImaxL96 z o s
  | .iabs sat o => Sys2Proof.Machine.execIabs sat o s
  | .idiv z o => Sys2Proof.Machine.execIdiv z o s
  | .irem z o => Sys2Proof.Machine.execIrem z o s
  | .addS d a => Sys2Proof.Machine.execAddS d a s
  | .subS d a => Sys2Proof.Machine.execSubS d a s
  | .xorS d a => Sys2Proof.Machine.execXorS d a s
  | .rotlS d a => Sys2Proof.Machine.execRotlS d a s
  | .negS d => Sys2Proof.Machine.execNegS d s
  | .shl o => Sys2Proof.Machine.execShl o s
  | .shr o => Sys2Proof.Machine.execShr o s
  | .sar o => Sys2Proof.Machine.execSar o s
  | .rotl o => Sys2Proof.Machine.execRotl o s
  | .rotr o => Sys2Proof.Machine.execRotr o s
  | .shf r g d hi lo amt => Sys2Proof.Machine.execShf r g d hi lo amt s
  | .popc o => Sys2Proof.Machine.execPopc o s
  | .clz o => Sys2Proof.Machine.execClz o s
  | .brev o => Sys2Proof.Machine.execBrev o s
  | .bfe sx o => Sys2Proof.Machine.execBfe sx o s
  | .bfi o => Sys2Proof.Machine.execBfi o s
  | .and o => Sys2Proof.Machine.execAnd o s
  | .andL96 o => Sys2Proof.Machine.execAndL96 o s
  | .or o => Sys2Proof.Machine.execOr o s
  | .orL96 o => Sys2Proof.Machine.execOrL96 o s
  | .xor o => Sys2Proof.Machine.execXor o s
  | .xorL96 o => Sys2Proof.Machine.execXorL96 o s
  | .not d a => Sys2Proof.Machine.execNot d a s
  | .notW64 o => Sys2Proof.Machine.execNotW64 o s
  | .tril g d a b c table => Sys2Proof.Machine.execTril g d a b c table s
  | .pand na nb o => Sys2Proof.Machine.execPand na nb o s
  | .por na nb o => Sys2Proof.Machine.execPor na nb o s
  | .pxor na nb o => Sys2Proof.Machine.execPxor na nb o s
  | .pnot g d a => Sys2Proof.Machine.execPnot g d a s
  | .ptov g d a n => Sys2Proof.Machine.execPtov g d a n s
  | .vtop g d a n => Sys2Proof.Machine.execVtop g d a n s
  | .isetp cc z bop o => Sys2Proof.Machine.execIsetp cc z bop o s
  | .isetpL96 cc z bop o => Sys2Proof.Machine.execIsetpL96 cc z bop o s
  | .fsetp cc unord bop o => Sys2Proof.Machine.execFsetp cc unord bop o s
  | .fsetpL96 cc unord bop o => Sys2Proof.Machine.execFsetpL96 cc unord bop o s
  | .ksetp cc z bop g d a b c => Sys2Proof.Machine.execKsetp cc z bop g d a b c s
  | .ksetpL96 cc z bop g d a lit c => Sys2Proof.Machine.execKsetpL96 cc z bop g d a lit c s
  | .sel nc g d a b c => Sys2Proof.Machine.execSel nc g d a b c s
  | .mov d a => Sys2Proof.Machine.execMov d a s
  | .movW64 g d a => Sys2Proof.Machine.execMovW64 g d a s
  | .movi g d lit => Sys2Proof.Machine.execMovi g d lit s
  | .movk hi g d a => Sys2Proof.Machine.execMovk hi g d a s
  | .swap d a => Sys2Proof.Machine.execSwap d a s
  | .swapW64 g d a => Sys2Proof.Machine.execSwapW64 g d a s
  | .mfs g d sr => Sys2Proof.Machine.execMfs g d sr s
  | .mts g sr a => Sys2Proof.Machine.execMts g sr a s
  | .kmov g d a => Sys2Proof.Machine.execKmov g d a s
  | .kmovi g d m lit => Sys2Proof.Machine.execKmovi g d m lit s
  | .kadd o => Sys2Proof.Machine.execKadd o s
  | .kaddL96 o => Sys2Proof.Machine.execKaddL96 o s
  | .ksub o => Sys2Proof.Machine.execKsub o s
  | .ksubL96 o => Sys2Proof.Machine.execKsubL96 o s
  | .kmul o => Sys2Proof.Machine.execKmul o s
  | .kmulL96 o => Sys2Proof.Machine.execKmulL96 o s
  | .kshl g d a n => Sys2Proof.Machine.execKshl g d a n s
  | .kshr g d a n => Sys2Proof.Machine.execKshr g d a n s
  | .kand o => Sys2Proof.Machine.execKand o s
  | .kandL96 o => Sys2Proof.Machine.execKandL96 o s
  | .kor o => Sys2Proof.Machine.execKor o s
  | .korL96 o => Sys2Proof.Machine.execKorL96 o s
  | .kxor o => Sys2Proof.Machine.execKxor o s
  | .kxorL96 o => Sys2Proof.Machine.execKxorL96 o s
  | .bra g off => Sys2Proof.Machine.execBra g off s
  | .bru g off => Sys2Proof.Machine.execBru g off s
  | .brx g t => Sys2Proof.Machine.execBrx g t s
  | .call g d off => Sys2Proof.Machine.execCall g d off s
  | .calli g d t => Sys2Proof.Machine.execCalli g d t s
  | .ret a => Sys2Proof.Machine.execRet a s
  | .exit => Sys2Proof.Machine.execExit s
  | .conv => Sys2Proof.Machine.execConv s
  | .rdcf g d => Sys2Proof.Machine.execRdcf g d s
  | .fadd m o => Sys2Proof.Machine.execFadd m o s
  | .faddL96 m o => Sys2Proof.Machine.execFaddL96 m o s
  | .fsub m o => Sys2Proof.Machine.execFsub m o s
  | .fsubL96 m o => Sys2Proof.Machine.execFsubL96 m o s
  | .fmul m o => Sys2Proof.Machine.execFmul m o s
  | .fmulL96 m o => Sys2Proof.Machine.execFmulL96 m o s
  | .ffma m o => Sys2Proof.Machine.execFfma m o s
  | .ffmaL96 m o => Sys2Proof.Machine.execFfmaL96 m o s
  | .fmin m o => Sys2Proof.Machine.execFmin m o s
  | .fmax m o => Sys2Proof.Machine.execFmax m o s
  | .fclass fmt hs o => Sys2Proof.Machine.execFclass fmt hs o s
  | .frcp m o => Sys2Proof.Machine.execFrcp m o s
  | .frsq m o => Sys2Proof.Machine.execFrsq m o s
  | .fsqrt m o => Sys2Proof.Machine.execFsqrt m o s
  | .fexp2 m o => Sys2Proof.Machine.execFexp2 m o s
  | .flog2 m o => Sys2Proof.Machine.execFlog2 m o s
  | .fsin m o => Sys2Proof.Machine.execFsin m o s
  | .fcos m o => Sys2Proof.Machine.execFcos m o s
  | .pkadd m o => Sys2Proof.Machine.execPkadd m o s
  | .pkaddL96 m o => Sys2Proof.Machine.execPkaddL96 m o s
  | .pkmul m o => Sys2Proof.Machine.execPkmul m o s
  | .pkmulL96 m o => Sys2Proof.Machine.execPkmulL96 m o s
  | .pkfma m o => Sys2Proof.Machine.execPkfma m o s
  | .pkfmaL96 m o => Sys2Proof.Machine.execPkfmaL96 m o s
  | .pkmin bf16 neg x o => Sys2Proof.Machine.execPkmin bf16 neg x o s
  | .pkmax bf16 neg x o => Sys2Proof.Machine.execPkmax bf16 neg x o s
  | .cvt m dst src g d a => Sys2Proof.Machine.execCvt m dst src g d a s
  | .cvts bf16 sat hd o => Sys2Proof.Machine.execCvts bf16 sat hd o s
  | .cvt8 o => Sys2Proof.Machine.execCvt8 o s
  | .cvtx code e5m2 hs o => Sys2Proof.Machine.execCvtx code e5m2 hs o s
  | .cvtmx src g d ks a n => Sys2Proof.Machine.execCvtmx src g d ks a n s
  | .pack m o => Sys2Proof.Machine.execPack m o s
  | .unpack b16 z g d a n => Sys2Proof.Machine.execUnpack b16 z g d a n s
  | .lget m seg g d a b pc => Sys2Proof.Machine.execLget m seg g d a b pc s
  | .perm b8 g d a b pc => Sys2Proof.Machine.execPerm b8 g d a b pc s
  | .vote dst na g a => Sys2Proof.Machine.execVote dst na g a s
  | .redux op z g d a => Sys2Proof.Machine.execRedux op z g d a s
  | .scan exc g d a kc => Sys2Proof.Machine.execScan exc g d a kc s
  | .match_ w64 g d a pc => Sys2Proof.Machine.execMatch_ w64 g d a pc s
  | .isect g d kc a b => Sys2Proof.Machine.execIsect g d kc a b s
  | .ld m g d ad => Sys2Proof.Machine.execLd m g d ad s
  | .ldL96 m g d ad => Sys2Proof.Machine.execLdL96 m g d ad s
  | .st m fl g d ad => Sys2Proof.Machine.execSt m fl g d ad s
  | .stL96 m fl g d ad => Sys2Proof.Machine.execStL96 m fl g d ad s
  | .kld m g d a b disp => Sys2Proof.Machine.execKld m g d a b disp s
  | .kldL96 m g d a b lit => Sys2Proof.Machine.execKldL96 m g d a b lit s
  | .ldx m g d ad => Sys2Proof.Machine.execLdx m g d ad s
  | .stx m fl g d ad => Sys2Proof.Machine.execStx m fl g d ad s
  | .xchg m g d ad => Sys2Proof.Machine.execXchg m g d ad s
  | .pref pc space fl g ad => Sys2Proof.Machine.execPref pc space fl g ad s
  | .fence kind scope g => Sys2Proof.Machine.execFence kind scope g s
  | .atom op m g d a b => Sys2Proof.Machine.execAtom op m g d a b s
  | .atomcas m g d a b => Sys2Proof.Machine.execAtomcas m g d a b s
  | .red op m fl g a b => Sys2Proof.Machine.execRed op m fl g a b s
  | .redL96 op m fl g a lit => Sys2Proof.Machine.execRedL96 op m fl g a lit s
  | .enq space scope g pc a d => Sys2Proof.Machine.execEnq space scope g pc a d s
  | .deq space scope g pc a d => Sys2Proof.Machine.execDeq space scope g pc a d s
  | .commit => Sys2Proof.Machine.execCommit s
  | .mark => Sys2Proof.Machine.execMark s
  | .reverse g d a b => Sys2Proof.Machine.execReverse g d a b s
  | .grade g gr => Sys2Proof.Machine.execGrade g gr s
  | .hstash g a => Sys2Proof.Machine.execHstash g a s
  | .hquery q g d a => Sys2Proof.Machine.execHquery q g d a s
  | .mma small set_ g d a b fa fb => Sys2Proof.Machine.execMma small set_ g d a b fa fb s
  | .mmas set_ g d a b fa fb => Sys2Proof.Machine.execMmas set_ g d a b fa fb s
  | .mmax set_ g d a b fa fb => Sys2Proof.Machine.execMmax set_ g d a b fa fb s
  | .accz g d n => Sys2Proof.Machine.execAccz g d n s
  | .accld space g d a b slot => Sys2Proof.Machine.execAccld space g d a b slot s
  | .accst rm space fl g d a b slot => Sys2Proof.Machine.execAccst rm space fl g d a b slot s
  | .accmov g m => Sys2Proof.Machine.execAccmov g m s
  | .satrd g d => Sys2Proof.Machine.execSatrd g d s
  | .satclr g m => Sys2Proof.Machine.execSatclr g m s
  | .cpy m => Sys2Proof.Machine.execCpy m s
  | .cpyL96 m len => Sys2Proof.Machine.execCpyL96 m len s
  | .cpym m km => Sys2Proof.Machine.execCpym m km s
  | .cpyg m km => Sys2Proof.Machine.execCpyg m km s
  | .seal g a b => Sys2Proof.Machine.execSeal g a b s
  | .unseal g a => Sys2Proof.Machine.execUnseal g a s
  | .drop g a => Sys2Proof.Machine.execDrop g a s
  | .tileget m g d a b c => Sys2Proof.Machine.execTileget m g d a b c s
  | .tileput g a => Sys2Proof.Machine.execTileput g a s
  | .surrender o g => Sys2Proof.Machine.execSurrender o g s
  | .spawn bind g d a b n => Sys2Proof.Machine.execSpawn bind g d a b n s
  | .spawnL96 bind g d off b n => Sys2Proof.Machine.execSpawnL96 bind g d off b n s
  | .evnew g d => Sys2Proof.Machine.execEvnew g d s
  | .evfree g d a => Sys2Proof.Machine.execEvfree g d a s
  | .evsig scope g a => Sys2Proof.Machine.execEvsig scope g a s
  | .evwait cnt bind g a b n => Sys2Proof.Machine.execEvwait cnt bind g a b n s
  | .cntdec space g d a => Sys2Proof.Machine.execCntdec space g d a s
  | .bar => Sys2Proof.Machine.execBar s
  | .grow g d n => Sys2Proof.Machine.execGrow g d n s
  | .yield_ => Sys2Proof.Machine.execYield_ s
  | .gridl g d a b => Sys2Proof.Machine.execGridl g d a b s
  | .hintnext => Sys2Proof.Machine.execHintnext s
  | .waitpred => Sys2Proof.Machine.execWaitpred s
  | .send fl g d a b c => Sys2Proof.Machine.execSend fl g d a b c s
  | .cbopen sd g d => Sys2Proof.Machine.execCbopen sd g d s
  | .cbpush sd n g d a b => Sys2Proof.Machine.execCbpush sd n g d a b s
  | .cbpull sd g d b c => Sys2Proof.Machine.execCbpull sd g d b c s
  | .cbdone sd g d a => Sys2Proof.Machine.execCbdone sd g d a s
  | .cbflush sd close g d => Sys2Proof.Machine.execCbflush sd close g d s
  | .trap g d a code => Sys2Proof.Machine.execTrap g d a code s
  | .eret => Sys2Proof.Machine.execEret s
  | .eretSkip => Sys2Proof.Machine.execEretSkip s
  | .emuret => Sys2Proof.Machine.execEmuret s
  | .emuretRetry => Sys2Proof.Machine.execEmuretRetry s
  | .bkpt tag => Sys2Proof.Machine.execBkpt tag s
  | .nop => Sys2Proof.Machine.execNop s
  | .nopW g => Sys2Proof.Machine.execNopW g s
  | .nopL g lit => Sys2Proof.Machine.execNopL g lit s
  | .mfg g d a b => Sys2Proof.Machine.execMfg g d a b s
  | .mtg g d a b => Sys2Proof.Machine.execMtg g d a b s
  | .revg g d a b c => Sys2Proof.Machine.execRevg g d a b c s
  | .launch g d a b c => Sys2Proof.Machine.execLaunch g d a b c s
  | .emulationEntry cause p0 p1 p2 => Sys2Proof.Machine.execEmulationEntry cause p0 p1 p2 s
  | .clauseStart gid => Sys2Proof.Machine.execClauseStart gid s
  | .convComplete gid => Sys2Proof.Machine.execConvComplete gid s
  | .barComplete team => Sys2Proof.Machine.execBarComplete team s
  | .growGrant core quad => Sys2Proof.Machine.execGrowGrant core quad s
  | .growFail core => Sys2Proof.Machine.execGrowFail core s
  | .groupHalt gid => Sys2Proof.Machine.execGroupHalt gid s
  | .loadReturn id => Sys2Proof.Machine.execLoadReturn id s
  | .storePerformed id => Sys2Proof.Machine.execStorePerformed id s
  | .atomicReturn id => Sys2Proof.Machine.execAtomicReturn id s
  | .atomicMovedReissue id => Sys2Proof.Machine.execAtomicMovedReissue id s
  | .prefetchComplete id => Sys2Proof.Machine.execPrefetchComplete id s
  | .wcbDrainTimer core line => Sys2Proof.Machine.execWcbDrainTimer core line s
  | .l1MissFill core line ev => Sys2Proof.Machine.execL1MissFill core line ev s
  | .invalidation core line => Sys2Proof.Machine.execInvalidation core line s
  | .sweepComplete id => Sys2Proof.Machine.execSweepComplete id s
  | .matrixResult core => Sys2Proof.Machine.execMatrixResult core s
  | .copyComplete id => Sys2Proof.Machine.execCopyComplete id s
  | .copyResume id => Sys2Proof.Machine.execCopyResume id s
  | .copyAbort id done cause => Sys2Proof.Machine.execCopyAbort id done cause s
  | .surrenderEntry tile => Sys2Proof.Machine.execSurrenderEntry tile s
  | .surrenderOverrun gid => Sys2Proof.Machine.execSurrenderOverrun gid s
  | .reverseWalkStep gid => Sys2Proof.Machine.execReverseWalkStep gid s
  | .teamResident grid team core => Sys2Proof.Machine.execTeamResident grid team core s
  | .clusterStart grid cluster cores => Sys2Proof.Machine.execClusterStart grid cluster cores s
  | .binTimerExpiry core bin => Sys2Proof.Machine.execBinTimerExpiry core bin s
  | .binLaunch core bin => Sys2Proof.Machine.execBinLaunch core bin s
  | .spawnRateExpiry gid => Sys2Proof.Machine.execSpawnRateExpiry gid s
  | .teamEnd team => Sys2Proof.Machine.execTeamEnd team s
  | .gridEnd grid => Sys2Proof.Machine.execGridEnd grid s
  | .preemptRequest r => Sys2Proof.Machine.execPreemptRequest r s
  | .preemptAck ctx x => Sys2Proof.Machine.execPreemptAck ctx x s
  | .thohelFrameRx f => Sys2Proof.Machine.execThohelFrameRx f s
  | .peerHeldEnqueue idx => Sys2Proof.Machine.execPeerHeldEnqueue idx s
  | .thohelAck dst seq => Sys2Proof.Machine.execThohelAck dst seq s
  | .messageReturn dst seq => Sys2Proof.Machine.execMessageReturn dst seq s
  | .pageServiceDone ctx rec page => Sys2Proof.Machine.execPageServiceDone ctx rec page s
  | .rangeLockReplay ctx rec => Sys2Proof.Machine.execRangeLockReplay ctx rec s
  | .historyRefill gid damaged => Sys2Proof.Machine.execHistoryRefill gid damaged s
  | .rollback gid dmg => Sys2Proof.Machine.execRollback gid dmg s
  | .faultReplay ctx rec => Sys2Proof.Machine.execFaultReplay ctx rec s
  | .faultContinue ctx rec reply => Sys2Proof.Machine.execFaultContinue ctx rec reply s
  | .removeGrid grid status => Sys2Proof.Machine.execRemoveGrid grid status s
  | .removeContext ctx => Sys2Proof.Machine.execRemoveContext ctx s
  | .handlerTableReplace grid emuh surr auxh => Sys2Proof.Machine.execHandlerTableReplace grid emuh surr auxh s
  | .poolExtend ctx pages => Sys2Proof.Machine.execPoolExtend ctx pages s
  | .doorbell ctx ring req => Sys2Proof.Machine.execDoorbell ctx ring req s
  | .contextRestore ctx place => Sys2Proof.Machine.execContextRestore ctx place s
  | .linkRetrain l => Sys2Proof.Machine.execLinkRetrain l s
  | .cxlLinkFail port remap ds => Sys2Proof.Machine.execCxlLinkFail port remap ds s
  | .attach ctx cmd => Sys2Proof.Machine.execAttach ctx cmd s
  | .detach ctx cmd => Sys2Proof.Machine.execDetach ctx cmd s
  | .halt ctx seq loc => Sys2Proof.Machine.execHalt ctx seq loc s
  | .resume ctx seq loc => Sys2Proof.Machine.execResume ctx seq loc s
  | .step ctx seq loc => Sys2Proof.Machine.execStep ctx seq loc s
  | .rewind ctx seq loc target info => Sys2Proof.Machine.execRewind ctx seq loc target info s
  | .read ctx seq loc sel => Sys2Proof.Machine.execRead ctx seq loc sel s
  | .write ctx seq loc sel val => Sys2Proof.Machine.execWrite ctx seq loc sel val s
  | .readmem ctx seq loc addr len space => Sys2Proof.Machine.execReadmem ctx seq loc addr len space s
  | .writemem ctx seq loc addr data mode => Sys2Proof.Machine.execWritemem ctx seq loc addr data mode s
  | .dump ctx cmd buf len => Sys2Proof.Machine.execDump ctx cmd buf len s
  | .evtHead ctx w => Sys2Proof.Machine.execEvtHead ctx w s
  | .debugRevoke ctx => Sys2Proof.Machine.execDebugRevoke ctx s
  | .coreDump ctx how cause => Sys2Proof.Machine.execCoreDump ctx how cause s
  | .dumpWriteFault offset err rewritten linkLost => Sys2Proof.Machine.execDumpWriteFault offset err rewritten linkLost s
  | .mctpDumpRead r => Sys2Proof.Machine.execMctpDumpRead r s
  | .dumpflt => Sys2Proof.Machine.execDumpflt s
  | .registerWrite r val => Sys2Proof.Machine.execRegisterWrite r val s
  | .attestationRequest nonce => Sys2Proof.Machine.execAttestationRequest nonce s
  | .powerLimitSet watts => Sys2Proof.Machine.execPowerLimitSet watts s
  | .fieldHourRollover => Sys2Proof.Machine.execFieldHourRollover s
  | .coreRetire core => Sys2Proof.Machine.execCoreRetire core s
  | .coreDisable core => Sys2Proof.Machine.execCoreDisable core s
  | .thermalThrottle d => Sys2Proof.Machine.execThermalThrottle d s
  | .thermalCritical die => Sys2Proof.Machine.execThermalCritical die s
  | .thermalNormal => Sys2Proof.Machine.execThermalNormal s
  | .deviceReset b => Sys2Proof.Machine.execDeviceReset b s
  | .contextCreation c => Sys2Proof.Machine.execContextCreation c s
  | .pageMigration ctx va newPa => Sys2Proof.Machine.execPageMigration ctx va newPa s

end Sys2Proof.Machine
end

