-- ==== Sys2Proof/Machine/Events.lean ====
section
/-! DEFINITION. Machine/Events.lean: what the device does next: which step from outside it takes (19 R412, 17 R398), which of
the engines' steps are due, which group issues (01 R34, 03 R89), and what that group issues (02 R55, R57). The order is the
model's (DESIGN CHOICE, log 5). -/

namespace Sys2Proof.Machine

/-! Steps from outside. -/

/-- Whether the groups chosen stand where they may be cut (R394, R398). -/
def State.cuttable (s : State) (which : Group → Bool) : Bool := s.groups.all (fun g => !which g.2 || s.cutHere g.1 g.2)

/-- Whether a step from outside that is no command may be taken now. -/
def State.inputReady (s : State) (i : Instr) : Bool :=
  match i with
  | .removeGrid g _ => s.cuttable (fun x => x.grid == g)
  | .removeContext c => !(s.session c && s.cmdBusy c) && s.cuttable (fun x => x.ctx == c)
  | .doorbell c r q => !s.ringLive c r || (s.serve c r q).isSome || (s.servePort c q).isSome
  | .coreDump c how _ => (s.ctxs.get c).elim true (fun x =>
      if how.cut then x.image.isSome || s.cuttable (fun g => g.ctx == c) else x.preempt.isNone)
  | .debugRevoke c => !s.cmdBusy c
  | .poolExtend c n => n != 0 || (s.starved c).all (fun k => s.cuttable (fun g => g.grid == k))
  | .handlerTableReplace k _ _ a => (s.grids.get k).all (fun g => match s.auxRead g.ctx a with
      | .ok _ => true
      | .error e => e == 0x0302#16)
  | .faultContinue c k _ => !(s.faultAt c k).any (fun r => !r.atHeader && r.precise && s.replyBarred c r)
  | .coreRetire c => s.mayLeave c
  | .coreDisable c => s.mayLeave c
  | _ => true

/-- The line in which a step from outside stands: the commands of a session, taken in order (R412); the requests of all
processes, which wait one behind another in Berm's queue (R29). -/
inductive InputLine where
  | session (ctx : Nat)
  | rings
  deriving DecidableEq, Repr

def inputLine (i : Instr) : Option InputLine :=
  match i with
  | .doorbell _ _ _ => some .rings
  | _ => (commandOf i).map (fun c => .session c.1)

/-- Whether a step from outside may be taken now. -/
def State.mayTake (s : State) (i : Instr) : Bool :=
  match commandOf i with
  | some c => !s.rewinding c.1 && !s.cmdWaits i
  | none => s.inputReady i

/-- The first step from outside that may be taken; `held` are the lines whose first step waits. -/
def State.firstInput (s : State) (held : List InputLine) : List Instr → Option Instr
  | [] => none
  | i :: t =>
    match inputLine i with
    | some l =>
      if held.contains l then s.firstInput held t
      else if s.mayTake i then some i
      else s.firstInput (l :: held) t
    | none => if s.mayTake i then some i else s.firstInput held t

/-- The state in which the step is executed: it has left the inputs, but for one that goes on. -/
def State.takeInput (s : State) (i : Instr) : State :=
  if s.cmdKept i then s else { s with inputs := s.inputs.erase i }

/-- Whether a removal, or a cut for a dump, waits for the group: it starts no clause (R398, R419), but goes on in a surrender
routine, which has no pre-emption point before its end (R394), and while a removal waits for a command that is being executed
(R418). -/
def State.doomed (s : State) (g : Group) : Bool :=
  !g.inRoutine && s.inputs.any (fun i => match i with
    | .removeGrid x _ => x == g.grid
    | .removeContext x => x == g.ctx && !(s.session x && s.cmdBusy x)
    | .coreDump x how _ => how.cut && x == g.ctx
    | .poolExtend x n => n == 0 && s.starved x == some g.grid
    | _ => false)

/-- Whether a group may start its next clause. -/
def State.startsClause (s : State) (g : Group) : Bool :=
  s.mayStartClause g && !s.doomed g && (!g.abortDue.isEmpty || g.deadlocked || (s.boundary g).isSome)

/-! Steps of the engines that are due. -/

/-- The steps due of a group. -/
def State.groupDue (s : State) (i : Nat) (g : Group) : Option Instr :=
  if g.hist.spoilt && !g.dir then some (.historyRefill i true)
  else if (s.walkStep i).isSome then some (.reverseWalkStep i)
  else if g.haltReq && g.haltHere then some (.groupHalt i)
  else if g.overBudget && g.runs && !s.memwOpen i && !s.handsOver g then some (.surrenderOverrun i)
  else match g.common with
    | some (.conv _) => some (.convComplete i)
    | _ => none

/-- The steps due of a core: requests for registers, bins. -/
def State.coreDue (s : State) (core : Nat) : Option Instr :=
  match (List.range 4).find? (fun q => (s.growGrantable (4 * core + q)).isSome) with
  | some q => some (.growGrant core q)
  | none =>
    if (s.growVictim core).isSome then some (.growFail core)
    else (s.pickBin core).map (fun b => .binLaunch core b)

/-- The start of a grid's next cluster on the first rectangle that serves, or its reservation (R27, R28). -/
def State.clusterDue (s : State) (grid : Nat) (g : Grid) : Option Instr :=
  match s.nextCluster g with
  | none => none
  | some n =>
    let rs := s.rects grid g
    let start (r : List Nat) : Instr :=
      match r with
      | [c] => .teamResident grid n c
      | _ => .clusterStart grid n r
    match rs.find? (fun r => r.all (fun c => s.teamFits grid g c)) with
    | some r => some (start r)
    | none => if g.reserved.isEmpty then rs.head?.map start else none

def State.gridDue (s : State) (grid : Nat) (g : Grid) : Option Instr :=
  if (s.gridDone grid).isSome then some (.gridEnd grid) else s.clusterDue grid g

def State.ctxDue (s : State) (ctx : Nat) (c : Ctx) : Option Instr :=
  c.preempt.bind (fun acked => (c.acks.find? (fun x => s.mayAck ctx acked x)).map (fun x => .preemptAck ctx x))

def State.teamDue (s : State) (team : Nat) : Option Instr :=
  if s.barReady team then some (.barComplete team)
  else if s.teamOver team then some (.teamEnd team)
  else none

/-- The cores that requests for registers and bins may concern. -/
def State.busyCores (s : State) : List Nat := s.growQ.map (fun r => r.quad / 4) ++ s.cores.map (fun c => c.1)

def State.groupsDue (s : State) : Option Instr := s.groups.findSome? (fun (g : Nat × Group) => s.groupDue g.1 g.2)

/-- Whether a group's next boundary enters another handler first: a foreign clause's emulation, or a history that is full
(R26, R385). -/
def State.trapsFirst (s : State) (g : Group) : Bool :=
  s.startsClause g && (s.boundary g).any (fun b => (b.g.splits.get b.starts).any (fun sp =>
    let hdr := if sp.mid.isSome then none else (s.clauseCheck g.ctx sp.pc).toOption
    hdr.any (fun h => decide (2 ≤ h.1.ver)) || !g.fits (s.boundarySize g b hdr)))

/-- Surrender entries come after the others that are due at the boundary (R26). -/
def State.tilesDue (s : State) : Option Instr :=
  s.tiles.findSome? (fun (t : Nat × TileRec) =>
    (s.surrReady t.1).bind (fun r =>
      if r.2.2.any (fun x => s.trapsFirst x.2) then none else some (Instr.surrenderEntry t.1)))
def State.teamsDue (s : State) : Option Instr := s.teams.findSome? (fun (t : Nat × Team) => s.teamDue t.1)
def State.coresDue (s : State) : Option Instr := s.busyCores.findSome? s.coreDue
def State.ctxsDue (s : State) : Option Instr := s.ctxs.findSome? (fun (c : Nat × Ctx) => s.ctxDue c.1 c.2)
def State.gridsDue (s : State) : Option Instr := s.grids.findSome? (fun (g : Nat × Grid) => s.gridDue g.1 g.2)
def State.peersDue (s : State) : Option Instr :=
  ((List.range s.rxHeld.length).find? (fun i => (s.heldReady i).isSome || (s.heldLost i).isSome || (s.heldPort i).isSome)).map
    (fun i => Instr.peerHeldEnqueue i)

/-- The first step due of the engines. -/
def State.auto (s : State) : Option Instr :=
  s.groupsDue.or (s.tilesDue.or (s.teamsDue.or (s.coresDue.or (s.ctxsDue.or (s.gridsDue.or s.peersDue)))))

/-! The group that issues. -/

/-- Whether the instruction at a split's issue point waits for a result (R86, R163). An emulated one, and a return from a
handler, wait for every result of the group (DEDUCED, log 5). -/
def State.resultsHold (s : State) (i : Nat) (g : Group) (sp : Split) : Bool :=
  match s.instrAt g.ctx sp.pc with
  | .ok x => s.held i g g.cur sp.mask x.uses || (x.leavesHandler && s.resultsDue i)
  | .error _ => s.resultsDue i

/-- Whether a group may issue the next instruction of its clause. -/
def State.midClause (s : State) (i : Nat) (g : Group) : Bool :=
  g.clause.isSome && g.runs && (g.splits.get g.cur).any (fun sp => sp.wait == .ready && !s.resultsHold i g sp)

def State.runnable (s : State) (i : Nat) (g : Group) : Bool := s.midClause i g || s.startsClause g

/-- The resident groups of a quadrant, from its pointer on, in order of slot (R89). -/
def State.inQuad (s : State) (quad : Nat) : List (Nat × Group) :=
  let p := (s.ptrs.get quad).getD 0
  let gs := s.groups.filter (fun x => x.2.quad == quad)
  (List.range 8).filterMap (fun i => gs.find? (fun x => x.2.slot == 8 * (quad % 4) + (p + i) % 8))

/-- A number put into a rising list. -/
def insertNat (n : Nat) : List Nat → List Nat
  | [] => [n]
  | m :: t => if n < m then n :: m :: t else if n = m then m :: t else m :: insertNat n t

/-- The quadrants that hold groups, from the one after the quadrant served last, cyclically (R34). -/
def State.quads (s : State) : List Nat :=
  let qs := s.groups.foldl (fun l x => insertNat x.2.quad l) []
  qs.filter (fun q => decide (s.quad < q)) ++ qs.filter (fun q => decide (q ≤ s.quad))

/-- The resident groups, in the order in which the turn is offered. -/
def State.turns (s : State) : List (Nat × Group) := s.quads.flatMap s.inQuad

/-- The group whose turn it is: the first that may issue. -/
def State.turn (s : State) : Option (Nat × Group) := s.turns.find? (fun x => s.runnable x.1 x.2)

/-- What a group's turn is: the start of a clause, an instruction, or a fault of the code itself. -/
inductive Turn where
  | run (i : Instr)
  | bad (cause : Cause) (at_ : CAddr)
  deriving DecidableEq, Repr

/-- The instruction at the issue point, or the entry to emulation with its raw parcels (R55); code that has lost its
structure since its header was checked faults at the header (R57; DEDUCED, log 37). -/
def State.turnOf (s : State) (i : Nat) (g : Group) : Turn :=
  match g.clause, g.splits.get g.cur with
  | some _, some sp =>
    match s.scan g.ctx 1 sp.pc with
    | .error (c, a) => .bad c a
    | .ok _ =>
      match s.instrAt g.ctx sp.pc with
      | .ok x => .run x
      | .error c => .run (.emulationEntry c (s.rawParcel g.ctx sp.pc) (s.rawParcel g.ctx (sp.pc + 4#57))
          (s.rawParcel g.ctx (sp.pc + 8#57)))
  | _, _ => .run (.clauseStart i)

/-- The fault at a clause's header. -/
def State.turnFault (s : State) (i : Nat) (g : Group) (cause : Cause) (a : CAddr) : State :=
  let hdr := g.clause.elim 0#57 (·.hdr)
  s.toBerm i g g.cur cause ((g.splits.get g.cur).elim 0#32 (·.mask)) hdr (a.setWidth 64) 0#64 0 none

/-- How many clauses the device starts while a timer runs (R206, R346, R350 count cycles; the model has none; DESIGN CHOICE, log
5). -/
def timerClauses : Nat := 64

/-- Whether the oldest timer runs out now, although groups can issue. -/
def State.timerDue (s : State) : Bool := !s.timers.isEmpty && decide (timerClauses ≤ s.ticks)

/-- The state at a group's turn: it is the current one, and a clause it starts counts for the timers. -/
def State.atTurn (s : State) (i : Nat) (g : Group) : State :=
  { s with quad := g.quad, cur := i, ticks := if g.clause.isSome || s.timers.isEmpty then s.ticks else s.ticks + 1 }

/-- The oldest timer leaves the list. -/
def State.popTimer (s : State) (rest : List Instr) : State := { s with timers := rest, ticks := 0 }

/-- Whether a turn changed nothing: the group waits at issue. -/
def waited (i : Nat) (s s' : State) : Bool :=
  match s.groups.get i, s'.groups.get i with
  | some g, some g' =>
    g.clause == g'.clause && g.frames.length == g'.frames.length && g.splits == g'.splits && g.abortDue == g'.abortDue
  | _, _ => false

end Sys2Proof.Machine
end

