-- ==== Sys2Proof/Machine/Load.lean ====
section
/-! DEFINITION. Machine/Load.lean: an instruction's bytes stored where the next step fetches (02_encoding R36, R43), and the
least state in which a group stands at an instruction (DESIGN CHOICE, log 6). -/

namespace Sys2Proof.Machine

/-- The parcels of an instruction of which the low `nbits` are given, as one number of three parcels. -/
def parcelsOf (nbits w : Nat) : Nat := w % 2 ^ (min nbits 96)

/-- The context that an instruction can be loaded into: one writable page of 64 KiB at address 0, and its cores. -/
def loadCtx : Ctx :=
  { pages := [⟨0, .k64, .global 0, true, true, none⟩], cores := [0], rings := [], ringLast := [], spill := 0x10000,
    nextBase := 0x20000, spillAt := 0x20000, frameArea := 0, faults := [], faultCap := 64, faultRing := 0, faultTail := 0,
    faultHold := [], faultLog := [],
    pool := { whole := 0, free0 := 0, size := 0, high := 0, low := 0, depth := false, rateT := 0, ready := [] },
    events := [], taskWaits := [], predWaits := [], poolWaits := [], streams := [],
    dbg := { right := false, attached := false, monitor := 0, cmdHead := 0#32, evtTail := 0#32, evtHead := 0#32, ring := [],
               held := [] },
    preempt := none, save := none, image := none, privNext := 0x100000 }

/-- A launch record of one team of one group with every lane. -/
def loadRecord : LaunchRec :=
  { entry := 0x1000#64, clusters := 1, cw := 1, ch := 1, groups := 1, lanes := 32, regs := 64, accs := 8, carve := 0,
    grade := 2, hbuf := 0, succ := 0, spill := 0, cstore := 0, priv := 0, bint := 256, slots := [], emuh := 0#64,
    surr := 0#64, auxh := 0#64, ltr := 0#64, preset := [], junk := false }

def loadGrid : Grid :=
  { ctx := 0, gridNo := 1, lrec := loadRecord, join := none, pred := none, parent := none, emuh := 0#64, surr := 0#64,
    aux := [], window := false, hinted := [], started := [0], ended := [], reserved := [], ltrHead := 0, killed := none }

def loadTeam : Team :=
  { ctx := 0, grid := 1, teamNo := 0, cluster := 0, core := 0, cs := [], csSize := 0, acc := [], accs := 8, bars := 0,
    routine := none }

/-- The group at the instruction at address 0x1004, the first of a clause of one. -/
def loadGroup : Group :=
  let g := startGroup loadCtx 0 loadGrid 1 2 0 0 loadTeam 0 0x1000#57 fullMask 64 []
  { g with
    splits := [(0, initialSplit 0x1004#57 fullMask)]
    clause := some { hdr := 0x1000#57, fa := none, fb := none, left := 1, yld := false } }

/-- A state in which one group stands at the issue point and nothing else is due. -/
def State.loaded (s : State) : State :=
  { State.reset with
    part := s.part, mem := s.mem, mgmt := { Mgmt.reset with stage := 5 }, ctxs := [(0, loadCtx)], grids := [(1, loadGrid)],
    teams := [(2, loadTeam)], groups := [(3, loadGroup)], cur := 3, nextId := 4 }

/-- Whether the next step is an instruction of the group whose turn it is. -/
def State.atIssue (s : State) : Bool :=
  s.inputs.isEmpty && s.engine.isEmpty && s.auto.isNone && !s.timerDue &&
  match s.turn with
  | some (i, g) => i == s.cur && s.midClause i g
  | none => false

/-- Three parcels stored from a code address of a group's context; a byte that no page holds is not stored. -/
def State.putCode (s : State) (ctx : Nat) (a : CAddr) (x : Nat) : State :=
  (List.range 12).foldl (fun s i =>
    match ((s.ctxs.get ctx).bind (fun c => c.page (a.toNat + i))).bind (fun p => pagePlace p (a.toNat + i)) with
    | some (.glob pa) => { s with mem := s.mem.set pa (BitVec.ofNat 8 (x / 256 ^ i)) }
    | some (.pol k) => { s with polder := s.polder.set k (BitVec.ofNat 8 (x / 256 ^ i)) }
    | _ => s) s

/-- The address at which the group whose turn it is stands. -/
def State.issueAt (s : State) : Nat × CAddr :=
  match s.groups.get s.cur with
  | some g => (g.ctx, (g.splits.get g.cur).elim 0#57 (·.pc))
  | none => (0, 0#57)

def State.placeInstr (s : State) (nbits w : Nat) : State := s.putCode s.issueAt.1 s.issueAt.2 (parcelsOf nbits w)

end Sys2Proof.Machine
end

