-- ==== Sys2Proof/Machine/Step.lean ====
section
/-! DEFINITION. Machine/Step.lean: one step of the device. -/

namespace Sys2Proof.Machine

/-- The oldest timer runs out; with none, the step is what it would be without timers. -/
def stepTimer (s : State) (other : Host.Outcome State Fault Refusal) : Host.Outcome State Fault Refusal :=
  match s.timers with
  | t :: ts => exec t (s.popTimer ts)
  | [] => other

/-- A group's next instruction or clause. -/
def stepGroup (s : State) (i : Nat) (g : Group) : Host.Outcome State Fault Refusal :=
  let c := s.atTurn i g
  match c.turnOf i g with
  | .bad cause a => .next (c.turnFault i g cause a)
  | .run x => exec x c

/-- The turn goes to the first group that may issue and whose instruction does not wait (R89). When every one waits, a timer
that runs takes the step, if any. -/
def stepTurns (s : State) : List (Nat × Group) → Host.Outcome State Fault Refusal
  | [] => stepTimer s (.next s)
  | x :: t =>
    if s.runnable x.1 x.2 then
      match stepGroup s x.1 x.2 with
      | .next s' => if waited x.1 s s' then stepTurns s t else .next s'
      | o => o
    else stepTurns s t

/-- What happens when no step from outside and no engine's work is at hand. -/
def stepIdle (s : State) : Host.Outcome State Fault Refusal :=
  match s.auto with
  | some i => exec i s
  | none =>
    if s.timerDue then stepTimer s (.next s) else stepTurns s s.turns

/-- One step: a step from outside that may be taken, else the engines' oldest work, else a step that is due, else the turn
of a group, else a timer (R34, R89, R412; DESIGN CHOICE, log 5). -/
def step (s : State) : Host.Outcome State Fault Refusal :=
  match s.firstInput [] s.inputs with
  | some i => exec i (s.takeInput i)
  | none =>
    match s.engine with
    | i :: t => exec i { s with engine := t }
    | [] => stepIdle s

/-- The state with an instruction where the next step fetches. A state in which no group stands at its issue point, or in
which another step comes first, is replaced by one in which a group does (DESIGN CHOICE, log 6). -/
def State.withFetchWord (s : State) (nbits w : Nat) : State :=
  (if s.atIssue then s else s.loaded).placeInstr nbits w

end Sys2Proof.Machine
end

