-- ==== Sys2Proof/Safety.lean ====
section
/-! DEFINITION. Safety.lean: the terms in which the statements about the device are made: when an instruction issues, what
it leaves behind when it retires, what an instruction did to the registers of its group, and the invariant of the storage. -/

namespace Sys2Proof.Machine

/-! Issue. -/

/-- An instruction of `len` parcels under guard `gd` issues now, in the surroundings `c`: a group stands at its issue point
and no surrender routine of it is over its budget (R34, R47, R319). -/
def State.Issues (s : State) (len : Nat) (gd : Guard) (c : Iss) : Prop :=
  ∃ g sp cl, s.issuer = some (g, sp, cl) ∧ g.overBudget = false ∧ c = s.iss g sp cl gd len

/-- The on-chip buffer holds `n` more bytes of entries, where an incomplete MEMW entry stops its spill (R195, R234). -/
def Group.Holds (g : Group) (n : Nat) : Prop :=
  g.hist.hold = none ∨ g.hsp.toNat + n ≤ g.hist.winLo + 1024 * g.hbuf

/-- The history stack takes `n` more bytes of entries and the count one more instruction (R221, R237), and so does the
on-chip buffer, or nothing is recorded. -/
def Iss.Room (c : Iss) (n : Nat) : Prop :=
  c.g.recGrade = .off ∨
    (c.g.hsp.toNat + n ≤ c.g.hlim.toNat ∧
      c.g.Holds n ∧ (c.counts = true → (c.g.ic + 1#48 - c.g.cmark).toNat < 2 ^ 32))

/-! Retirement. -/

/-- The clause after one more instruction of it (R38). -/
def Group.nextClause (g : Group) : Option Clause :=
  match g.clause with
  | some cl => if cl.left ≤ 1 then none else some { cl with left := cl.left - 1 }
  | none => none

/-- The registers of a handler's window and the frame's other fields, without the count of instructions (R319, R386). -/
def HFrame.uncounted (f : HFrame) : HFrame := { f with used := 0 }

/-- Group `u` is group `g'` after its instruction has retired in sequence: %ic counts it outside handler mode (R220), the
split stands behind it (R38), the clause has one instruction less, a group with %step set halts (R416), and nothing else of
the group changes but the bookkeeping of its history. -/
structure Iss.Went (c : Iss) (g' u : Group) : Prop where
  count  : u.ic = if c.counts then g'.ic + 1#48 else g'.ic
  pc     : (u.splits.get c.sn).map (·.pc) = (g'.splits.get c.sn).map (fun sp => sp.pc + BitVec.ofNat 57 (4 * c.len))
  splits : ∀ j, j ≠ c.sn → u.splits.get j = g'.splits.get j
  clause : g'.stepBit = false → u.clause = g'.nextClause
  step   : (g'.stepBit && c.counts && !g'.inHandler && !g'.dir) = true → u.halted = true ∧ u.clause = none
  noStep : g'.stepBit = false → u.halted = g'.halted ∧ u.resume = g'.resume
  frames : u.frames.map HFrame.uncounted = g'.frames.map HFrame.uncounted
  rest   : { u with ic := g'.ic, splits := g'.splits, clause := g'.clause, halted := g'.halted, resume := g'.resume,
                    frames := g'.frames, hist := g'.hist, lastSplit := g'.lastSplit } = g'

/-- The device `t` is the device `s'`, which the instruction's own part has left, after the instruction has retired with its
group as `g'`: no other group changes, and with %step clear the contexts keep all their state. -/
structure Iss.Retires (c : Iss) (s' : State) (g' : Group) (t : State) : Prop where
  device : { t with groups := s'.groups, ctxs := s'.ctxs } = s'
  others : ∀ i, i ≠ c.gid → t.groups.get i = s'.groups.get i
  noStep : g'.stepBit = false → t.ctxs = s'.ctxs
  group  : ∃ u, t.groups.get c.gid = some u ∧ c.Went g' u

/-- The same for a transfer: the clause is over (R38, R126), the splits and parked paths of `u` are its own; nothing of the
group changes but them, its count and the bookkeeping of its history. -/
structure Iss.Jumps (c : Iss) (s' : State) (g' u : Group) (t : State) : Prop where
  device : { t with groups := s'.groups, ctxs := s'.ctxs } = s'
  others : ∀ i, i ≠ c.gid → t.groups.get i = s'.groups.get i
  noStep : g'.stepBit = false → t.ctxs = s'.ctxs ∧ u.halted = g'.halted ∧ u.resume = g'.resume
  group  : t.groups.get c.gid = some u
  clause : u.clause = none
  count  : u.ic = if c.counts then g'.ic + 1#48 else g'.ic
  frames : u.frames.map HFrame.uncounted = g'.frames.map HFrame.uncounted
  rest   : { u with ic := g'.ic, splits := g'.splits, parked := g'.parked, clause := g'.clause, halted := g'.halted,
                    resume := g'.resume, frames := g'.frames, hsp := g'.hsp, hist := g'.hist, lastSplit := g'.lastSplit } = g'

/-! What an instruction did to its group's registers. -/

/-- Registers written: lane registers with their values by lane, uniform registers, predicates by lane, and %sat and %satarm
where they change. -/
structure Effect where
  v   : List (Loc × (Nat → Word)) := []
  k   : List (Nat × DWord) := []
  p   : List (Nat × Mask) := []
  sat : Option Byte := none

/-- Group `g'` is `g` with exactly the registers of `e` written in the lanes `m`: a lane register and a predicate take the
value in the lanes of `m` and keep it in the others (R68), a uniform register is written once when `m` is not empty (R96),
k0 and p63 discard writes (R67), every other register keeps its value, and nothing else changes but the history. -/
structure Group.Did (g g' : Group) (m : Mask) (e : Effect) : Prop where
  lanes     : ∀ w ∈ e.v, ∀ l, l < 32 → g'.rdV w.1 l = if m.getLsbD l then w.2 l else g.rdV w.1 l
  lanesKept : ∀ d, (∀ w ∈ e.v, w.1 ≠ d) → ∀ l, l < 32 → g'.rdV d l = g.rdV d l
  unis      : ∀ w ∈ e.k, g'.rdK w.1 = if w.1 = 0 ∨ m = 0#32 then g.rdK w.1 else w.2
  unisKept  : ∀ n, n < 64 → (∀ w ∈ e.k, w.1 ≠ n) → g'.rdK n = g.rdK n
  preds     : ∀ w ∈ e.p, g'.rdP w.1 = if w.1 = 63 then g.rdP 63 else (g.rdP w.1 &&& ~~~m) ||| (w.2 &&& m)
  predsKept : ∀ n, n < 64 → (∀ w ∈ e.p, w.1 ≠ n) → g'.rdP n = g.rdP n
  sat       : g'.sat = e.sat.getD g.sat
  frames    : g'.frames.map (fun f => { f with winV := [], winW := [], winP := [] }) =
                g.frames.map (fun f => { f with winV := [], winW := [], winP := [] })
  rest      : { g' with v := g.v, k := g.k, p := g.p, sat := g.sat, frames := g.frames, hsp := g.hsp, hist := g.hist } = g

/-- The instruction has completed with the effect `e` on its group's registers in the lanes of Exec and on nothing else:
memory, every other register, and every other group are as they were. -/
def Iss.Completes (c : Iss) (e : Effect) (t : State) : Prop :=
  ∃ g', c.g.Did g' c.ex e ∧ c.Retires c.s g' t

/-- `exec` answers a next state for instruction `i`: the one in which it has completed with the effect `e`. -/
def Iss.Ends (c : Iss) (i : Instr) (s : State) (e : Effect) : Prop := ∃ t, exec i s = .next t ∧ c.Completes e t

/-- `exec` answers a next state for instruction `i`: the one in which it has retired with the device as `s'`. -/
def Iss.EndsIn (c : Iss) (i : Instr) (s s' : State) : Prop :=
  ∃ t g', exec i s = .next t ∧ s'.groups.get c.gid = some g' ∧ c.Retires s' g' t

/-- `c1` are the surroundings after the commit that a class S instruction makes first (R24, R251). -/
def Iss.Commits (c c1 : Iss) : Prop :=
  ∃ s1 g1, c.s.commit c.gid = .ok s1 ∧ s1.groups.get c.gid = some g1 ∧ c1 = { c with s := s1, g := g1 }

/-! Transfers (R126, R127). -/

/-- The lanes of the split that a transfer leaves where they are. -/
def Iss.stay (c : Iss) : Mask := c.sp.mask &&& ~~~c.ex
/-- The split numbers that the targets take, in the order of their lowest lanes: the split's own when no lane stays. -/
def Iss.numbers (c : Iss) : List Nat := if c.stay = 0#32 then c.sn :: c.g.freeNumbers else c.g.freeNumbers
/-- The targets with their lanes. -/
def Iss.targets (c : Iss) (t : Nat → CAddr) : List (CAddr × Mask) := groupTargets t (lanesOf c.ex)

/-- A transfer to `t` whose targets are clause headers and find numbers; in handler mode the split does not divide (R386). -/
structure Iss.CanTransfer (c : Iss) (t : Nat → CAddr) : Prop where
  some_   : c.ex ≠ 0#32
  headers : ∀ l ∈ lanesOf c.ex, c.s.isHeader c.g.ctx (t l) = .ok true
  numbers : (c.targets t).length ≤ c.numbers.length
  handler : c.g.inHandler = true → c.stay = 0#32 ∧ (c.targets t).length = 1

/-- `exec` answers the next state in which the lanes of each target stand at it under their number, with the transfer's
address and count as its %cfr (R126), the other lanes behind the instruction, and the registers of `e` written. -/
def Iss.Transfers (c : Iss) (i : Instr) (s : State) (t : Nat → CAddr) (e : Effect) : Prop :=
  ∃ t' g' u, exec i s = .next t' ∧ c.g.Did g' c.ex e ∧ c.Jumps c.s g' u t' ∧ u.parked = c.g.parked ∧
    (∀ (k n : Nat) (x : CAddr × Mask), (c.targets t)[k]? = some x → c.numbers[k]? = some n →
      u.splits.get n = some { pc := x.1, mask := x.2, cfrPc := c.pc, cfrIc := c.g.ic + 1#48, wait := .ready, mid := none }) ∧
    (c.stay ≠ 0#32 → u.splits.get c.sn = some { c.sp with pc := c.nextPc, mask := c.stay, mid := none }) ∧
    (∀ n, n ∉ c.numbers.take (c.targets t).length → n ≠ c.sn → u.splits.get n = c.g.splits.get n)

/-! Effects. -/

/-- One lane register. -/
def laneEffect (d : Loc) (x : Nat → Word) : Effect := { v := [(d, x)] }
/-- The pair with the low half in `d.1` (R97). -/
def pairEffect (d : Loc × Loc) (x : Nat → DWord) : Effect :=
  { v := [(d.1, fun l => (x l).extractLsb' 0 32), (d.2, fun l => (x l).extractLsb' 32 32)] }
def uniEffect (d : KReg) (x : DWord) : Effect := { k := [(d.toNat, x)] }
def predEffect (d : PReg) (x : Mask) : Effect := { p := [(d.toNat, x)] }

/-! Transfers with more paths than numbers (R78, R129). -/

/-- The paths that find no number: the targets beyond the split's own and the free ones, then the lanes that stay (R78). -/
def Iss.overflow (c : Iss) (t : Nat → CAddr) : List (CAddr × Mask) :=
  (c.targets t).drop (c.g.freeNumbers.length + 1) ++ (if c.stay = 0#32 then [] else [(c.nextPc, c.stay)])

/-- `exec` answers the next state of a transfer with more targets than numbers: the first target keeps the split's number,
the next take the free ones, the paths left over stand on the path stack in order, and the registers of `e` are written. -/
def Iss.TransfersParking (c : Iss) (i : Instr) (s : State) (t : Nat → CAddr) (e : Effect) : Prop :=
  ∃ t' g' u, exec i s = .next t' ∧ c.g.Did g' c.ex e ∧ c.Jumps c.s g' u t' ∧
    u.parked = c.g.parked ++ (c.overflow t).map (fun x => ⟨x.1, x.2⟩) ∧
    (∀ (k n : Nat) (x : CAddr × Mask), (c.targets t)[k]? = some x → (c.sn :: c.g.freeNumbers)[k]? = some n →
      u.splits.get n = some { pc := x.1, mask := x.2, cfrPc := c.pc, cfrIc := c.g.ic + 1#48, wait := .ready, mid := none }) ∧
    (∀ n, n ∉ c.sn :: c.g.freeNumbers → u.splits.get n = c.g.splits.get n)

/-- The transfers with their targets and what they write beside: BRA, CALL, BRX, CALLI whose targets declare no more than the
budget, RET (R129). -/
inductive State.TransferForm (s : State) (c : Iss) : Instr → (Nat → CAddr) → Effect → Prop where
  | bra (g : Guard) (off : Word) : s.Issues 3 g c →
      State.TransferForm s c (.bra g off) (fun _ => c.pc + (off.signExtend 64).setWidth 57) {}
  | call (g : Guard) (dv : VReg) (off : Word) (d : Loc × Loc) : s.Issues 3 g c → c.g.locPair dv.toNat = .ok d →
      State.TransferForm s c (.call g dv off) (fun _ => c.pc + (off.signExtend 64).setWidth 57)
        (pairEffect d (fun _ => c.nextPc.setWidth 64))
  | brx (g : Guard) (ts : Src) (v : Vals64) : s.Issues 2 g c → c.g.src64 ts = .ok v →
      State.TransferForm s c (.brx g ts) (fun l => (v l).setWidth 57) {}
  | calli (g : Guard) (dv : VReg) (ts : Src) (v : Vals64) (d : Loc × Loc) : s.Issues 2 g c → c.g.src64 ts = .ok v →
      c.g.locPair dv.toNat = .ok d → c.g.growFail ≠ some c.sn → c.g.grants = [] →
      (∀ l ∈ lanesOf c.ex, 16 * (((v l).extractLsb' 57 4).toNat + 1) ≤ c.g.regs) →
      State.TransferForm s c (.calli g dv ts) (fun l => (v l).setWidth 57) (pairEffect d (fun _ => c.nextPc.setWidth 64))
  | ret (av : VReg) (a : Loc × Loc) : s.Issues 1 always c → c.g.locPair av.toNat = .ok a →
      State.TransferForm s c (.ret av) (fun l => (c.g.pairV a l).setWidth 57) {}

/-- An exact integer result in 32 bits: wrapped, or limited with .sat, which sets %sat[1] when it limits some lane of Exec
(R88, R98, R101). -/
def Iss.intEffect (c : Iss) (d : Loc) (z sat : Bool) (x : Nat → Int) : Effect :=
  { v := [(d, fun l => BitVec.ofInt 32 (if sat then satLimit z 32 (x l) else x l))]
    sat := some (if sat && (lanesOf c.ex).any (fun l => satLimit z 32 (x l) != x l) then c.g.sat ||| 2#8 else c.g.sat) }

/-- The same in the 64 bits of a pair. -/
def Iss.intEffect64 (c : Iss) (d : Loc × Loc) (z sat : Bool) (x : Nat → Int) : Effect :=
  { pairEffect d (fun l => BitVec.ofInt 64 (if sat then satLimit z 64 (x l) else x l)) with
    sat := some (if sat && (lanesOf c.ex).any (fun l => satLimit z 64 (x l) != x l) then c.g.sat ||| 2#8 else c.g.sat) }

/-- Lane writes with a bit of %sat that is set when a value was limited in some lane of Exec (R88, R98). -/
def Iss.satEffect (c : Iss) (bit : Nat) (hit : Nat → Bool) (e : Effect) : Effect :=
  { e with sat := some (if (lanesOf c.ex).any hit then c.g.sat ||| BitVec.twoPow 8 bit else c.g.sat) }

/-! Operands that are readable (R69, R93). -/

def Iss.Reads1 (c : Iss) (o : L1) (d : Loc) (a : Vals) : Prop := c.g.loc o.d.toNat = .ok d ∧ c.g.asrc o.a = .ok a
def Iss.Reads2 (c : Iss) (o : L2) (d : Loc) (a b : Vals) : Prop :=
  c.g.loc o.d.toNat = .ok d ∧ c.g.asrc o.a = .ok a ∧ c.g.src o.b = .ok b
def Iss.Reads2L (c : Iss) (o : L2L) (d : Loc) (a : Vals) : Prop := c.g.loc o.d.toNat = .ok d ∧ c.g.asrc o.a = .ok a
def Iss.Reads2W (c : Iss) (o : L2) (d : Loc × Loc) (a b : Vals64) : Prop :=
  c.g.locPair o.d.toNat = .ok d ∧ c.g.asrc64 o.a = .ok a ∧ c.g.src64 o.b = .ok b
/-- The third source is a lane register (R93). -/
def Iss.Reads3 (c : Iss) (o : L3) (d : Loc) (a b e : Vals) : Prop :=
  c.g.loc o.d.toNat = .ok d ∧ c.g.src o.a = .ok a ∧ c.g.src o.b = .ok b ∧ c.g.src (.v o.c) = .ok e
def Iss.Reads3L (c : Iss) (o : L3L) (d : Loc) (a e : Vals) : Prop :=
  c.g.loc o.d.toNat = .ok d ∧ c.g.src o.a = .ok a ∧ c.g.src (.v o.c) = .ok e

/-! Rounding, said by the codes' order alone (R136, R139). -/

/-- The magnitude of a code without its sign bit, in units of the smallest subnormal; codes above the largest finite value go on as
if the exponent had no end. -/
def Fmt.units (f : Fmt) (c : Nat) : Nat :=
  if c / 2 ^ f.fb = 0 then c else (2 ^ f.fb + c % 2 ^ f.fb) * 2 ^ (c / 2 ^ f.fb - 1)

/-- 1.0 in these units. -/
def Fmt.one (f : Fmt) : Nat := 2 ^ (f.bias + f.fb - 1)

/-- `c` is the last code at or below n / d. -/
def Fmt.Below (f : Fmt) (n d c : Nat) : Prop := f.units c * d ≤ n * f.one ∧ n * f.one < f.units (c + 1) * d

/-- `c` is the first code at or above n / d. -/
def Fmt.Above (f : Fmt) (n d c : Nat) : Prop := n * f.one ≤ f.units c * d ∧ (0 < c → f.units (c - 1) * d < n * f.one)

/-- `c` is the code nearest to n / d, the even one of two. -/
def Fmt.Nearest (f : Fmt) (n d c : Nat) : Prop :=
  let v := 2 * n * f.one
  let hi := (f.units c + f.units (c + 1)) * d
  let lo := (f.units (c - 1) + f.units c) * d
  v ≤ hi ∧ (v = hi → c % 2 = 0) ∧ (0 < c → lo ≤ v ∧ (v = lo → c % 2 = 0))

/-- `c` is the magnitude n / d rounded under a sign in a mode (R139). -/
def Fmt.Rounds (f : Fmt) (rm : Rm) (neg : Bool) (n d c : Nat) : Prop :=
  match rm with
  | .rn => f.Nearest n d c
  | .rz => f.Below n d c
  | .ru => if neg then f.Below n d c else f.Above n d c
  | .rd => if neg then f.Above n d c else f.Below n d c

/-- The code of a value rounded to the magnitude `c`: beyond the largest finite one it is what an overflow gives (R139). -/
def Fmt.finish (f : Fmt) (rm : Rm) (neg : Bool) (c : Nat) : Nat :=
  f.signed neg (if f.maxFin < c then f.overflow rm neg else c)

/-- The integer n / d with a sign, rounded in a mode. -/
def IntRounds (rm : Rm) (neg : Bool) (n d : Nat) (k : Int) : Prop :=
  let v : Int := if neg then -(n : Int) else n
  match rm with
  | .rn => 2 * v ≤ (2 * k + 1) * d ∧ (2 * k - 1) * d ≤ 2 * v ∧ (2 * v = (2 * k + 1) * d ∨ 2 * v = (2 * k - 1) * d → k % 2 = 0)
  | .rz => if neg then v ≤ k * d ∧ (k - 1) * d < v else k * d ≤ v ∧ v < (k + 1) * d
  | .ru => v ≤ k * d ∧ (k - 1) * d < v
  | .rd => k * d ≤ v ∧ v < (k + 1) * d

/-! One block of a matrix element (R288, R289). -/

/-- `r` is the magnitude n / d with its sign, rounded once to FP32, to nearest even, or the largest finite value where n / d exceeds
that, and then it says so (R288). -/
def LimitedF32 (neg : Bool) (n d : Nat) (r : Nat × Bool) : Prop :=
  if fmtF32.units fmtF32.maxFin * d < n * fmtF32.one then r = (fmtF32.signed neg fmtF32.maxFin, true)
  else ∃ c, fmtF32.Nearest n d c ∧ r = (fmtF32.signed neg c, false)

/-- A finite value in units of 2^q. -/
def FVal.scaled (v : FVal) (q : Int) : Int :=
  match v with
  | .fin neg m e => (if neg then -1 else 1) * m * 2 ^ (e - q).toNat
  | _ => 0

/-- The exponent of a finite value, and that of a product's value. -/
def FVal.expo (v : FVal) : Int :=
  match v with
  | .fin _ _ e => e
  | _ => 0

/-- A factor of a product that gives no number: a NaN, or an infinity with a zero. -/
def badProduct (a b : FVal) : Prop :=
  a = .nan ∨ b = .nan ∨ ((∃ n, a = .inf n) ∧ ∃ n e, b = .fin n 0 e) ∨ ((∃ n e, a = .fin n 0 e) ∧ ∃ n, b = .inf n)

def FVal.negative (v : FVal) : Bool :=
  match v with
  | .fin n _ _ => n
  | .inf n => n
  | .nan => false

/-- Steps 1 to 5: the products' sum times the factor, a NaN where there is none (R288, R289). -/
def BlockRounds (ps : List (FVal × FVal)) (factor : Option (Nat × Int)) (r : Nat × Bool) : Prop :=
  let infs (neg : Bool) : Prop := ∃ p ∈ ps, ((∃ n, p.1 = .inf n) ∨ ∃ n, p.2 = .inf n) ∧ (p.1.negative != p.2.negative) = neg
  let none_ : Prop := factor = none ∨ (∃ p ∈ ps, badProduct p.1 p.2) ∨ (infs false ∧ infs true)
  (none_ → r = (0x7FC00000, false)) ∧
  (∀ neg, ¬none_ → infs neg → r = (fmtF32.signed neg 0x7F800000, false)) ∧
  (∀ m e, ¬none_ → (∀ neg, ¬infs neg) → factor = some (m, e) →
    let q := ps.foldl (fun q p => min q (p.1.expo + p.2.expo)) 0
    let z := (ps.map (fun p => (FVal.scaled p.1 p.1.expo * FVal.scaled p.2 p.2.expo) * 2 ^ (p.1.expo + p.2.expo - q).toNat)).sum
    (z = 0 → r = (0, false)) ∧
    (z ≠ 0 → LimitedF32 (decide (z < 0)) (z.natAbs * m * 2 ^ (q + e).toNat) (2 ^ (-(q + e)).toNat) r))

/-- Step 6: the accumulator's code plus the block's (R139, R288, R289). -/
def SumRounds (c s : Nat) (r : Nat × Bool) : Prop :=
  let nan (x : Nat) : Prop := 0x7F800000 < x % 2 ^ 31
  let inf (x : Nat) : Prop := x % 2 ^ 31 = 0x7F800000
  let z (x : Nat) : Int := if 2 ^ 31 ≤ x then -(fmtF32.units (x % 2 ^ 31) : Int) else fmtF32.units x
  (nan c ∨ nan s ∨ (inf c ∧ inf s ∧ c ≠ s) → r = (0x7FC00000, false)) ∧
  (¬nan c → inf s → (inf c → c = s) → r = (s, false)) ∧ (inf c → ¬nan s → ¬inf s → r = (c, false)) ∧
  (c % 2 ^ 31 < 0x7F800000 → s % 2 ^ 31 < 0x7F800000 →
    (z c + z s = 0 → r = (if c = 0x80000000 ∧ s = 0x80000000 then c else 0, false)) ∧
    (z c + z s ≠ 0 → LimitedF32 (decide (z c + z s < 0)) (z c + z s).natAbs fmtF32.one r))

/-- The accumulator `c` after a block, and whether a value was limited. -/
def MatStep (ps : List (FVal × FVal)) (factor : Option (Nat × Int)) (c : Nat) (r : Nat × Bool) : Prop :=
  ∃ s x, BlockRounds ps factor s ∧ SumRounds c s.1 x ∧ r = (x.1, s.2 || x.2)

/-! The storage. -/

/-- Global memory and the polder are in their canonical form, and every write-combining line holds each byte once. -/
def State.storageWf (s : State) : Bool :=
  s.mem.wf && s.polder.wf && s.cores.all (fun c => c.2.wcb.all (fun w => Tbl.wf w.bytes))

end Sys2Proof.Machine
end

