-- ==== Sys2Proof/Certificates/Slice0/Obligations.lean ====
section
/-! DEFINITION. Certificates/Slice0/Obligations.lean: the statements about the device. `Issues`, `Room`, `Ends`, `EndsIn` and
the effects are Safety.lean's: an instruction issues, its history entries fit, `exec` answers the next state in which it has
retired with exactly that effect and nothing else changed. -/

open Sys2Proof Sys2Proof.Machine

/-! Row 0 to 2: integers, bits, predicates. -/

/-- IADD, ISUB, INEG, IABS and their pair forms compute the exact result and wrap it, or limit it with .sat, which sets
%sat[1] (04 R98, R101, R102). -/
def Obligations.IntegerSums : Prop :=
  ∀ (s : State) (c : Iss) (z sat : Bool),
    (∀ (o : L2) (d : Loc) (a b : Vals), s.Issues 2 o.g c → c.Room 160 → c.Reads2 o d a b →
      c.Ends (.iadd z sat o) s (c.intEffect d z sat (fun l => intOf z (a l) + intOf z (b l))) ∧
      c.Ends (.isub z sat o) s (c.intEffect d z sat (fun l => intOf z (a l) - intOf z (b l)))) ∧
    (∀ (o : L2L) (d : Loc) (a : Vals), s.Issues 3 o.g c → c.Room 160 → c.Reads2L o d a →
      c.Ends (.iaddL96 z sat o) s (c.intEffect d z sat (fun l => intOf z (a l) + intOf z o.lit)) ∧
      c.Ends (.isubL96 z sat o) s (c.intEffect d z sat (fun l => intOf z (a l) - intOf z o.lit))) ∧
    (∀ (o : L1) (d : Loc) (a : Vals), s.Issues 2 o.g c → c.Room 160 → c.Reads1 o d a →
      c.Ends (.ineg sat o) s (c.intEffect d false sat (fun l => -(a l).toInt)) ∧
      c.Ends (.iabs sat o) s (c.intEffect d false sat (fun l => ((a l).toInt.natAbs : Int)))) ∧
    (∀ (o : L2) (d : Loc × Loc) (a b : Vals64), s.Issues 2 o.g c → c.Room 304 → c.Reads2W o d a b →
      c.Ends (.iadd64 z sat o) s (c.intEffect64 d z sat (fun l => intOf z (a l) + intOf z (b l))) ∧
      c.Ends (.isub64 z sat o) s (c.intEffect64 d z sat (fun l => intOf z (a l) - intOf z (b l))))

/-- Products, extremes and quotients of two sources (04 R101, R105): the low or the high half of the exact product, the
smaller or larger by signedness, a quotient truncated toward zero with all ones for a zero divisor, a remainder with the
dividend for a zero divisor. The results of three sources, with one third source in a lane register (04 R101, R109, R112).
-/
def Obligations.IntegerResults : Prop :=
  (∀ (s : State) (c : Iss) (z : Bool),
    (∀ (o : L2) (d : Loc) (a b : Vals), s.Issues 2 o.g c → c.Room 144 → c.Reads2 o d a b →
      c.Ends (.imul o) s (laneEffect d (fun l => BitVec.ofInt 32 ((a l).toInt * (b l).toInt))) ∧
      c.Ends (.imulhi z o) s
        (laneEffect d (fun l => BitVec.ofInt 32 ((intOf z (a l) * intOf z (b l)).fdiv (2 ^ 32)))) ∧
      c.Ends (.imin z o) s (laneEffect d (fun l => if intOf z (a l) ≤ intOf z (b l) then a l else b l)) ∧
      c.Ends (.imax z o) s (laneEffect d (fun l => if intOf z (b l) ≤ intOf z (a l) then a l else b l)) ∧
      c.Ends (.idiv z o) s (laneEffect d (fun l =>
        if (b l).toNat = 0 then 0xFFFFFFFF#32 else BitVec.ofInt 32 ((intOf z (a l)).tdiv (intOf z (b l))))) ∧
      c.Ends (.irem z o) s (laneEffect d (fun l =>
        if (b l).toNat = 0 then a l else BitVec.ofInt 32 ((intOf z (a l)).tmod (intOf z (b l)))))) ∧
    (∀ (o : L2L) (d : Loc) (a : Vals), s.Issues 3 o.g c → c.Room 144 → c.Reads2L o d a →
      c.Ends (.imulL96 o) s (laneEffect d (fun l => BitVec.ofInt 32 ((a l).toInt * o.lit.toInt))) ∧
      c.Ends (.iminL96 z o) s (laneEffect d (fun l => if intOf z (a l) ≤ intOf z o.lit then a l else o.lit)) ∧
      c.Ends (.imaxL96 z o) s (laneEffect d (fun l => if intOf z o.lit ≤ intOf z (a l) then a l else o.lit)))) ∧
  (∀ (s : State) (c : Iss) (z : Bool),
    (∀ (o : L3) (d : Loc) (a b e : Vals), s.Issues 2 o.g c → c.Room 144 → c.Reads3 o d a b e →
      c.Ends (.iadd3 o) s (laneEffect d (fun l => BitVec.ofInt 32 ((a l).toInt + (b l).toInt + (e l).toInt))) ∧
      c.Ends (.imad o) s (laneEffect d (fun l => BitVec.ofInt 32 ((a l).toInt * (b l).toInt + (e l).toInt))) ∧
      c.Ends (.imadhi z o) s
        (laneEffect d (fun l => BitVec.ofInt 32 ((intOf z (a l) * intOf z (b l)).fdiv (2 ^ 32)) + e l)) ∧
      c.Ends (.bfi o) s (laneEffect d (fun l => maskOf (fun i =>
        if ((e l).extractLsb' 0 8).toNat ≤ i ∧
            i < ((e l).extractLsb' 0 8).toNat + min ((e l).extractLsb' 8 8).toNat 32
        then (a l).getLsbD (i - ((e l).extractLsb' 0 8).toNat) else (b l).getLsbD i)))) ∧
    (∀ (o : L3L) (d : Loc) (a e : Vals), s.Issues 3 o.g c → c.Room 144 → c.Reads3L o d a e →
      c.Ends (.imadL96 o) s (laneEffect d (fun l => BitVec.ofInt 32 ((a l).toInt * o.lit.toInt + (e l).toInt)))) ∧
    (∀ (g : Guard) (dv : VReg) (sa sb : Src) (cv : VReg) (t : Byte) (d : Loc) (a b e : Vals), s.Issues 3 g c →
      c.Room 144 → c.g.loc dv.toNat = .ok d → c.g.src sa = .ok a → c.g.src sb = .ok b → c.g.src (.v cv) = .ok e →
      c.Ends (.tril g dv sa sb cv t) s (laneEffect d (fun l => maskOf (fun i =>
        t.getLsbD (((a l).getLsbD i).toNat + 2 * ((b l).getLsbD i).toNat + 4 * ((e l).getLsbD i).toNat))))))

/-- Bitwise logic of two sources, complements and bit counts (04 R108, R109, R112). -/
def Obligations.BitLogic : Prop :=
  ∀ (s : State) (c : Iss),
    (∀ (o : L2) (d : Loc) (a b : Vals), s.Issues 2 o.g c → c.Room 144 → c.Reads2 o d a b →
      c.Ends (.and o) s (laneEffect d (fun l => maskOf (fun i => (a l).getLsbD i && (b l).getLsbD i))) ∧
      c.Ends (.or o) s (laneEffect d (fun l => maskOf (fun i => (a l).getLsbD i || (b l).getLsbD i))) ∧
      c.Ends (.xor o) s (laneEffect d (fun l => maskOf (fun i => (a l).getLsbD i ^^ (b l).getLsbD i))) ∧
      (∀ sx, c.Ends (.bfe sx o) s (laneEffect d (fun l => bfeW sx (a l) (b l))))) ∧
    (∀ (o : L2L) (d : Loc) (a : Vals), s.Issues 3 o.g c → c.Room 144 → c.Reads2L o d a →
      c.Ends (.andL96 o) s (laneEffect d (fun l => maskOf (fun i => (a l).getLsbD i && o.lit.getLsbD i))) ∧
      c.Ends (.orL96 o) s (laneEffect d (fun l => maskOf (fun i => (a l).getLsbD i || o.lit.getLsbD i))) ∧
      c.Ends (.xorL96 o) s (laneEffect d (fun l => maskOf (fun i => (a l).getLsbD i ^^ o.lit.getLsbD i)))) ∧
    (∀ (o : L1) (d : Loc) (a : Vals), s.Issues 2 o.g c → c.Room 144 → c.Reads1 o d a →
      c.Ends (.notW64 o) s (laneEffect d (fun l => maskOf (fun i => !(a l).getLsbD i))) ∧
      c.Ends (.popc o) s (laneEffect d (fun l => BitVec.ofNat 32 (lanesOf (a l)).length)) ∧
      c.Ends (.clz o) s (laneEffect d (fun l =>
        BitVec.ofNat 32 (((List.range 32).find? (fun i => (a l).getLsbD (31 - i))).getD 32))) ∧
      c.Ends (.brev o) s (laneEffect d (fun l => maskOf (fun i => (a l).getLsbD (31 - i)))))

/-- The 32-bit in-place forms (04 R106, R112, R119): D is also a source, p63 guards them; SWAP exchanges two registers.
Moves between lane registers, from a literal and from a uniform register (04 R119). -/
def Obligations.MovesInPlace : Prop :=
  (∀ (s : State) (c : Iss) (dv av : VReg) (d a : Loc), s.Issues 1 always c → c.Room 288 → c.g.loc dv.toNat = .ok d →
    c.g.loc av.toNat = .ok a →
    c.Ends (.addS dv av) s (laneEffect d (fun l => c.g.rdV d l + c.g.rdV a l)) ∧
    c.Ends (.subS dv av) s (laneEffect d (fun l => c.g.rdV d l - c.g.rdV a l)) ∧
    c.Ends (.xorS dv av) s (laneEffect d (fun l => c.g.rdV d l ^^^ c.g.rdV a l)) ∧
    c.Ends (.rotlS dv av) s (laneEffect d (fun l => (c.g.rdV d l).rotateLeft ((c.g.rdV a l).toNat % 32))) ∧
    c.Ends (.negS dv) s (laneEffect d (fun l => -(c.g.rdV d l))) ∧
    c.Ends (.not dv av) s (laneEffect d (fun l => ~~~(c.g.rdV a l))) ∧
    c.Ends (.mov dv av) s (laneEffect d (c.g.rdV a)) ∧
    c.Ends (.swap dv av) s { v := [(d, c.g.rdV a), (a, c.g.rdV d)] }) ∧
  (∀ (s : State) (c : Iss),
    (∀ (g : Guard) (dv : VReg) (la : LSrc) (d a : Loc), s.Issues 2 g c → c.Room 288 → c.g.loc dv.toNat = .ok d →
      c.g.lloc la = .ok a →
      c.Ends (.movW64 g dv la) s (laneEffect d (c.g.rdV a)) ∧
      c.Ends (.swapW64 g dv la) s { v := [(d, c.g.rdV a), (a, c.g.rdV d)] }) ∧
    (∀ (g : Guard) (dv : VReg) (lit : Word) (d : Loc), s.Issues 3 g c → c.Room 144 → c.g.loc dv.toNat = .ok d →
      c.Ends (.movi g dv lit) s (laneEffect d (fun _ => lit))) ∧
    (∀ (hi : Bool) (g : Guard) (dv : VReg) (k : KReg) (d : Loc), s.Issues 2 g c → c.Room 144 → c.g.loc dv.toNat = .ok d →
      c.Ends (.movk hi g dv k) s
        (laneEffect d (fun _ => (c.g.rdK k.toNat).extractLsb' (if hi then 32 else 0) 32))))

/-- Shifts and rotations by a register or by .i: an amount of 32 or more gives 0, or the sign for SAR; a rotation takes the
amount modulo 32; SHF shifts the pair hi:lo by at most 32 (04 R107, R108). -/
def Obligations.Shifts : Prop :=
  ∀ (s : State) (c : Iss),
    (∀ (o : L2) (d : Loc) (a b : Vals), s.Issues 2 o.g c → c.Room 144 → c.Reads2 o d a b →
      c.Ends (.shl (.src o)) s (laneEffect d (fun l => if 32 ≤ (b l).toNat then 0#32 else a l <<< (b l).toNat)) ∧
      c.Ends (.shr (.src o)) s (laneEffect d (fun l => if 32 ≤ (b l).toNat then 0#32 else a l >>> (b l).toNat)) ∧
      c.Ends (.sar (.src o)) s (laneEffect d (fun l => (a l).sshiftRight (min (b l).toNat 31))) ∧
      c.Ends (.rotl (.src o)) s (laneEffect d (fun l => (a l).rotateLeft ((b l).toNat % 32))) ∧
      c.Ends (.rotr (.src o)) s (laneEffect d (fun l => (a l).rotateRight ((b l).toNat % 32)))) ∧
    (∀ (g : Guard) (dv : VReg) (sa : Src) (n : BitVec 6) (d : Loc) (a : Vals), s.Issues 2 g c → c.Room 144 →
      c.g.loc dv.toNat = .ok d → c.g.src sa = .ok a →
      c.Ends (.shl (.imm g dv sa n)) s (laneEffect d (fun l => if 32 ≤ n.toNat then 0#32 else a l <<< n.toNat)) ∧
      c.Ends (.shr (.imm g dv sa n)) s (laneEffect d (fun l => if 32 ≤ n.toNat then 0#32 else a l >>> n.toNat)) ∧
      c.Ends (.sar (.imm g dv sa n)) s (laneEffect d (fun l => (a l).sshiftRight (min n.toNat 31))) ∧
      c.Ends (.rotl (.imm g dv sa n)) s (laneEffect d (fun l => (a l).rotateLeft (n.toNat % 32))) ∧
      c.Ends (.rotr (.imm g dv sa n)) s (laneEffect d (fun l => (a l).rotateRight (n.toNat % 32)))) ∧
    (∀ (r : Bool) (g : Guard) (dv : VReg) (sh sl : Src) (amt : ShfAmt) (d : Loc) (hi lo : Vals) (n : Nat → Nat),
      s.Issues 2 g c → c.Room 144 → c.g.loc dv.toNat = .ok d → c.g.src sh = .ok hi → c.g.src sl = .ok lo →
      (match amt with
        | .imm k => n = (fun _ => k.toNat)
        | .v k => ∃ v, c.g.src (.v k) = .ok v ∧ n = (fun l => (v l).toNat)) →
      c.Ends (.shf r g dv sh sl amt) s (laneEffect d (fun l =>
        if r then ((hi l ++ lo l : BitVec 64) >>> min (n l) 32).setWidth 32
        else ((hi l ++ lo l : BitVec 64) <<< min (n l) 32).extractLsb' 32 32)))

/-- Predicate logic, in the lanes of Exec; PTOV gathers predicates into bits, VTOP spreads bits over predicates (04 R113,
R114). Comparisons set a predicate from the comparison and the combining predicate; SEL chooses by one (04 R117). -/
def Obligations.Predicates : Prop :=
  (∀ (s : State) (c : Iss),
    (∀ (na nb : Bool) (o : P2), s.Issues 2 o.g c → c.Room 16 →
      c.Ends (.pand na nb o) s (predEffect o.d (c.g.predN na o.a &&& c.g.predN nb o.b)) ∧
      c.Ends (.por na nb o) s (predEffect o.d (c.g.predN na o.a ||| c.g.predN nb o.b)) ∧
      c.Ends (.pxor na nb o) s (predEffect o.d (c.g.predN na o.a ^^^ c.g.predN nb o.b))) ∧
    (∀ (g : Guard) (d a : PReg), s.Issues 2 g c → c.Room 16 →
      c.Ends (.pnot g d a) s (predEffect d (~~~(c.g.rdP a.toNat)))) ∧
    (∀ (g : Guard) (dv : VReg) (a : PReg) (n : BitVec 8) (d : Loc), s.Issues 2 g c → c.Room 144 → n.toNat ≤ 32 →
      c.g.loc dv.toNat = .ok d →
      c.Ends (.ptov g dv a n) s (laneEffect d (fun l => maskOf (fun i =>
        decide (i < n.toNat) && (c.g.rdP (a.toNat + i)).getLsbD l)))) ∧
    (∀ (g : Guard) (d : PReg) (sa : Src) (n : BitVec 8) (a : Vals), s.Issues 2 g c → c.Room 512 →
      d.toNat + n.toNat ≤ 64 → n.toNat ≤ 32 → c.g.src sa = .ok a →
      c.Ends (.vtop g d sa n) s
        { p := (List.range n.toNat).map (fun i => (d.toNat + i, maskOf (fun l => (a l).getLsbD i))) })) ∧
  (∀ (s : State) (c : Iss),
    (∀ (cc : Cc) (z : Bool) (bop : Bop) (o : SetP) (a b : Vals), s.Issues 2 o.g c → c.Room 16 → c.g.src o.a = .ok a →
      c.g.src o.b = .ok b →
      c.Ends (.isetp cc z bop o) s (predEffect o.d
        (bopMask bop (maskOf (fun l => ccHolds cc (intOf z (a l)) (intOf z (b l)))) (c.g.rdP o.c.toNat)))) ∧
    (∀ (cc : Cc) (z : Bool) (bop : Bop) (o : SetPL) (a : Vals), s.Issues 3 o.g c → c.Room 16 → c.g.src o.a = .ok a →
      c.Ends (.isetpL96 cc z bop o) s (predEffect o.d
        (bopMask bop (maskOf (fun l => ccHolds cc (intOf z (a l)) (intOf z o.lit))) (c.g.rdP o.c.toNat)))) ∧
    (∀ (cc : FCc) (u : Bool) (bop : Bop) (o : SetP) (a b : Vals), s.Issues 2 o.g c → c.Room 16 → c.g.src o.a = .ok a →
      c.g.src o.b = .ok b →
      c.Ends (.fsetp cc u bop o) s (predEffect o.d
        (bopMask bop (maskOf (fun l => fccHolds cc u (a l) (b l))) (c.g.rdP o.c.toNat)))) ∧
    (∀ (cc : FCc) (u : Bool) (bop : Bop) (o : SetPL) (a : Vals), s.Issues 3 o.g c → c.Room 16 → c.g.src o.a = .ok a →
      c.Ends (.fsetpL96 cc u bop o) s (predEffect o.d
        (bopMask bop (maskOf (fun l => fccHolds cc u (a l) o.lit)) (c.g.rdP o.c.toNat)))) ∧
    (∀ (cc : Cc) (z : Bool) (bop : Bop) (g : Guard) (d : PReg) (a b : KReg) (e : PReg), s.Issues 2 g c → c.Room 16 →
      c.Ends (.ksetp cc z bop g d a b e) s (predEffect d (bopMask bop
        (if ccHolds cc (intOf z (c.g.rdK a.toNat)) (intOf z (c.g.rdK b.toNat)) then fullMask else 0#32)
        (c.g.rdP e.toNat)))) ∧
    (∀ (cc : Cc) (z : Bool) (bop : Bop) (g : Guard) (d : PReg) (a : KReg) (lit : Word) (e : PReg), s.Issues 3 g c →
      c.Room 16 →
      c.Ends (.ksetpL96 cc z bop g d a lit e) s (predEffect d (bopMask bop
        (if ccHolds cc (intOf z (c.g.rdK a.toNat)) (intOf z (lit.signExtend 64)) then fullMask else 0#32)
        (c.g.rdP e.toNat)))) ∧
    (∀ (nc : Bool) (g : Guard) (dv : VReg) (sa sb : Src) (e : PReg) (d : Loc) (a b : Vals), s.Issues 2 g c → c.Room 144 →
      c.g.loc dv.toNat = .ok d → c.g.src sa = .ok a → c.g.src sb = .ok b →
      c.Ends (.sel nc g dv sa sb e) s
        (laneEffect d (fun l => if (c.g.rdP e.toNat).getLsbD l != nc then a l else b l))))

/-- The uniform registers' moves, arithmetic, logic and shifts; a literal is sign-extended; k0 reads zero and discards
writes (00 R8; 03 R67; 04 R122, R123). -/
def Obligations.UniformArithmetic : Prop :=
  ∀ (s : State) (c : Iss),
    (∀ n : Nat, s.Issues n always c → c.g.rdK 0 = 0#64) ∧
    (∀ (o : K2), s.Issues 2 o.g c → c.Room 24 →
      c.Ends (.kadd o) s (uniEffect o.d (c.g.rdK o.a.toNat + c.g.rdK o.b.toNat)) ∧
      c.Ends (.ksub o) s (uniEffect o.d (c.g.rdK o.a.toNat - c.g.rdK o.b.toNat)) ∧
      c.Ends (.kmul o) s (uniEffect o.d (c.g.rdK o.a.toNat * c.g.rdK o.b.toNat)) ∧
      c.Ends (.kand o) s (uniEffect o.d (c.g.rdK o.a.toNat &&& c.g.rdK o.b.toNat)) ∧
      c.Ends (.kor o) s (uniEffect o.d (c.g.rdK o.a.toNat ||| c.g.rdK o.b.toNat)) ∧
      c.Ends (.kxor o) s (uniEffect o.d (c.g.rdK o.a.toNat ^^^ c.g.rdK o.b.toNat))) ∧
    (∀ (o : K2L), s.Issues 3 o.g c → c.Room 24 →
      c.Ends (.kaddL96 o) s (uniEffect o.d (c.g.rdK o.a.toNat + o.lit.signExtend 64)) ∧
      c.Ends (.ksubL96 o) s (uniEffect o.d (c.g.rdK o.a.toNat - o.lit.signExtend 64)) ∧
      c.Ends (.kmulL96 o) s (uniEffect o.d (c.g.rdK o.a.toNat * o.lit.signExtend 64)) ∧
      c.Ends (.kandL96 o) s (uniEffect o.d (c.g.rdK o.a.toNat &&& o.lit.signExtend 64)) ∧
      c.Ends (.korL96 o) s (uniEffect o.d (c.g.rdK o.a.toNat ||| o.lit.signExtend 64)) ∧
      c.Ends (.kxorL96 o) s (uniEffect o.d (c.g.rdK o.a.toNat ^^^ o.lit.signExtend 64))) ∧
    (∀ (g : Guard) (d a : KReg), s.Issues 2 g c → c.Room 24 →
      c.Ends (.kmov g d a) s (uniEffect d (c.g.rdK a.toNat)) ∧
      (∀ b : KReg,
        c.Ends (.kshl g d a (.k b)) s (uniEffect d (if 64 ≤ (c.g.rdK b.toNat).toNat then 0#64
          else c.g.rdK a.toNat <<< (c.g.rdK b.toNat).toNat)) ∧
        c.Ends (.kshr g d a (.k b)) s (uniEffect d (if 64 ≤ (c.g.rdK b.toNat).toNat then 0#64
          else c.g.rdK a.toNat >>> (c.g.rdK b.toNat).toNat))) ∧
      (∀ n : BitVec 6,
        c.Ends (.kshl g d a (.imm n)) s (uniEffect d (c.g.rdK a.toNat <<< n.toNat)) ∧
        c.Ends (.kshr g d a (.imm n)) s (uniEffect d (c.g.rdK a.toNat >>> n.toNat)))) ∧
    (∀ (g : Guard) (d : KReg) (m : KmoviMode) (lit : Word), s.Issues 3 g c → c.Room 24 →
      c.Ends (.kmovi g d m lit) s (uniEffect d (match m with
        | .sx => lit.signExtend 64
        | .zx => lit.setWidth 64
        | .hi => lit ++ (c.g.rdK d.toNat).extractLsb' 0 32)))

/-- Reading special registers: MFS writes the low or the high half to lanes or the whole to a uniform register, and the last
transfer to two; RDCF reads the last transfer (04 R120, R132). SATRD reads %sat; SATCLR clears the bits of its mask (11
R304, R305). MTS: %rvinfo and %satarm take the uniform register in every mode; the last transfer and the history stack's
registers in system mode, %step in monitor mode too, each after a commit; any other write raises 0x0901, whatever Exec is
(04 R121). -/
def Obligations.SpecialRegisters : Prop :=
  (∀ (s : State) (c : Iss),
    (∀ (g : Guard) (dv : VReg) (hi : Bool) (sr : BitVec 8) (d : Loc), s.Issues 2 g c → c.Room 144 →
      c.g.loc dv.toNat = .ok d →
      c.Ends (.mfs g (.lane dv hi) sr) s (laneEffect d (fun l =>
        ((c.g.special c.sn c.sp l sr).getD 0#64).extractLsb' (if hi then 32 else 0) 32))) ∧
    (∀ (g : Guard) (d : KReg) (sr : BitVec 8), s.Issues 2 g c → c.Room 24 → sr ≠ 0x01#8 →
      c.Ends (.mfs g (.uni d) sr) s (uniEffect d ((c.g.special c.sn c.sp 0 sr).getD 0#64))) ∧
    (∀ (g : Guard) (d : KReg), s.Issues 2 g c → c.Room 48 →
      c.Ends (.mfs g (.uni d) 0x01#8) s
        { k := [(d.toNat, c.sp.cfrPc.setWidth 64), (d.toNat + 1, c.sp.cfrIc.setWidth 64)] } ∧
      c.Ends (.rdcf g d) s { k := [(d.toNat, c.sp.cfrPc.setWidth 64), (d.toNat + 1, c.sp.cfrIc.setWidth 64)] })) ∧
  (∀ (s : State) (c : Iss) (g : Guard), s.Issues 2 g c → c.Room 24 →
    (∀ d : KReg, c.Ends (.satrd g d) s (uniEffect d (c.g.sat.setWidth 64))) ∧
    (∀ m : SatMask, c.ex ≠ 0#32 → c.Ends (.satclr g m) s { sat := some (c.g.sat &&& ~~~(match m with
      | .k a => (c.g.rdK a.toNat).setWidth 8
      | .imm x => x)) })) ∧
  (∀ (s : State) (c : Iss) (g : Guard) (a : KReg), s.Issues 2 g c →
    let x := c.g.rdK a.toNat
    (c.Room 0 → c.EndsIn (.mts g 0x08#8 a) s
      (c.s.setGroup c.gid (if c.ex = 0#32 then c.g else { c.g with rvinfo := x }))) ∧
    (c.Room 32 → ∃ t u, exec (.mts g 0x11#8 a) s = .next t ∧ t.groups.get c.gid = some u ∧ t.mem = s.mem ∧
      u.satarm = (if c.ex = 0#32 then c.g.satarm else x.setWidth 8) ∧ u.sat = c.g.sat ∧ u.v = c.g.v ∧ u.k = c.g.k ∧
      u.p = c.g.p) ∧
    (∀ c1, c.ex ≠ 0#32 → c.Commits c1 →
      (c.g.mode = .system →
        c.EndsIn (.mts g 0x01#8 a) s (c1.s.setGroup c.gid (c1.g.setSplit c.sn
          { c.sp with cfrPc := x.setWidth 57, cfrIc := (c1.g.rdK (a.toNat + 1)).setWidth 48 })) ∧
        c.EndsIn (.mts g 0x04#8 a) s (c1.s.setGroup c.gid { c1.g with hsp := x.setWidth 57 }) ∧
        c.EndsIn (.mts g 0x05#8 a) s (c1.s.setGroup c.gid { c1.g with hbase := x.setWidth 57 }) ∧
        c.EndsIn (.mts g 0x06#8 a) s (c1.s.setGroup c.gid { c1.g with hlim := x.setWidth 57 })) ∧
      (c.g.mode ≠ .user →
        c.EndsIn (.mts g 0x40#8 a) s (c1.s.setGroup c.gid { c1.g with stepBit := x.getLsbD 0 }))) ∧
    (∀ sr : BitVec 8, sr ≠ 0x08#8 → sr ≠ 0x11#8 →
      c.g.mode = .user ∨ (c.g.mode = .monitor ∧ sr ≠ 0x40#8) ∨ sr ∉ [0x01#8, 0x04#8, 0x05#8, 0x06#8, 0x40#8] →
      exec (.mts g sr a) s = .next (c.fault 0x0901#16 c.ex 0#64 0#64)))

/-! Rows 4 to 7: floating point, conversions, cross-lane. -/

/-- FP32 arithmetic in each lane: the exact sum or product of the operands, A after .abs and .neg, rounded once (05 R139,
R140, R141). Packed half precision: each half of the result is the sum, product, fused result or extreme of the halves of
the sources, B's halves exchanged with .x, rounded once (05 R146, R147). -/
def Obligations.FloatSums : Prop :=
  (∀ (s : State) (c : Iss) (m : FMod),
    let r (v : FVal) : Word := w32 (fmtF32.ofVal m.rm v)
    let A (x : Word) : FVal := FVal.modA m.abs m.neg (f32 x)
    (∀ (o : L2) (d : Loc) (a b : Vals), s.Issues 2 o.g c → c.Room 144 → c.Reads2 o d a b →
      c.Ends (.fadd m o) s (laneEffect d (fun l => r (FVal.add m.rm (A (a l)) (f32 (b l))))) ∧
      c.Ends (.fsub m o) s (laneEffect d (fun l => r (FVal.add m.rm (A (a l)) (f32 (b l)).neg))) ∧
      c.Ends (.fmul m o) s (laneEffect d (fun l => r (FVal.mul (A (a l)) (f32 (b l)))))) ∧
    (∀ (o : L2L) (d : Loc) (a : Vals), s.Issues 3 o.g c → c.Room 144 → c.Reads2L o d a →
      c.Ends (.faddL96 m o) s (laneEffect d (fun l => r (FVal.add m.rm (A (a l)) (f32 o.lit)))) ∧
      c.Ends (.fsubL96 m o) s (laneEffect d (fun l => r (FVal.add m.rm (A (a l)) (f32 o.lit).neg))) ∧
      c.Ends (.fmulL96 m o) s (laneEffect d (fun l => r (FVal.mul (A (a l)) (f32 o.lit))))) ∧
    (∀ (o : L3) (d : Loc) (a b e : Vals), s.Issues 2 o.g c → c.Room 144 → c.Reads3 o d a b e →
      c.Ends (.ffma m o) s (laneEffect d (fun l => r (FVal.add m.rm (FVal.mul (A (a l)) (f32 (b l))) (f32 (e l)))))) ∧
    (∀ (o : L3L) (d : Loc) (a e : Vals), s.Issues 3 o.g c → c.Room 144 → c.Reads3L o d a e →
      c.Ends (.ffmaL96 m o) s (laneEffect d (fun l => r (FVal.add m.rm (FVal.mul (A (a l)) (f32 o.lit)) (f32 (e l))))))) ∧
  (∀ (s : State) (c : Iss),
    (∀ (m : PkMod),
      let f := pkFmt m.bf16
      let A (x : Word) (i : Bool) : FVal := FVal.modA false m.neg (f.val (halfOf i x))
      let B (x : Word) (i : Bool) : FVal := f.val (halfOf (i != m.x) x)
      let r (v : Bool → FVal) : Word := pkWord (fun i => f.ofVal m.rm (v i))
      (∀ (o : L2) (d : Loc) (a b : Vals), s.Issues 2 o.g c → c.Room 144 → c.Reads2 o d a b →
        c.Ends (.pkadd m o) s (laneEffect d (fun l => r (fun i => FVal.add m.rm (A (a l) i) (B (b l) i)))) ∧
        c.Ends (.pkmul m o) s (laneEffect d (fun l => r (fun i => FVal.mul (A (a l) i) (B (b l) i))))) ∧
      (∀ (o : L2L) (d : Loc) (a : Vals), s.Issues 3 o.g c → c.Room 144 → c.Reads2L o d a →
        c.Ends (.pkaddL96 m o) s (laneEffect d (fun l => r (fun i => FVal.add m.rm (A (a l) i) (B o.lit i)))) ∧
        c.Ends (.pkmulL96 m o) s (laneEffect d (fun l => r (fun i => FVal.mul (A (a l) i) (B o.lit i))))) ∧
      (∀ (o : L3) (d : Loc) (a b e : Vals), s.Issues 2 o.g c → c.Room 144 → c.Reads3 o d a b e →
        c.Ends (.pkfma m o) s (laneEffect d (fun l =>
          r (fun i => FVal.add m.rm (FVal.mul (A (a l) i) (B (b l) i)) (f.val (halfOf i (e l))))))) ∧
      (∀ (o : L3L) (d : Loc) (a e : Vals), s.Issues 3 o.g c → c.Room 144 → c.Reads3L o d a e →
        c.Ends (.pkfmaL96 m o) s (laneEffect d (fun l =>
          r (fun i => FVal.add m.rm (FVal.mul (A (a l) i) (B o.lit i)) (f.val (halfOf i (e l)))))))) ∧
    (∀ (bf16 neg x : Bool) (o : L2) (d : Loc) (a b : Vals), s.Issues 2 o.g c → c.Room 144 → c.Reads2 o d a b →
      c.Ends (.pkmin bf16 neg x o) s (laneEffect d (fun l => pkWord (fun i => (pkFmt bf16).minMax false
        (modBits (pkFmt bf16) false neg (halfOf i (a l))) (halfOf (i != x) (b l))))) ∧
      c.Ends (.pkmax bf16 neg x o) s (laneEffect d (fun l => pkWord (fun i => (pkFmt bf16).minMax true
        (modBits (pkFmt bf16) false neg (halfOf i (a l))) (halfOf (i != x) (b l)))))))

/-- Minimum, maximum, classification and the special functions of one lane (05 R142 to R145). What rounding is: the code whose
value is the nearest in .rn, ties to even, and the neighbour on the mode's side in the others (05 R139). FMIN and FMAX order the
codes as the values, −0 below +0; FCLASS by the code's range; FRCP and FSQRT are correctly rounded; FRSQ gives one of the two
codes that bracket 1/√x; FEXP2 is exact at the integers, FLOG2 at the powers of 2, FSIN and FCOS at the multiples of one half
(05 R145); elsewhere the choice among the two neighbours of the exact value is Config's (log 7). -/
def Obligations.FloatFunctions : Prop :=
  (∀ (f : Fmt) (rm : Rm) (neg : Bool) (r : Rat2), 1 ≤ f.fb → 1 ≤ f.bias → 0 < r.den →
    f.Rounds rm neg (r.num * 2 ^ r.e.toNat) (r.den * 2 ^ (-r.e).toNat) (f.roundMag rm neg r)) ∧
  (∀ (a b : Nat), a < 2 ^ 32 → b < 2 ^ 32 →
    let nan (x : Nat) : Prop := 0x7F800000 < x % 2 ^ 31
    let key (x : Nat) : Int := if 2 ^ 31 ≤ x then -(x % 2 ^ 31 : Int) - 1 else x
    (nan a → nan b → ∀ w, fmtF32.minMax w a b = 0x7FC00000) ∧
    (nan a → ¬nan b → ∀ w, fmtF32.minMax w a b = b) ∧
    (¬nan a → nan b → ∀ w, fmtF32.minMax w a b = a) ∧
    (¬nan a → ¬nan b → fmtF32.minMax false a b = (if key b < key a then b else a) ∧
      fmtF32.minMax true a b = if key a < key b then b else a)) ∧
  (∀ (f : Fmt) (x : Nat), f ∈ [fmtF32, fmtF16, fmtBf16] →
    let m := x % 2 ^ (f.eb + f.fb)
    let n := x / 2 ^ (f.eb + f.fb) % 2 == 1
    f.classOf x = (if m = 0 then (if n then 3 else 4) else if m < 2 ^ f.fb then (if n then 2 else 5)
      else if m < f.infC then (if n then 1 else 6) else if m = f.infC then (if n then 0 else 7)
      else if m / 2 ^ (f.fb - 1) % 2 = 0 then 8 else 9)) ∧
  (∀ (rm : Rm) (n : Bool) (m : Nat) (e : Int), 0 < m →
    ∃ c, fmtF32.Rounds rm n (2 ^ (-e).toNat) (m * 2 ^ e.toNat) c ∧ frcpVal rm (.fin n m e) = fmtF32.finish rm n c) ∧
  (∀ x : Word, 0 < x.toNat → x.toNat < 0x7F800000 →
    let u := fmtF32.units
    let X := u x.toNat
    (∀ rm, let c := fsqrtVal rm (f32 x)
      match rm with
      | .rn => (u (c - 1) + u c) ^ 2 < 4 * X * fmtF32.one ∧ 4 * X * fmtF32.one < (u c + u (c + 1)) ^ 2
      | .ru => u (c - 1) ^ 2 < X * fmtF32.one ∧ X * fmtF32.one ≤ u c ^ 2
      | _ => u c ^ 2 ≤ X * fmtF32.one ∧ X * fmtF32.one < u (c + 1) ^ 2) ∧
    (let c := frsqVal x;
      (u c ^ 2 * X ≤ fmtF32.one ^ 3 ∧ fmtF32.one ^ 3 < u (c + 1) ^ 2 * X) ∨
        (u (c - 1) ^ 2 * X < fmtF32.one ^ 3 ∧ fmtF32.one ^ 3 ≤ u c ^ 2 * X)) ∧
    (∀ k : Nat, X = k * fmtF32.one → k ≤ 127 → u (fexp2Val x) = 2 ^ (149 + k)) ∧
    (∀ k : Nat, X = k * fmtF32.one → k ≤ 149 → u (fexp2Val (x ||| 0x80000000#32)) = 2 ^ (149 - k)) ∧
    (∀ j : Nat, X = 2 ^ j → flog2Val x / 2 ^ 31 = (if j < 149 then 1 else 0) ∧
      u (flog2Val x % 2 ^ 31) = ((j : Int) - 149).natAbs * fmtF32.one)) ∧
  (∀ x : Word, x.toNat % 2 ^ 31 < 0x7F800000 →
    let X := fmtF32.units (x.toNat % 2 ^ 31)
    (∀ k : Nat, X = k * fmtF32.one → fsinVal x = (if x.getLsbD 31 then 0x80000000 else 0) ∧
      fcosVal x = if k % 2 = 0 then 0x3F800000 else 0xBF800000) ∧
    (∀ k : Nat, 2 * X = (2 * k + 1) * fmtF32.one → fcosVal x = 0 ∧
      fsinVal x = if x.getLsbD 31 != (k % 2 == 1) then 0xBF800000 else 0x3F800000)) ∧
  ∀ (s : State) (c : Iss),
    (∀ (m : ANeg) (o : L2) (d : Loc) (a b : Vals), s.Issues 2 o.g c → c.Room 144 → c.Reads2 o d a b →
      c.Ends (.fmin m o) s (laneEffect d (fun l =>
        w32 (fmtF32.minMax false (anegBits m (a l)).toNat (b l).toNat))) ∧
      c.Ends (.fmax m o) s (laneEffect d (fun l =>
        w32 (fmtF32.minMax true (anegBits m (a l)).toNat (b l).toNat)))) ∧
    (∀ (o : L1) (d : Loc) (a : Vals), s.Issues 2 o.g c → c.Room 144 → c.Reads1 o d a →
      (∀ fmt hs, c.Ends (.fclass fmt hs o) s (laneEffect d (fun l => fclassW fmt hs (a l)))) ∧
      (∀ m : FMod, c.Ends (.frcp m o) s
        (laneEffect d (fun l => w32 (frcpVal m.rm (FVal.modA m.abs m.neg (f32 (a l))))))) ∧
      (∀ m : FMod, c.Ends (.fsqrt m o) s
        (laneEffect d (fun l => w32 (fsqrtVal m.rm (FVal.modA m.abs m.neg (f32 (a l))))))) ∧
      (∀ m : ANeg,
        c.Ends (.frsq m o) s (laneEffect d (fun l => w32 (frsqVal (anegBits m (a l))))) ∧
        c.Ends (.fexp2 m o) s (laneEffect d (fun l => w32 (fexp2Val (anegBits m (a l))))) ∧
        c.Ends (.flog2 m o) s (laneEffect d (fun l => w32 (flog2Val (anegBits m (a l))))) ∧
        c.Ends (.fsin m o) s (laneEffect d (fun l => w32 (fsinVal (anegBits m (a l))))) ∧
        c.Ends (.fcos m o) s (laneEffect d (fun l => w32 (fcosVal (anegBits m (a l)))))))

/-- CVT and CVTS: each lane's source converted and rounded, or limited with .sat, which sets the destination type's bit of %sat;
a 16-bit result replaces one half of the destination (05 R148 to R153). CVT8 under a slot that names an 8-bit format, CVTX,
CVTMX, PACK and UNPACK (05 R154 to R161). CVTMX writes the block's scale code to a byte of its uniform register. What CVT
computes in a lane: an integer to an integer wraps or is limited; a value to an integer is rounded, and limited when its exact
value is out of range, a NaN giving 0; a value to a floating type is rounded once, with .sat limited by its exact magnitude; the
same floating type rewrites NaNs or, with .int, rounds to an integral value of its sign (05 R149, R151). CVTS adds the random
bits below the destination's spacing and truncates (05 R153). Each byte of CVTX is its element rounded (05 R157). -/
def Obligations.Conversions : Prop :=
  (∀ (m : CvtMod) (dst src : CvtType) (x : DWord) (z z' : Bool) (w w' : Nat), cvtInt src = some (z, w) →
    cvtInt dst = some (z', w') →
    let v : Int := if z then ((x.setWidth w).toNat : Int) else (x.setWidth w).toInt
    let y := if m.sat then satLimit z' w' v else v
    let r := cvtLane m dst src x
    BitVec.ofNat w' r.1 = BitVec.ofInt w' y ∧ r.2 = (m.sat && y != v) ∧
      (w' < 32 → w32 r.1 = if z' then (BitVec.ofInt w' y).setWidth 32 else (BitVec.ofInt w' y).signExtend 32)) ∧
  (∀ (m : CvtMod) (dst src : CvtType) (x : DWord), cvtInt src = none →
    let f := cvtFmt src
    let b := if src = .f32 then x.toNat % 2 ^ 32 else if m.hs then x.toNat / 2 ^ 16 % 2 ^ 16 else x.toNat % 2 ^ 16
    let mag := b % 2 ^ (f.eb + f.fb)
    let neg := b / 2 ^ (f.eb + f.fb) % 2 == 1
    let r := cvtLane m dst src x
    (∀ (z : Bool) (w : Nat), cvtInt dst = some (z, w) →
      let lo : Int := if z then 0 else -(2 ^ (w - 1) : Int)
      let hi : Int := if z then 2 ^ w - 1 else 2 ^ (w - 1) - 1
      let v : Int := if neg then -(f.units mag : Int) else f.units mag
      let gives (k : Int) (hit : Bool) : Prop := BitVec.ofNat w r.1 = BitVec.ofInt w k ∧ r.2 = hit ∧
        (w < 32 → w32 r.1 = if z then (BitVec.ofInt w k).setWidth 32 else (BitVec.ofInt w k).signExtend 32)
      (f.infC < mag → gives 0 true) ∧
      (mag = f.infC → gives (if neg then lo else hi) true) ∧
      (mag < f.infC → v < lo * f.one → gives lo true) ∧
      (mag < f.infC → hi * f.one < v → gives hi true) ∧
      (mag < f.infC → lo * f.one ≤ v → v ≤ hi * f.one →
        ∃ k, IntRounds m.rm neg (f.units mag) f.one k ∧ lo ≤ k ∧ k ≤ hi ∧ gives k false)) ∧
    (cvtInt dst = none →
      let f' := cvtFmt dst
      (f.infC < mag → r = (f'.nanC, false)) ∧
      (dst ≠ src → dst = .f32 → mag ≤ f.infC → ∃ c, r = (f'.signed neg c, false) ∧
        (mag = f.infC → c = f'.infC) ∧ (mag < f.infC → c < f'.infC ∧ f'.units c * f.one = f.units mag * f'.one)) ∧
      (dst ≠ src → dst ≠ .f32 →
        (mag = f.infC → r = if m.sat then (f'.signed neg f'.maxFin, true) else (f'.signed neg f'.infC, false)) ∧
        (mag < f.infC → ∃ c, f'.Rounds m.rm neg (f.units mag) f.one c ∧
          r = if m.sat ∧ f'.units f'.maxFin * f.one < f.units mag * f'.one then (f'.signed neg f'.maxFin, true)
            else (f'.finish m.rm neg c, false))) ∧
      (dst = src → m.int_ = false → mag ≤ f.infC → r = (b, false)) ∧
      (dst = src → m.int_ = true →
        (mag = f.infC → r = (b, false)) ∧
        (mag < f.infC → ∃ (c : Nat) (k : Int), IntRounds m.rm neg (f.units mag) f.one k ∧ f.units c = k.natAbs * f.one ∧
          c < f.infC ∧ r = (f.signed neg c, false))))) ∧
  (∀ (m : CvtMod) (dst src : CvtType) (x : DWord) (z : Bool) (w : Nat), cvtInt src = some (z, w) → cvtInt dst = none →
    let v : Int := if z then ((x.setWidth w).toNat : Int) else (x.setWidth w).toInt
    let f := cvtFmt dst
    ∃ c, f.Rounds m.rm (decide (v < 0)) v.natAbs 1 c ∧
      cvtLane m dst src x = if m.sat ∧ f.units f.maxFin < v.natAbs * f.one
        then (f.signed (decide (v < 0)) f.maxFin, true) else (f.finish m.rm (decide (v < 0)) c, false)) ∧
  (∀ (bf16 sat : Bool) (x y : Word),
    let f := pkFmt bf16
    let mag := x.toNat % 2 ^ 31
    let neg := x.getLsbD 31
    let r := cvtsLane f sat x y
    (0x7F800000 < mag → r = (f.nanC, false)) ∧ (mag = 0x7F800000 → r = (f.signed neg f.infC, false)) ∧
    (mag = 0 → r = (f.signed neg 0, false)) ∧
    (0 < mag → mag < 0x7F800000 →
      -- the spacing 2 ^ e of the destination at |x| is q smallest subnormals of FP32
      let e : Int := max ((Nat.log2 (fmtF32.units mag) : Int) - 149 - f.fb) f.qmin
      let q := 2 ^ (e + 149).toNat
      let n := (fmtF32.units mag * 2 ^ 32 + y.toNat * q) / (q * 2 ^ 32)
      ∃ c, f.units c = n * 2 ^ (e - f.qmin).toNat ∧
        r = if f.maxFin < c then (if sat then (f.signed neg f.maxFin, true) else (f.signed neg f.infC, false))
          else (f.signed neg c, false))) ∧
  (∀ (e5m2 hs : Bool) (x : Word) (i : Nat), i < 4 →
    let f := if e5m2 then fmtE5m2 else fmtE4m3
    let byte (code : XSrc) : Nat := ((cvtxW code e5m2 hs x).extractLsb' (8 * i) 8).toNat
    let v : Int := (x.extractLsb' (4 * i + if hs then 16 else 0) 4).toInt
    let n := (x.extractLsb' (6 * i) 6).toNat
    (∃ c, f.Rounds .rn (decide (v < 0)) v.natAbs 1 c ∧ c ≤ f.maxFin ∧ byte .int4 = f.signed (decide (v < 0)) c) ∧
    (∃ c, f.Rounds .rn (n / 32 == 1) (fmtE3m2.units (n % 32)) fmtE3m2.one c ∧ c ≤ f.maxFin ∧
      byte .e3m2 = f.signed (n / 32 == 1) c) ∧
    (∃ c, f.Rounds .rn (n / 32 == 1) (fmtE2m3.units (n % 32)) fmtE2m3.one c ∧ c ≤ f.maxFin ∧
      byte .e2m3 = f.signed (n / 32 == 1) c)) ∧
  (∀ (s : State) (c : Iss),
    (∀ (m : CvtMod) (dst src : CvtType) (g : Guard) (dv : VReg) (sa : Src) (x : Vals64), s.Issues 2 g c → c.Room 304 →
      (if cvtWide src then c.g.src64 sa = .ok x else ∃ v, c.g.src sa = .ok v ∧ x = fun l => (v l).setWidth 64) →
      (∀ d, cvtWide dst = true → c.g.locPair dv.toNat = .ok d →
        c.Ends (.cvt m dst src g dv sa) s (c.satEffect (cvtSatBit dst) (fun l => (cvtLane m dst src (x l)).2)
          (pairEffect d (fun l => w64 (cvtLane m dst src (x l)).1)))) ∧
      (∀ d, cvtWide dst = false → c.g.loc dv.toNat = .ok d →
        c.Ends (.cvt m dst src g dv sa) s (c.satEffect (cvtSatBit dst) (fun l => (cvtLane m dst src (x l)).2)
          (laneEffect d (fun l => if cvtHalf dst then putHalf m.hd (c.g.rdV d l) (cvtLane m dst src (x l)).1
            else w32 (cvtLane m dst src (x l)).1))))) ∧
    (∀ (bf16 sat hd : Bool) (o : L2) (d : Loc) (a b : Vals), s.Issues 2 o.g c → c.Room 160 → c.Reads2 o d a b →
      c.Ends (.cvts bf16 sat hd o) s (c.satEffect (if bf16 then 3 else 2)
        (fun l => (cvtsLane (pkFmt bf16) sat (a l) (b l)).2)
        (laneEffect d (fun l => putHalf hd (c.g.rdV d l) (cvtsLane (pkFmt bf16) sat (a l) (b l)).1))))) ∧
  (∀ (s : State) (c : Iss),
    (∀ (f : Fmt) (bit : Nat) (slot : Slot) (g : Guard) (dv : VReg) (sa : Src), s.Issues 2 g c → c.Room 288 →
      (s.slot c.g.grid slot.toNat).fp8 = some (f, bit) →
      (∀ (rm : Rm) (hd : Bool) (sb : Src) (d : Loc) (a b : Vals), c.g.loc dv.toNat = .ok d → c.g.src sa = .ok a →
        c.g.src sb = .ok b →
        let cv (x : Word) : Nat × Bool := f.convert rm ((s.slot c.g.grid slot.toNat).satp == 1#8)
          ((s.slot c.g.grid slot.toNat).nanp == 1#8) (quot (f32 x) (s.slot c.g.grid slot.toNat).scaleOf)
        c.Ends (.cvt8 (.to rm hd g dv sa sb slot)) s (c.satEffect bit (fun l => (cv (a l)).2 || (cv (b l)).2)
          (laneEffect d (fun l =>
            putHalf hd (c.g.rdV d l) ((cv (a l)).1 % 256 + 256 * ((cv (b l)).1 % 256)))))) ∧
      (∀ (hs : Bool) (d : Loc × Loc) (a : Vals), c.g.locPair dv.toNat = .ok d → c.g.src sa = .ok a →
        let cv (b : Nat) : Word := w32 (fmtF32.ofVal .rn (FVal.mul (f.val b)
          (.fin false (s.slot c.g.grid slot.toNat).scaleOf.1 (s.slot c.g.grid slot.toNat).scaleOf.2)))
        c.Ends (.cvt8 (.from_ hs g dv sa slot)) s
          { v := [(d.1, fun l => cv (halfOf hs (a l) % 256)), (d.2, fun l => cv (halfOf hs (a l) / 256))] })) ∧
    (∀ (code : XSrc) (e5m2 hs : Bool) (o : L1) (d : Loc) (a : Vals), s.Issues 2 o.g c → c.Room 144 → c.Reads1 o d a →
      c.Ends (.cvtx code e5m2 hs o) s (laneEffect d (fun l => cvtxW code e5m2 hs (a l)))) ∧
    (∀ (src : MxSrc) (g : Guard) (dv : VReg) (ks : KReg) (av : VReg) (n : BitVec 3) (d a : Loc), s.Issues 2 g c →
      c.Room 184 → c.g.loc dv.toNat = .ok d → c.g.loc av.toNat = .ok a →
      let sc := mxScale ((lanesOf c.ex).map (fun l => mxVal src (c.g.rdV a l)))
      let el (l : Nat) : Nat × Bool := if sc.1 = 0xFF then (0, false) else mxElem sc.2 (mxVal src (c.g.rdV a l))
      c.Ends (.cvtmx src g dv ks av n) s (c.satEffect 6 (fun l => (el l).2)
        { v := [(d, fun l => putNibble (c.g.rdV d l) n.toNat (el l).1)],
          k := [(ks.toNat, putByte64 (c.g.rdK ks.toNat) n.toNat sc.1)] })) ∧
    (∀ (m : PackMode) (o : L2) (d : Loc) (a b : Vals), s.Issues 2 o.g c → c.Room 144 → c.Reads2 o d a b →
      c.Ends (.pack m o) s (laneEffect d (fun l => match m with
        | .lo => (b l).extractLsb' 0 16 ++ (a l).extractLsb' 0 16
        | .hi => (b l).extractLsb' 16 16 ++ (a l).extractLsb' 16 16
        | .lh => (b l).extractLsb' 16 16 ++ (a l).extractLsb' 0 16))) ∧
    (∀ (z : Bool) (g : Guard) (dv : VReg) (sa : Src) (d : Loc) (a : Vals), s.Issues 2 g c → c.Room 144 →
      c.g.loc dv.toNat = .ok d → c.g.src sa = .ok a →
      (∀ n : BitVec 2, c.Ends (.unpack false z g dv sa n) s (laneEffect d (fun l =>
        if z then ((a l).extractLsb' (8 * n.toNat) 8).setWidth 32
        else ((a l).extractLsb' (8 * n.toNat) 8).signExtend 32))) ∧
      (∀ n : BitVec 2, n.toNat < 2 → c.Ends (.unpack true z g dv sa n) s (laneEffect d (fun l =>
        if z then ((a l).extractLsb' (16 * n.toNat) 16).setWidth 32
        else ((a l).extractLsb' (16 * n.toNat) 16).signExtend 32)))))

/-- LGET and PERM gather a value from another lane: 0 from a lane out of range or not launched, which the predicate reports
(05 R162, R165 to R167). VOTE, REDUX, SCAN, MATCH and ISECT combine the lanes of Exec (05 R168 to R174). -/
def Obligations.CrossLane : Prop :=
  (∀ (s : State) (c : Iss),
    (∀ (m : LgMode) (seg : Seg) (g : Guard) (dv av : VReg) (lb : LgB) (pc : Option PReg) (d a : Loc) (b : Nat → Nat),
      s.Issues 2 g c → c.Room 160 → c.g.loc dv.toNat = .ok d → c.g.loc av.toNat = .ok a → c.g.lgB lb = .ok b →
      let from_ (l : Nat) : Option Nat := (lgetLane m (segWidth seg) l (b l)).filter (fun j => c.g.launched.getLsbD j)
      c.Ends (.lget m seg g dv av lb pc) s
        { v := [(d, fun l => match from_ l with | some j => c.g.rdV a j | none => 0#32)],
          p := pc.toList.map (fun p => (p.toNat, maskOf (fun l => (from_ l).isSome))) }) ∧
    (∀ (b8 : Bool) (g : Guard) (dv av : VReg) (sb : Src) (pc : Option PReg) (d a : Loc) (b : Vals),
      s.Issues 2 g c → c.Room 160 → c.g.loc dv.toNat = .ok d → c.g.loc av.toNat = .ok a → c.g.src sb = .ok b →
      c.Ends (.perm b8 g dv av sb pc) s
        { v := [(d, fun l => c.g.permW b8 a (b l))],
          p := pc.toList.map (fun p => (p.toNat, maskOf (fun l => c.g.permOk b8 (b l)))) })) ∧
  (∀ (s : State) (c : Iss),
    (∀ (na : Bool) (g : Guard) (a : PReg), s.Issues 2 g c → c.Room 144 →
      let m := (if na then ~~~(c.g.rdP a.toNat) else c.g.rdP a.toNat) &&& c.ex
      (∀ d, c.Ends (.vote (.all d) na g a) s (predEffect d (if m = c.ex then fullMask else 0#32))) ∧
      (∀ d, c.Ends (.vote (.any d) na g a) s (predEffect d (if m ≠ 0#32 then fullMask else 0#32))) ∧
      (∀ (dv : VReg) (d : Loc), c.g.loc dv.toNat = .ok d →
        c.Ends (.vote (.ballot dv) na g a) s (laneEffect d (fun _ => m))) ∧
      (∀ d, c.Ends (.vote (.ballotK d) na g a) s (uniEffect d (m.setWidth 64)))) ∧
    (∀ (op : RedOp) (z : Bool) (g : Guard) (dk : KReg) (sa : LSrc) (a : Loc), s.Issues 2 g c → c.Room 24 →
      c.g.lloc sa = .ok a →
      c.Ends (.redux op z g dk sa) s (uniEffect dk (reduxVal op z ((lanesOf c.ex).map (c.g.rdV a))))) ∧
    (∀ (exc : Bool) (g : Guard) (dv : VReg) (sa : LSrc) (kc : Option KReg) (d a : Loc), s.Issues 2 g c → c.Room 168 →
      c.g.loc dv.toNat = .ok d → c.g.lloc sa = .ok a →
      c.Ends (.scan exc g dv sa kc) s
        { v := [(d, fun l => ((lanesOf c.ex).filter (fun j => if exc then decide (j < l) else decide (j ≤ l))).foldl
            (fun x j => x + c.g.rdV a j) 0#32)],
          k := kc.toList.map (fun k => (k.toNat,
            ((lanesOf c.ex).foldl (fun x j => x + c.g.rdV a j) 0#32).setWidth 64)) }) ∧
    (∀ (wide : Bool) (g : Guard) (dv av : VReg) (pc : Option PReg) (d : Loc) (x : Vals64), s.Issues 2 g c → c.Room 160 →
      c.g.loc dv.toNat = .ok d →
      (if wide then c.g.src64 (.v av) = .ok x else ∃ v, c.g.src (.v av) = .ok v ∧ x = fun l => (v l).setWidth 64) →
      c.Ends (.match_ wide g dv av pc) s
        { v := [(d, fun l => maskOf (fun j => x j == x l) &&& c.ex)],
          p := pc.toList.map (fun p => (p.toNat, maskOf (fun l => lowLane (maskOf (fun j => x j == x l) &&& c.ex) == l))) }) ∧
    (∀ (g : Guard) (dv : VReg) (kc : KReg) (av bv : VReg) (d : Loc) (x y : Vals), s.Issues 2 g c → c.Room 168 →
      c.g.loc dv.toNat = .ok d → c.g.src (.v av) = .ok x → c.g.src (.v bv) = .ok y →
      let xs := (lanesOf c.ex).filter (fun j => x j != fullMask)
      let ys := (lanesOf c.ex).filter (fun j => y j != fullMask)
      c.Ends (.isect g dv kc av bv) s
        { v := [(d, fun l => w32 (matchField xs x ys y l + 256 * matchField ys y xs x l))],
          k := [(kc.toNat, w64 ((advances xs x ys y).1 + 2 ^ 32 * (advances xs x ys y).2))] }))

/-! Row 8: control flow. -/

/-- The transfers: relative branches and calls to PC + offset, BRX, CALLI and RET to a pair of each lane. The lanes divide by
target, in the order of their lowest lanes; a call writes the address behind it to its link pair; BRA, BRU, BRX, CALL and CALLI
with an empty Exec go on in sequence. A CALLI whose targets declare more than %regs first raises %regs to the largest declared
budget, with its GROWREC; it waits where the quadrant has no room, raises 0x0202 beyond the limit and 0x0907 in handler mode (03
R74, R75; 04 R128, R129; 17 R385). A transfer to an address that is no clause header raises 0x0101, BRU with lanes that stay
behind 0x0205: a precise fault, the split parked with its record, no lane moved. With more targets than numbers the paths left
over, the lanes that stay last, go to the path stack in order, and where it has no room for them it is 0x0203 (03 R78; 04 R124
to R129, R133; 17 R384). -/
def Obligations.Transfers : Prop :=
  (∀ (s : State) (c : Iss),
    (∀ (g : Guard) (off : Word), s.Issues 3 g c → c.Room 384 →
      let t : Nat → CAddr := fun _ => c.pc + (off.signExtend 64).setWidth 57
      (c.CanTransfer t → c.Transfers (.bra g off) s t {}) ∧
      (c.CanTransfer t → c.stay = 0#32 → c.Transfers (.bru g off) s t {}) ∧
      (∀ (dv : VReg) (d : Loc × Loc), c.g.locPair dv.toNat = .ok d → c.CanTransfer t →
        c.Transfers (.call g dv off) s t (pairEffect d (fun _ => c.nextPc.setWidth 64))) ∧
      (c.ex = 0#32 → c.Ends (.bra g off) s {} ∧ c.Ends (.bru g off) s {} ∧
        ∀ (dv : VReg) (d : Loc × Loc), c.g.locPair dv.toNat = .ok d → c.Ends (.call g dv off) s {})) ∧
    (∀ (g : Guard) (ts : Src) (v : Vals64), s.Issues 2 g c → c.Room 384 → c.g.src64 ts = .ok v →
      let t : Nat → CAddr := fun l => (v l).setWidth 57
      (c.CanTransfer t → c.Transfers (.brx g ts) s t {}) ∧
      (c.ex = 0#32 → c.Ends (.brx g ts) s {} ∧
        ∀ (dv : VReg) (d : Loc × Loc), c.g.locPair dv.toNat = .ok d → c.Ends (.calli g dv ts) s {}) ∧
      (∀ (dv : VReg) (d : Loc × Loc), c.g.locPair dv.toNat = .ok d → c.CanTransfer t → c.g.growFail ≠ some c.sn →
        c.g.grants = [] → (∀ l ∈ lanesOf c.ex, 16 * (((v l).extractLsb' 57 4).toNat + 1) ≤ c.g.regs) →
        c.Transfers (.calli g dv ts) s t (pairEffect d (fun _ => c.nextPc.setWidth 64)))) ∧
    (∀ (av : VReg) (a : Loc × Loc), s.Issues 1 always c → c.Room 384 → c.g.locPair av.toNat = .ok a →
      let t : Nat → CAddr := fun l => (c.g.pairV a l).setWidth 57
      c.CanTransfer t → c.Transfers (.ret av) s t {})) ∧
  (∀ (s : State) (c : Iss) (g : Guard) (ts : Src) (v : Vals64) (dv : VReg) (d : Loc × Loc), s.Issues 2 g c →
    c.g.src64 ts = .ok v → c.g.locPair dv.toNat = .ok d →
    let t : Nat → CAddr := fun l => (v l).setWidth 57
    let want := (lanesOf c.ex).foldl (fun n l => max n (16 * (((v l).extractLsb' 57 4).toNat + 1))) 0
    c.g.regs < want →
    (c.g.inHandler = true → exec (.calli g dv ts) s = .next (c.fault 0x0907#16 c.ex 0#64 0#64)) ∧
    (c.g.inHandler = false → c.g.growFail ≠ some c.sn → c.g.grants = [] → c.CanTransfer t →
      (c.g.regLimit < want → exec (.calli g dv ts) s = .next (c.fault 0x0202#16 c.ex (BitVec.ofNat 64 want) 0#64)) ∧
      (want ≤ c.g.regLimit → (∀ r ∈ c.s.growQ, r.quad ≠ c.g.quad) → want - c.g.regs ≤ c.s.quadFree c.g.quad → c.Room 512 →
        let g2 := ((c.g.pushBoth (.growrec c.g.regs want)).setRegs want).withGrants want []
        ({ c with g := g2 } : Iss).Transfers (.calli g dv ts) s t (pairEffect d (fun _ => c.nextPc.setWidth 64)) ∧
        ∀ t' u, exec (.calli g dv ts) s = .next t' → t'.groups.get c.gid = some u → u.regs = want ∧
          (c.g.recGrade ≠ .off → ∃ l, u.hist.stack =
            l ++ ⟨c.g.ic.setWidth 32, c.g.cur, .growrec c.g.regs want⟩ :: c.g.hist.stack)) ∧
      (want ≤ c.g.regLimit → (∃ r ∈ c.s.growQ, r.quad = c.g.quad) ∨ c.s.quadFree c.g.quad < want - c.g.regs →
        ∃ t' u sp, exec (.calli g dv ts) s = .next t' ∧ t'.growQ = s.growQ ++ [⟨c.g.quad, c.gid, c.sn, want⟩] ∧
          t'.groups.get c.gid = some u ∧ u.regs = c.g.regs ∧ u.ic = c.g.ic ∧ u.splits.get c.sn = some sp ∧ sp.pc = c.pc ∧
          sp.wait = .grow ∧ sp.mid = c.g.clause))) ∧
  (∀ (s : State) (c : Iss) (g : Guard) (off : Word), s.Issues 3 g c → c.ex ≠ 0#32 →
    let t : CAddr := c.pc + (off.signExtend 64).setWidth 57
    (c.s.isHeader c.g.ctx t = .ok false →
      exec (.bra g off) s = .next (c.fault 0x0101#16 c.ex (t.setWidth 64) 0#64) ∧
      exec (.bru g off) s = .next (c.fault 0x0101#16 c.ex (t.setWidth 64) 0#64)) ∧
    (c.s.isHeader c.g.ctx t = .ok true → c.stay ≠ 0#32 →
      exec (.bru g off) s = .next (c.fault 0x0205#16 c.ex ((c.sp.mask).setWidth 64) 0#64))) ∧
  (∀ (s : State) (c : Iss) (i : Instr) (t : Nat → CAddr) (e : Effect), s.TransferForm c i t e → c.ex ≠ 0#32 →
    let bad (l : Nat) : Bool := match c.s.isHeader c.g.ctx (t l) with | .ok b => !b | .error _ => false
    (∀ x rest, (∀ l ∈ lanesOf c.ex, ∃ b, c.s.isHeader c.g.ctx (t l) = .ok b) → (lanesOf c.ex).filter bad = x :: rest →
      exec i s = .next (c.fault 0x0101#16 (maskOf (fun l => c.ex.getLsbD l && bad l)) ((t x).setWidth 64) 0#64)) ∧
    ((∀ l ∈ lanesOf c.ex, c.s.isHeader c.g.ctx (t l) = .ok true) → c.g.inHandler = false →
      c.numbers.length < (c.targets t).length →
      (c.g.parked.length + (c.overflow t).length ≤ 8 → c.Room 1024 → c.TransfersParking i s t e) ∧
      (8 < c.g.parked.length + (c.overflow t).length → exec i s = .next (c.fault 0x0203#16 c.ex 0#64 0#64))))

/-- EXIT takes the lanes of the split out of the group after a commit: the group goes with its last split, and otherwise the
split's number is free and every other split is as it was; CONV completes at once for the only split, and
otherwise waits at its reconvergence behind the instruction (04 R130, R131; 03 R81, R83). -/
def Obligations.ExitAndConverge : Prop :=
  ∀ (s : State) (c : Iss), s.Issues 1 always c → c.g.inHandler = false →
    (∀ s1 g1, c.s.commit c.gid = .ok s1 → s1.groups.get c.gid = some g1 → c.ex ≠ 0#32 →
      (g1.splits.length = 1 → g1.parked = [] →
        ((s1.ctxs.get g1.ctx).elim false (fun x => x.poolWaits.contains c.gid)) = false →
        (∀ sp, g1.splits.get c.sn = some sp → sp.mask = c.sp.mask) →
        ∃ t, exec .exit s = .next t ∧ t.groups = (s1.setGroup c.gid (c.leaveGroup g1 c.sp.mask)).groups.del c.gid) ∧
      (∀ n sp, n ≠ c.sn → g1.splits.get n = some sp → sp.mask ≠ 0#32 →
        (∀ sp, g1.splits.get c.sn = some sp → sp.mask = c.sp.mask) →
        ∃ t u, exec .exit s = .next t ∧ c.Jumps s1 g1 u t ∧ u.splits.get c.sn = none ∧
          ∀ k, k ≠ c.sn → u.splits.get k = g1.splits.get k)) ∧
    (c.Room 0 → c.g.sat &&& c.g.satarm = 0#8 →
      (c.g.splits.length ≤ 1 → c.g.parked = [] →
        ∃ t u, exec .conv s = .next t ∧ c.Jumps c.s c.g u t ∧
          u.splits.get c.sn = some { c.sp with pc := c.nextPc } ∧ ∀ n, n ≠ c.sn → u.splits.get n = c.g.splits.get n) ∧
      (1 < c.g.splits.length ∨ c.g.parked ≠ [] →
        ∃ t u, exec .conv s = .next t ∧ c.Jumps c.s c.g u t ∧
          u.splits.get c.sn = some { c.sp with pc := c.nextPc, wait := .conv c.pc } ∧
          ∀ n, n ≠ c.sn → u.splits.get n = c.g.splits.get n))

/-! Rows A and B: memory. -/

/-- LD, LDX and KLD in a lane set that is not empty: every lane's bytes are checked, the values are taken now, which is the
model's choice among the moments that R181 allows (log 9), and a pending load will write them to the registers (06 R188, R190;
07 R201). With an empty Exec nothing is read or written. PREF raises its flags and changes no register, no other group and no
byte, whatever its addresses (which prefetches a bad lane drops is the model's choice, log 53); FENCE with .rel or .full drains
the group's buffered stores and waits until they are visible (06 R192; 07 R207). -/
def Obligations.Loads : Prop :=
  (∀ (s : State) (c : Iss) (m : MemMod) (g : Guard),
    (∀ (dv : VReg) (ls : List Loc) (a : Vals64) (accs : List Acc), c.Room 576 →
      c.g.locRun dv.toNat (sizeRegs m.size) = .ok ls →
      c.access m.space (MemMod.loads m) c.ex a (sizeBytes m.size) = .ok accs →
      let r := c.s.takeLoad c.g.core c.gid m accs
      let ld := (r.1.setGroup c.gid (c.g.recRun ls c.ex false)).await
        (.load c.gid c.sn c.ex (r.2.flatMap (fun x => laneWrites ls x.1 (extend32 m.size x.2))) []) .loadReturn
      (∀ ad : Addr, s.Issues 2 g c → c.g.addr ad (sizeBytes m.size) = .ok a →
        (c.ex ≠ 0#32 → c.EndsIn (.ld m g dv ad) s ld ∧
          c.EndsIn (.ldx m g dv ad) s ((r.1.setGroup c.gid (c.g.recRun ls c.ex (m.space == .priv))).await
            (.load c.gid c.sn c.ex (r.2.flatMap (fun x => laneWrites ls x.1 (c.g.runNat ls x.1 ^^^ x.2))) []) .loadReturn)) ∧
        (c.ex = 0#32 → c.Ends (.ld m g dv ad) s {} ∧ c.Ends (.ldx m g dv ad) s {})) ∧
      (∀ ad : AddrL, s.Issues 3 g c → c.g.addrL ad = .ok a →
        (c.ex ≠ 0#32 → c.EndsIn (.ldL96 m g dv ad) s ld) ∧ (c.ex = 0#32 → c.Ends (.ldL96 m g dv ad) s {}))) ∧
    (∀ (d a b : KReg) (disp : DWord) (accs : List Acc), c.Room 24 →
      c.accessK m.space (MemMod.loads m) (c.g.rdK a.toNat + c.g.rdK b.toNat + disp) (sizeBytes m.size) = .ok accs →
      let r := c.s.takeLoad c.g.core c.gid m accs
      let kld := (r.1.setGroup c.gid (c.g.recK d.toNat false)).await
        (.kload c.gid c.sn c.ex (r.2.map (fun x => (d.toNat, extend64 m.size x.2)))) .loadReturn
      (∀ d8 : BitVec 8, s.Issues 2 g c → disp = disp8 d8 (sizeBytes m.size) →
        (c.ex ≠ 0#32 → c.EndsIn (.kld m g d a b d8) s kld) ∧ (c.ex = 0#32 → c.Ends (.kld m g d a b d8) s {})) ∧
      (∀ lit : Word, s.Issues 3 g c → disp = lit.signExtend 64 →
        (c.ex ≠ 0#32 → c.EndsIn (.kldL96 m g d a b lit) s kld) ∧ (c.ex = 0#32 → c.Ends (.kldL96 m g d a b lit) s {})))) ∧
  (∀ (s : State) (c : Iss) (g : Guard), s.Issues 2 g c → c.Room 0 →
    (∀ (pc : Bool) (sp : GSpace) (fl : SFlags) (ad : Addr) (a : Vals64) (g1 : Group), c.g.addr ad 1 = .ok a →
      c.g.raiseFlags (c.flagsOf fl) = .ok g1 →
      (c.ex = 0#32 → c.Ends (.pref pc sp fl g ad) s {}) ∧
      (c.ex ≠ 0#32 → ∃ t u id, exec (.pref pc sp fl g ad) s = .next t ∧ t.mem = s.mem ∧ t.polder = s.polder ∧
        t.teams = s.teams ∧ t.pend.get id = some (.pref c.gid (c.flagsOf fl)) ∧ .prefetchComplete id ∈ t.engine ∧
        (∀ i, i ≠ c.gid → t.groups.get i = s.groups.get i) ∧ t.groups.get c.gid = some u ∧ u.v = c.g.v ∧ u.k = c.g.k ∧
        u.p = c.g.p ∧ u.sat = c.g.sat ∧ u.satarm = c.g.satarm ∧ u.flags = g1.flags ∧
        c.Went g1 u)) ∧
    (∀ (k : FenceKind) (sc : Scope),
      c.EndsIn (.fence k sc g) s (if k = .acq then c.s else c.s.release c.g.core c.gid sc)))

/-- ST, STX and XCHG in a lane set that is not empty, in OFF grade: the flags rise, the bytes of every lane go to the places
its address names, STX and XCHG act on the values at the home, and what is to finish later is pending (06 R191, R192; 07 R206). In
MARK and STEP grade a store pushes the old values that it overwrites before it stores, and STX and XCHG push the exact ones
that they met at the home, except in private memory (06 R191, R192; 09 R224). With an empty Exec they change nothing (02 R47). That
all of it happens in the step that issues the instruction is the model's choice of the moment of performance (log 38), and so is
that a narrow XCHG keeps the register's upper bytes (log 52). -/
def Obligations.Stores : Prop :=
  (∀ (s : State) (c : Iss) (m : MemMod) (fl : SFlags) (g : Guard) (dv : VReg) (ls : List Loc) (a : Vals64),
    c.ex = 0#32 → c.Room 0 → c.g.locRun dv.toNat (sizeRegs m.size) = .ok ls →
    (∀ ad : Addr, s.Issues 2 g c → c.g.addr ad (sizeBytes m.size) = .ok a →
      c.Ends (.st m fl g dv ad) s {} ∧ c.Ends (.stx m fl g dv ad) s {} ∧ c.Ends (.xchg m g dv ad) s {}) ∧
    (∀ ad : AddrL, s.Issues 3 g c → c.g.addrL ad = .ok a → c.Ends (.stL96 m fl g dv ad) s {})) ∧
  (∀ (s : State) (c : Iss) (m : MemMod) (fl : SFlags) (g : Guard) (dv : VReg) (ls : List Loc) (a : Vals64) (g1 : Group),
    c.g.recGrade = .off → c.ex ≠ 0#32 → c.g.locRun dv.toNat (sizeRegs m.size) = .ok ls →
    c.g.raiseFlags (c.flagsOf fl) = .ok g1 →
    let late (x : State) : State :=
      if (c.flagsOf fl).isEmpty then x else x.await (.store c.gid (c.flagsOf fl)) .storePerformed
    (∀ accs, c.access m.space .store c.ex a (sizeBytes m.size) = .ok accs →
      let st := late ((c.s.setGroup c.gid g1).storeBytes c.g.core c.gid m.space m.policy (!(c.flagsOf fl).isEmpty)
        (accs.flatMap (fun x => bytesAt x.places (c.g.runNat ls x.lane))))
      (∀ ad : Addr, s.Issues 2 g c → c.g.addr ad (sizeBytes m.size) = .ok a → c.EndsIn (.st m fl g dv ad) s st) ∧
      (∀ ad : AddrL, s.Issues 3 g c → c.g.addrL ad = .ok a → c.EndsIn (.stL96 m fl g dv ad) s st)) ∧
    (∀ (accs : List Acc) (ad : Addr), c.access m.space .atomic c.ex a (sizeBytes m.size) = .ok accs → s.Issues 2 g c →
      c.g.addr ad (sizeBytes m.size) = .ok a →
      let home := c.s.toHome c.g.core (accs.flatMap (·.places))
      c.EndsIn (.stx m fl g dv ad) s (late ((home.setGroup c.gid g1).rmw c.g.core c.gid m.space
        (fun l old => some (old ^^^ c.g.runNat ls l)) accs).1) ∧
      (let r := home.rmw c.g.core c.gid m.space (fun l _ => some (c.g.runNat ls l)) accs
       c.EndsIn (.xchg m g dv ad) s (r.1.await (.load c.gid c.sn c.ex (r.2.flatMap (fun o =>
          laneWrites ls o.1.lane (exchanged m.size (c.g.runNat ls o.1.lane) o.2.1))) []) .loadReturn)))) ∧
  (∀ (s : State) (c : Iss) (m : MemMod) (fl : SFlags) (g : Guard) (dv : VReg) (ls : List Loc) (a : Vals64) (g1 : Group)
    (accs : List Acc), c.g.recGrade ≠ .off → c.Room 2048 → c.ex ≠ 0#32 → c.g.locRun dv.toNat (sizeRegs m.size) = .ok ls →
    c.g.raiseFlags (c.flagsOf fl) = .ok g1 →
    let late (x : State) : State :=
      if (c.flagsOf fl).isEmpty then x else x.await (.store c.gid (c.flagsOf fl)) .storePerformed
    let old (r : State × List (Acc × Nat × Bool)) (u : Group) : Group :=
      if m.space = .priv then u else u.pushMemw m.size m.space (preOf r.2) none
    (c.access m.space .store c.ex a (sizeBytes m.size) = .ok accs →
      let p := c.s.preLoad c.g.core c.gid (accs.flatMap (·.places))
      let st := late ((p.setGroup c.gid (g1.pushStore p c.gid m accs (c.g.runNat ls))).storeBytes c.g.core c.gid m.space
        m.policy (!(c.flagsOf fl).isEmpty) (accs.flatMap (fun x => bytesAt x.places (c.g.runNat ls x.lane))))
      (∀ ad : Addr, s.Issues 2 g c → c.g.addr ad (sizeBytes m.size) = .ok a → c.EndsIn (.st m fl g dv ad) s st) ∧
      (∀ ad : AddrL, s.Issues 3 g c → c.g.addrL ad = .ok a → c.EndsIn (.stL96 m fl g dv ad) s st)) ∧
    (∀ ad : Addr, c.access m.space .atomic c.ex a (sizeBytes m.size) = .ok accs → s.Issues 2 g c →
      c.g.addr ad (sizeBytes m.size) = .ok a →
      let home := c.s.toHome c.g.core (accs.flatMap (·.places))
      (let r := (home.setGroup c.gid g1).rmw c.g.core c.gid m.space (fun l x => some (x ^^^ c.g.runNat ls l)) accs
       c.EndsIn (.stx m fl g dv ad) s (late (r.1.updGroup c.gid (old r)))) ∧
      (let r := home.rmw c.g.core c.gid m.space (fun l _ => some (c.g.runNat ls l)) accs
       c.EndsIn (.xchg m g dv ad) s ((r.1.updGroup c.gid (fun u => (old r u).recRun ls c.ex (m.space == .priv))).await
        (.load c.gid c.sn c.ex (r.2.flatMap (fun o =>
          laneWrites ls o.1.lane (exchanged m.size (c.g.runNat ls o.1.lane) o.2.1))) []) .loadReturn))))

/-- ATOM, ATOMCAS and RED: the lanes act one after another at the home, in the order of their numbers, and each lane's old
value returns later (06 R186, R193, R194); that they act in the step that issues the instruction is the model's choice of the
moment of performance (log 38). A lane whose page has moved changes nothing yet: it waits for its re-issue at the
page's new home (06 R187). In MARK and STEP grade the old values of the lanes that wrote are pushed (06 R195; 09 R224). -/
def Obligations.Atomics : Prop :=
  ∀ (s : State) (c : Iss) (fl : SFlags) (i : Instr) (x : Atomic) (accs : List Acc) (g1 : Group),
    (∃ g, (s.Issues 2 g c ∧ ((∃ op m d a b, i = .atom op m g d a b ∧ fl = ⟨false, false⟩) ∨
        (∃ m d a b, i = .atomcas m g d a b ∧ fl = ⟨false, false⟩) ∨ (∃ op m a b, i = .red op m fl g a b))) ∨
      (s.Issues 3 g c ∧ ∃ op m a lit, i = .redL96 op m fl g a lit)) →
    c.Room 2048 → c.g.atomicOf i = some (.ok x) →
    c.access (aspace x.m.space) .atomic c.ex x.addr (atomBytes x.m) = .ok accs →
    (c.ex = 0#32 → c.Ends i s {}) ∧
    (c.ex ≠ 0#32 → c.g.raiseFlags (c.flagsOf fl) = .ok g1 →
      let s1 := c.s.setGroup c.gid g1
      let s2 := if orderReleases x.m.order then s1.release g1.core c.gid x.m.scope else s1
      let moved (a : Acc) : Bool := x.m.space == .global && c.s.movedAt g1.ctx a.addr
      ((∀ a ∈ accs, moved a = false) →
        let r := s2.atHome g1.core c.gid x accs
        let back (t : State) : State :=
          t.await (.atomic c.gid c.sn (accMask (r.2.map (·.1))) (x.returns r.2) (c.flagsOf fl)) .atomicReturn
        (c.g.recGrade = .off → c.EndsIn i s
          (if r.2.isEmpty || (x.dst.isEmpty && (c.flagsOf fl).isEmpty) then r.1 else back r.1)) ∧
        (c.g.recGrade ≠ .off →
          let t := r.1.updGroup c.gid (fun u => (u.holdSpill.pushMemw (atomSize x.m) (aspace x.m.space)
            ((List.range 32).filterMap (fun l => (preOf r.2).find? (fun p => p.lane == l))) none).recRun x.dst c.ex false)
          c.EndsIn i s (if r.2.isEmpty then t else back t))) ∧
      ((∃ a ∈ accs, moved a = true) →
        let r := s2.atHome g1.core c.gid x (accs.filter (fun a => !moved a))
        ∃ t id, exec i s = .next t ∧
          t.pend.get id = some (.moved c.gid c.sn (x.later (accs.filter moved)) (c.flagsOf fl)) ∧
          .atomicMovedReissue id ∈ t.engine ∧ t.mem = r.1.mem ∧ t.polder = r.1.polder ∧ t.teams = r.1.teams))

/-- What an atomic writes for the old word of w bits and its operand: each operation of ATOM and RED by its row of the table,
modulo 2^w (06 R194). ATOMCAS writes the number in D's registers where the home holds B's, and nothing where it does not. -/
def Obligations.AtomicResults : Prop :=
  (∀ (m : AMod) (g : Group) (gd : Guard) (d : VReg) (a b : Src) (x : Atomic) (ls : List Loc) (y : Nat → Nat),
    g.locRun d.toNat (if m.w64 then 2 else 1) = .ok ls → g.atomB m b = .ok y →
    g.atomicOf (.atomcas m gd d a b) = some (.ok x) →
    ∀ l old, x.f l old = if old = y l then some (g.runNat ls l) else none) ∧
  ∀ (op : AOp) (m : AMod) (g : Group) (i : Instr) (x : Atomic) (y : Nat → Nat),
    (∃ gd a, (∃ d b, i = .atom op m gd d a b ∧ g.atomB m b = .ok y) ∨ (∃ fl b, i = .red op m fl gd a b ∧ g.atomB m b = .ok y) ∨
      (∃ fl lit, i = .redL96 op m fl gd a lit ∧ y = fun _ => (sext64 lit).toNat % 2 ^ (8 * atomBytes m))) →
    g.atomicOf i = some (.ok x) →
    ∀ l old, old < 2 ^ (8 * atomBytes m) →
      let w := 8 * atomBytes m
      let z (n : Nat) : Int := Int.bmod n (2 ^ w)
      x.f l old = some (match op with
        | .add => (old + y l) % 2 ^ w
        | .sub => (old + 2 ^ w - y l) % 2 ^ w
        | .and => old &&& y l
        | .or => old ||| y l
        | .xor => old ^^^ y l
        | .min => if z old ≤ z (y l) then old else y l
        | .minz => min old (y l)
        | .max => if z (y l) ≤ z old then old else y l
        | .maxz => max old (y l)
        | .exch => y l
        | .incw => if y l ≤ old then 0 else old + 1
        | .decw => if old = 0 ∨ y l < old then y l else old - 1)

/-- ENQ and DEQ after their release and commit: the lanes served, in order, and the block's TAIL or HEAD advanced by their
number; the status predicate tells who was served (06 R196, R198). -/
def Obligations.RingQueues : Prop :=
  ∀ (s : State) (c c1 : Iss) (sp : GSpace) (sc : Scope) (g : Guard) (pc : PReg) (a : KReg) (dv : VReg) (q0 q : QueueOp),
    s.Issues 2 g c →
    (c.ex = 0#32 → c.Room 0 → c.Ends (.enq sp sc g pc a dv) s {} ∧ c.Ends (.deq sp sc g pc a dv) s {}) ∧
    (c.ex ≠ 0#32 → ({ c with s := c.s.release c.g.core c.gid sc } : Iss).Commits c1 →
      (({ c with s := c.s.release c.g.core c.gid sc } : Iss).queueOp true (gspace sp) a dv = .ok q0 →
        c1.queueOp true (gspace sp) a dv = .ok q →
        c.EndsIn (.enq sp sc g pc a dv) s
          ((((c1.s.toHome c1.g.core (q.block ++ q.served.flatMap (·.places))).putBytes c1.g.core
              (q.served.flatMap (fun x => bytesAt x.places (c1.g.runNat q.locs x.lane)))).putBytes c1.g.core
              (bytesAt ((q.block.drop 16).take 8) (q.ring.tail + q.served.length))).updGroup c.gid
            (fun u => u.wrP pc.toNat c.ex (accMask q.served)))) ∧
      (({ c with s := c.s.release c.g.core c.gid sc } : Iss).queueOp false (gspace sp) a dv = .ok q0 →
        c1.queueOp false (gspace sp) a dv = .ok q →
        let h := c1.s.toHome c1.g.core (q.block ++ q.served.flatMap (·.places))
        c.EndsIn (.deq sp sc g pc a dv) s
          (((h.updGroup c.gid (fun u => u.applyWrites
              (q.served.flatMap (fun x => laneWrites q.locs x.lane (h.homeNat x.places))))).putBytes c1.g.core
              (bytesAt ((q.block.drop 24).take 8) (q.ring.head + q.served.length))).updGroup c.gid
            (fun u => u.wrP pc.toNat c.ex (accMask q.served)))))

/-! Row 9: history. -/

/-- COMMIT, MARK, GRADE, HSTASH, HQUERY: what each leaves on the history stack and reads from it (09 R251, R258 to R263).
REVERSE to a position that the history reaches releases the group's stores and starts the walk, once nothing of R240 is open:
the core's buffer holds no byte of the group, memory is what the release leaves, CXL memory holds it too, the polder, the core
stores and the group's registers are as they were (07 R207, R211); one to the group's own position releases the stores and lands at
once, with true in its predicate and its other registers as they were; an unreachable target writes false to it; none
counts an instruction (09 R240, R241, R242, R260). HQUERY that reads a damaged line raises 0x0403 (09 R263). -/
def Obligations.HistoryInstructions : Prop :=
  (∀ (s : State) (c : Iss),
    (s.Issues 1 always c → c.ex ≠ 0#32 →
      (∀ c1, c.Commits c1 → c.EndsIn .commit s c1.s ∧ c1.g.hsp = c1.g.hbase ∧ c1.g.cmark = c1.g.ic ∧ c1.g.hist.stack = []) ∧
      (c.g.recGrade = .off → c.EndsIn .mark s (c.s.setGroup c.gid c.g)) ∧
      (c.g.recGrade ≠ .off → c.Room 344 → ∃ t u sp tb, exec .mark s = .next t ∧ t.groups.get c.gid = some u ∧
        u.hist.stack = ⟨c.g.ic.setWidth 32, c.g.cur, .markrec (c.g.ic + 1#48) c.sn sp tb⟩ :: c.g.hist.stack ∧
        u.hsp = c.g.hsp + 344#57 ∧ u.hist.touched = Touched.none)) ∧
    (∀ (g : Guard) (gr : Grade) (c1 : Iss), s.Issues 2 g c → c.ex ≠ 0#32 → c.Commits c1 →
      c.EndsIn (.grade g gr) s (c1.s.setGroup c.gid { c1.g with grade := gr })) ∧
    (∀ (g : Guard) (a : KReg), s.Issues 2 g c → c.Room 16 →
      c.EndsIn (.hstash g a) s (c.s.setGroup c.gid (if c.ex = 0#32 ∨ c.g.recGrade = .off then c.g
        else c.g.push (.stash (c.g.rdK a.toNat)) c.g.cur))) ∧
    (∀ (q : Query) (g : Guard) (d a : KReg), s.Issues 2 g c → c.Room 48 → c.g.hist.bad = [] →
      c.Ends (.hquery q g d a) s { k :=
        let x : DWord × DWord := match q with
          | .used => ((c.g.hsp - c.g.hbase).setWidth 64, 1#64)
          | .room => ((c.g.hlim - c.g.hsp).setWidth 64, 1#64)
          | .floor => (c.g.floor.setWidth 64, 1#64)
          | .mark => (c.g.marks[(c.g.rdK a.toNat).toNat]?).elim (0#64, 0#64) (fun p => (p.setWidth 64, 1#64))
          | .stash => (c.g.hist.stack.findSome? (fun e => match e.kind with | .stash x => some x | _ => none)).elim
              (0#64, 0#64) (fun x => (x, 1#64))
        [(d.toNat, x.1), (d.toNat + 1, x.2)] }) ∧
    (∀ (q : Query) (g : Guard) (d a : KReg), s.Issues 2 g c → c.ex ≠ 0#32 →
      c.g.badWithin (c.g.queryDepth q (c.g.rdK a.toNat)) = true →
      exec (.hquery q g d a) s = .next (c.fault 0x0403#16 c.ex 0#64 0#64))) ∧
  (∀ (s : State) (c : Iss) (g : Guard) (d : PReg) (a b : KReg), s.Issues 2 g c → c.ex ≠ 0#32 →
    let released (t : State) : Prop := t.mem = (c.s.release c.g.core c.gid .device).mem ∧ t.polder = s.polder ∧
      t.teams = s.teams ∧ (∀ x ∈ t.pcache, x.2 = []) ∧
      ∀ w ∈ (t.core c.g.core).wcb, ∀ y ∈ w.bytes, c.gid ∉ y.2.writers
    (∀ land rounded, c.g.landing (c.g.rdK a.toNat) = some (land, rounded) → c.s.mayReverse c.gid c.g = true →
      c.g.hsp.toNat ≤ c.g.hlim.toNat → c.g.Holds 0 → (c.g.rdK a.toNat).setWidth 48 ≠ c.g.ic →
      ∃ t u r, exec (.reverse g d a b) s = .next t ∧ t.groups.get c.gid = some u ∧ u.dir = true ∧ u.ic = c.g.ic ∧
        u.hist.rev = some r ∧ r.target = (c.g.rdK a.toNat).setWidth 48 ∧ r.land = land ∧ r.rounded = rounded ∧
        r.info = some (c.g.rdK b.toNat) ∧ r.dst = some d ∧ u.v = c.g.v ∧ u.k = c.g.k ∧ u.p = c.g.p ∧ u.sat = c.g.sat ∧
        u.hist.stack = c.g.hist.stack ∧ u.splits.get c.sn = c.g.splits.get c.sn ∧ released t) ∧
    (∀ land rounded, c.g.landing (c.g.rdK a.toNat) = some (land, rounded) → c.s.mayReverse c.gid c.g = false →
      exec (.reverse g d a b) s = .next s) ∧
    (∀ land rounded, c.g.landing (c.g.rdK a.toNat) = some (land, rounded) → c.s.mayReverse c.gid c.g = true →
      c.g.hsp.toNat ≤ c.g.hlim.toNat → c.g.Holds 0 → (c.g.rdK a.toNat).setWidth 48 = c.g.ic →
      ∃ t u, exec (.reverse g d a b) s = .next t ∧ t.groups.get c.gid = some u ∧ u.dir = false ∧ u.ic = c.g.ic ∧
        u.hist.rev = none ∧ u.rvinfo = c.g.rdK b.toNat &&& 0x3FFFFFFFFFFFFFFF#64 ∧ u.v = c.g.v ∧ u.k = c.g.k ∧ released t ∧
        (d.toNat < 63 → u.rdP d.toNat &&& c.g.launched = c.g.launched)) ∧
    (c.g.landing (c.g.rdK a.toNat) = none → c.g.hsp.toNat ≤ c.g.hlim.toNat → c.g.Holds 0 →
      ∃ t u, exec (.reverse g d a b) s = .next t ∧ t.groups.get c.gid = some u ∧ u.ic = c.g.ic ∧
        u.rdP d.toNat = (if d.toNat = 63 then fullMask else c.g.rdP d.toNat &&& ~~~c.ex)))

/-! Row C: the matrix engine. -/

/-- MMA, MMAS and MMAX with slots they accept, in a group whose 32 lanes all issue: the operation is queued with the
elements of its result, which the tile takes later. Each element of the area written goes through its blocks in ascending depth,
from its old value or zero: the exact products of what the fragments' bits hold, summed exactly, scaled, rounded once and added (11
R282 to R284, R288, R289); that in a sparse block only the products at the depths that an index names count is the model's choice
(log 52). Registers, tiles and memory are as they were; while an operation of the tile is pending they wait (11 R278, R285, R296).
Slots that they do not accept are 0x0005, an entry to emulation; lanes that do not all issue 0x0501; a tile beyond the team's
allotment 0x0502 (11 R277, R290; 02 R55). -/
def Obligations.MatrixMultiplies : Prop :=
  (∀ (x : Mat) (g : Group) (sa sb : FSlot) (va vb : Nat) (start : Bool) (old : Cells 32) (A B : Nat → Nat → Nat),
    x.accepts sa sb = true →
    let bits := slotBits sa
    let per := 32 / bits
    let bitsOf (width r l j : Nat) : Nat := (g.v.get (32 * r + l)).toNat / 2 ^ (width * j) % 2 ^ width
    (∀ r l j, r < 32 → l < 32 → j < per →
      A (2 * r + j / (per / 2)) (32 * (j % (per / 2)) + l) = bitsOf bits (va + r) l j) →
    (∀ r l j, r < (if x = .sparse then 64 else 32) → l < 32 → j < per →
      B (16 * per * (r / 32) + 32 * (j % (per / 2)) + l) (2 * (r % 32) + j / (per / 2)) = bitsOf bits (vb + r) l j) →
    let area : Nat × Nat × Nat := match x with
      | .dense (some q) => (32, q.toNat / 2 * 32, q.toNat % 2 * 32)
      | _ => (64, 0, 0)
    let blocks : Nat := match x with
      | .dense _ => if bits = 16 then 1 else 2
      | .sparse => if bits = 16 then 2 else 4
      | .mx => 4
    let products (m n b : Nat) : List (FVal × FVal) := match x with
      | .sparse => (List.range 16).map (fun i =>
          let k := 16 * b + i
          let nib := m * (if bits = 16 then 16 else 32) + k / 2
          let index := bitsOf 4 (va + 32 + nib / 256) (nib / 8 % 32) (nib % 8) / 2 ^ (2 * (k % 2)) % 4
          (slotVal sa (A m k), slotVal sb (B (4 * (k / 2) + index) n)))
      | _ => (List.range 32).map (fun i => (slotVal sa (A m (32 * b + i)), slotVal sb (B (32 * b + i) n)))
    let factor (m n b : Nat) : Option (Nat × Int) := match x with
      | .mx =>
        let p := bitsOf 8 (va + 32 + m / 32) (m % 32) b
        let q := bitsOf 8 (vb + 32 + n / 32) (n % 32) b
        if p = 0xFF ∨ q = 0xFF then none else some (1, (p : Int) + q - 254)
      | _ => some (sa.scaleOf.1 * sb.scaleOf.1, sa.scaleOf.2 + sb.scaleOf.2)
    let place (m n : Nat) : Nat := 64 * (area.2.1 + m) + area.2.2 + n
    let r := x.result g sa sb va vb start old
    ∃ f : Nat → Nat → Nat → Nat × Bool,
      (∀ m n, m < area.1 → n < area.1 →
        f m n 0 = (if start then 0 else (old.get (place m n)).toNat, false) ∧
        ∀ b, b < blocks → MatStep (products m n b) (factor m n b) (f m n b).1 (f m n (b + 1))) ∧
      r.1 = (List.range (area.1 * area.1)).map (fun i => (place (i / area.1) (i % area.1),
        w32 (f (i / area.1) (i % area.1) blocks).1)) ∧
      (r.2 = true ↔ ∃ m n b, m < area.1 ∧ n < area.1 ∧ b < blocks ∧ (f m n (b + 1)).2 = true)) ∧
  ∀ (s : State) (c : Iss) (x : Mat) (st : Bool) (g : Guard) (d : TileReg) (a b : VReg) (fa fb : Slot) (i : Instr) (tm : Team),
    ((∃ small, x = .dense small ∧ i = .mma small st g d a b fa fb) ∨ (x = .sparse ∧ i = .mmas st g d a b fa fb) ∨
      (x = .mx ∧ i = .mmax st g d a b fa fb)) →
    s.Issues 2 g c → s.teams.get c.g.team = some tm →
    let accepted : Prop := x.accepts (s.slot c.g.grid fa.toNat) (s.slot c.g.grid fb.toNat) = true
    let whole : Prop := c.g.launched = fullMask ∧ c.sp.mask = fullMask ∧ c.ex = fullMask
    (¬accepted → exec i s = .next (c.s.emulate c.gid c.g c.sp 0x0005#16 c.pc (c.s.rawParcel c.g.ctx c.pc)
      (c.s.rawParcel c.g.ctx (c.pc + 4#57)) (c.s.rawParcel c.g.ctx (c.pc + 8#57)) 2 false c.ex)) ∧
    (accepted → ¬whole → exec i s = .next (c.fault 0x0501#16 c.ex 0#64 0#64)) ∧
    (accepted → whole → a.toNat + (x.regsOf (slotBits (s.slot c.g.grid fa.toNat))).1 ≤ c.g.regs →
      b.toNat + (x.regsOf (slotBits (s.slot c.g.grid fa.toNat))).2 ≤ c.g.regs →
      (tm.accs ≤ d.toNat → exec i s = .next (c.fault 0x0502#16 c.ex 0#64 0#64)) ∧
      (d.toNat < tm.accs → (∃ m ∈ (s.core c.g.core).mq, m.team = c.g.team ∧ m.tile = d.toNat) → exec i s = .next s) ∧
      (d.toNat < tm.accs → c.Room 16416 →
        (∀ m ∈ (s.core c.g.core).mq, ¬(m.team = c.g.team ∧ m.tile = d.toNat) ∧ ¬(m.gid = c.gid ∧ m.sat = true)) →
        let r := x.result c.g (s.slot c.g.grid fa.toNat) (s.slot c.g.grid fb.toNat) a.toNat b.toNat st
          (s.tile c.g.team d.toNat)
        ∃ t u, exec i s = .next t ∧ t.groups.get c.gid = some u ∧ u.v = c.g.v ∧ u.k = c.g.k ∧ u.p = c.g.p ∧
          u.sat = c.g.sat ∧ t.mem = s.mem ∧ t.teams = s.teams ∧
          (t.core c.g.core).mq = (s.core c.g.core).mq ++ [⟨c.gid, c.g.team, d.toNat, r.1, r.2⟩] ∧
          .matrixResult c.g.core ∈ t.engine))

/-- ACCZ, ACCMOV, ACCLD and ACCST: zeroed, copied, moved from and to lane registers, and loaded from and stored to memory
element by element (11 R298 to R303). While an operation of a tile that they name is pending they wait (11 R278); with an
empty Exec they change nothing. ACCST stores each element's converted bytes at its places, in the polder, the core store and
global memory alike, leaves every other place as it was, and sets the format's bit of %sat where a value was limited (11
R302). That ACCLD takes its values, and that ACCST's stores are performed at their home, in the step that issues the instruction is
the model's choice (logs 9 and 38). -/
def Obligations.Accumulators : Prop :=
  ∀ (s : State) (c : Iss) (g : Guard) (tm : Team), s.Issues 2 g c → c.s.teams.get c.g.team = some tm →
    let busy (ts : List Nat) : Prop := ∃ m ∈ (s.core c.g.core).mq, m.team = c.g.team ∧ m.tile ∈ ts
    (∀ (d : TileReg) (n : BitVec 3), d.toNat + n.toNat < tm.accs →
      let ts := (List.range (n.toNat + 1)).map (d.toNat + ·)
      (c.ex = 0#32 → c.Room 0 → c.Ends (.accz g d n) s {}) ∧
      (c.ex ≠ 0#32 → busy ts → exec (.accz g d n) s = .next s) ∧
      (c.ex ≠ 0#32 → ¬busy ts → c.Room (8 * 16400) →
        ∃ t u, exec (.accz g d n) s = .next t ∧ t.mem = s.mem ∧ t.polder = s.polder ∧ t.teams.get c.g.team = some { tm with
          acc := tm.acc.clear (4096 * d.toNat) (4096 * (d.toNat + n.toNat + 1)) } ∧
          (∀ k, k ≠ c.g.team → t.teams.get k = s.teams.get k) ∧
          t.groups.get c.gid = some u ∧ u.v = c.g.v ∧ u.k = c.g.k ∧ u.p = c.g.p ∧ u.sat = c.g.sat)) ∧
    (∀ d a : TileReg, d.toNat < tm.accs → a.toNat < tm.accs →
      (c.ex ≠ 0#32 → d ≠ a → busy [d.toNat, a.toNat] → exec (.accmov g (.cc d a)) s = .next s) ∧
      (c.ex ≠ 0#32 → d ≠ a → ¬busy [d.toNat, a.toNat] → c.Room 16400 →
        c.EndsIn (.accmov g (.cc d a)) s (c.setTile c.g d.toNat (c.s.tile c.g.team a.toNat))) ∧
      (c.ex = 0#32 ∨ d = a → c.Room 0 → c.Ends (.accmov g (.cc d a)) s {})) ∧
    (∀ (q : BitVec 2) (v : VReg) (a : TileReg), c.g.launched = fullMask → c.sp.mask = fullMask → c.ex = fullMask →
      v.toNat + 32 ≤ c.g.regs → a.toNat < tm.accs →
      (busy [a.toNat] → exec (.accmov g (.rd q v a)) s = .next s ∧ exec (.accmov g (.wr q a v)) s = .next s) ∧
      (¬busy [a.toNat] →
        (c.Room 4608 → c.Ends (.accmov g (.rd q v a)) s { v := (List.range 32).map (fun r => (Loc.own (v.toNat + r), fun l =>
          (c.s.tile c.g.team a.toNat).get (64 * ((if q.getLsbD 1 then 32 else 0) + r) + (if q.getLsbD 0 then 32 else 0) + l))) }) ∧
        (c.Room 16400 → c.EndsIn (.accmov g (.wr q a v)) s (c.setTile c.g a.toNat (putEls (c.s.tile c.g.team a.toNat)
          ((List.range 1024).map (fun i =>
            (quadEl q (i / 32) (i % 32), c.g.v.get (32 * (v.toNat + i / 32) + i % 32))))))))) ∧
    (∀ (sp : ASpace) (d : TileReg) (a b : KReg) (slot : Slot),
      let sl := s.slot c.g.grid slot.toNat
      d.toNat < tm.accs → sl.sound = true → sl.scale ≠ 1#8 →
      (∀ (f : Fmt), elemFmt sl.elem = some f →
        (c.ex = 0#32 → c.Room 0 → c.Ends (.accld sp g d a b slot) s {}) ∧
        (∀ accs, c.ex ≠ 0#32 →
          c.tileAccess (aspace sp) .load (c.g.rdK a.toNat) (blocksOf (c.g.rdK b.toNat)) (elemBytes sl.elem) = .ok accs →
          (busy [d.toNat] → exec (.accld sp g d a b slot) s = .next s) ∧
          (¬busy [d.toNat] → c.Room 16416 →
            let r := c.s.takeLoad c.g.core c.gid ⟨.b32, aspace sp, .nl1⟩ accs
            let els := r.2.map (fun x =>
              (x.1, limitF32 (FVal.mul (f.val x.2) (.fin false sl.scaleOf.1 sl.scaleOf.2))))
            c.EndsIn (.accld sp g d a b slot) s (({ c with s := r.1 } : Iss).setTile
              (c.g.satHit satF32 (els.any (fun e => e.2.2))) d.toNat (putEls [] (els.map (fun e => (e.1, w32 e.2.1)))))))) ∧
      (∀ (rm : Rm) (fl : SFlags), (elemFmt sl.elem).isSome = true ∨ sl.elem = 6#8 →
        (c.ex = 0#32 → c.Room 0 → c.Ends (.accst rm sp fl g d a b slot) s {}) ∧
        (∀ accs, c.ex ≠ 0#32 →
          c.tileAccess (aspace sp) .store (c.g.rdK a.toNat) (blocksOf (c.g.rdK b.toNat)) (elemBytes sl.elem) = .ok accs →
          (busy [d.toNat] → exec (.accst rm sp fl g d a b slot) s = .next s) ∧
          (∀ (c1 : Iss) (g0 g1 : Group), ¬busy [d.toNat] → c.g.raiseFlags (c.flagsOf fl) = .ok g0 → c.Commits c1 →
            c1.g.raiseFlags (c.flagsOf fl) = .ok g1 →
            let out (i : Nat) : Nat × Bool := convertOut sl rm ((c1.s.tile c1.g.team d.toNat).get i)
            let g2 := { g1 with sat := if accs.any (fun x => (out x.lane).2) then g1.sat ||| BitVec.twoPow 8 (elemSat sl.elem)
                                       else g1.sat }
            let ps := accs.flatMap (·.places)
            let w := (c1.s.setGroup c.gid g2).storeBytes g1.core c.gid (aspace sp) .nl1 false
              (accs.flatMap (fun x => bytesAt x.places (out x.lane).1))
            c.EndsIn (.accst rm sp fl g d a b slot) s
              (if (c.flagsOf fl).isEmpty then w else w.await (.store c.gid (c.flagsOf fl)) .storePerformed) ∧
            (∃ u, w.groups.get c.gid = some u ∧ u.sat = g2.sat) ∧
            (ps.Nodup → (∀ p ∈ ps, ∀ t o, p = Place.cs t o → (c1.s.teams.get t).isSome = true) →
              (∀ p ∈ ps, ∀ i o, p ≠ Place.scr i o) →
              (∀ x ∈ accs, w.homeNat x.places = (out x.lane).1 % 256 ^ x.places.length) ∧
              (∀ p, p ∉ ps →
                w.homeRead p = (if sp = .global then c1.s.preBypass g1.core ps else c1.s).homeRead p))))))

/-! Row D: copies, tiles, seals. -/

/-- CPY, CPYM and CPYG whose operands pass every check, with a queue entry and the ranges free: after the commit the copy is
registered with its ranges locked, its flags are raised, the seal of its source counts it, a sweep is under way, and no byte has
moved in memory, in the polder or in a core store; no register changes (12 R323 to R332). With an empty Exec they do nothing. -/
def Obligations.CopiesStart : Prop :=
  ∀ (s : State) (c c1 : Iss) (m : CpyMod) (k : CopyKind) (i : Instr) (desc : Option Desc) (src dst : DWord) (d : Desc)
    (r : CopyReq) (g0 g1 : Group),
    (s.Issues 2 m.g c ∧ desc = descOf (c.g.rdK (m.a.toNat + 2)) (c.g.rdK (m.a.toNat + 3)) ∧
        ((k = .one ∧ i = .cpy m) ∨ (∃ km, (k = .multi km ∧ i = .cpym m km) ∨ (k = .gather km ∧ i = .cpyg m km))) ∨
      (s.Issues 3 m.g c ∧ k = .one ∧ ∃ len : Word, i = .cpyL96 m len ∧ len.toNat % 16 = 0 ∧ 16 ≤ len.toNat ∧
        desc = some (Desc.raw len.toNat))) →
    (c.ex = 0#32 → c.Room 0 → c.Ends i s {}) ∧
    (src = c.g.rdK m.a.toNat → dst = c.g.rdK (m.a.toNat + 1) → c.ex ≠ 0#32 →
    c.copyCheck m k desc src dst = .ok (d, r) → c.g.raiseFlags (c.flagsOf m.fl) = .ok g0 →
    (c.s.copies.filter (fun x => x.2.core == c.g.core)).length < 32 → c.s.canRegister c.g.ctx r.ranges = true →
    c.Commits c1 → c1.g.raiseFlags (c.flagsOf m.fl) = .ok g1 →
    ∃ t u id w x, exec i s = .next t ∧ t.copies.get id = some x ∧ x.gid = c.gid ∧ x.pairs = r.pairs ∧ x.rows = d.rows ∧
      x.cols = d.cols ∧ x.srcL = d.srcL ∧ x.dstL = d.dstL ∧ x.locks = r.ranges ∧ x.flags = c.flagsOf m.fl ∧
      x.paused = false ∧ x.done = 0 ∧ t.sweeps.get w = some (.register id) ∧ .sweepComplete w ∈ t.engine ∧
      t.mem = c1.s.mem ∧ t.polder = c1.s.polder ∧ t.teams = c1.s.teams ∧ t.groups.get c.gid = some u ∧ u.flags = g1.flags ∧
      u.v = c1.g.v ∧ u.k = c1.g.k ∧ u.p = c1.g.p ∧
      (∀ n, r.tile = some n → t.seals.get n = (c1.s.seals.get n).map (fun y => { y with count := y.count + r.adds })) ∧
      ∀ n, r.tile ≠ some n → t.seals.get n = c1.s.seals.get n)

/-- TILEGET takes a free tile for the team in the state its mode names and answers its handle and address, or status 1 when the
context has none; a request answers its status; TILEPUT of a tile of the team starts the sweep that releases it and its split
waits, and while a routine runs for the tile or a sweep is under way it waits itself (12 R306 to R314). SURRENDER ends the
surrender routine of its handler frame after a commit. A refusal within the limit keeps the tile: the group leaves the routine,
the request served goes from the queue, its mailbox record says 0x11, its event fires, one refusal more is counted; one whose
team has ended only goes (12 R315); while a range lock covers the mailbox the refusal waits, which is the model's choice (log
51). Outside a handler SURRENDER is 0x0606, in another handler 0x0908. Otherwise a sweep for the handover is posted, and the
group waits for it in handler mode with every split; the tile passes on as the sweep ends (12 R317, R318, R322; 17 R390). With
an empty Exec they change nothing. -/
def Obligations.Tiles : Prop :=
  (∀ (s : State) (c c1 : Iss) (g : Guard), s.Issues 2 g c → c.ex ≠ 0#32 → c.Commits c1 →
    (∀ (m : TileMode) (d a b ev : KReg), c.tileWords m (c.g.rdK a.toNat) (c.g.rdK b.toNat) = .ok () →
      (c.g.inRoutine && (m == .neg || m == .req)) = false →
      (m ≠ .req → c1.s.pickTile c1.g.ctx c1.g.core (c1.g.rdK b.toNat).toNat = none →
        c.EndsIn (.tileget m g d a b ev) s (c1.s.putPair c.gid d 1#64 0#64)) ∧
      (∀ n x, m ≠ .req → c1.s.pickTile c1.g.ctx c1.g.core (c1.g.rdK b.toNat).toNat = some (n, x) →
        ∃ t y, exec (.tileget m g d a b ev) s = .next t ∧ t.tiles.get n = some y ∧ y.team = c1.g.team ∧ y.gid = c.gid ∧
          y.state = (match m with | .open_ => .open_ | .held => .held | _ => .negotiated) ∧ y.va = x.va ∧ y.gen = x.gen ∧
          (∀ k, k ≠ n → t.tiles.get k = c1.s.tiles.get k) ∧ t.mem = c1.s.mem ∧ t.polder = c1.s.polder ∧
          (∃ u, t.groups.get c.gid = some u ∧ ∃ v, (c1.s.putPair c.gid d (w64 (2 ^ 32 * handleOf n y)) (w64 x.va)).groups.get
            c.gid = some v ∧ u.k = v.k ∧ u.v = c1.g.v ∧ u.p = c1.g.p)) ∧
      (∀ n0 x0 n x, m = .req → c.s.byHandle c.g.ctx (fld (c.g.rdK b.toNat) 0 21) = .ok (n0, x0) →
        c1.s.byHandle c1.g.ctx (fld (c1.g.rdK b.toNat) 0 21) = .ok (n, x) →
        let r := c1.askTile n x (c1.g.rdK a.toNat) (c1.g.rdK b.toNat) (fld (c1.g.rdK ev.toNat) 0 16)
        c.EndsIn (.tileget m g d a b ev) s (r.2.putPair c.gid d (w64 (r.1 + 2 ^ 32 * handleOf n x))
          (w64 (if r.1 = 4 ∨ r.1 = 5 then x.va else 0))))) ∧
    (∀ (a : KReg) (n : Nat) (x : TileRec), c.s.byHandle c.g.ctx (fld (c.g.rdK a.toNat) 0 21) = .ok (n, x) →
      x.ownedBy c.g.team = true → (x.state == .open_ && (c.s.seals.get n).isSome) = false →
      (x.running ≠ none ∨ c.s.tileSweeping n = true → exec (.tileput g a) s = .next s) ∧
      (x.running = none → c.s.tileSweeping n = false →
        let r := c1.s.sweepTile c.gid n none
        c.EndsIn (.tileput g a) s (r.2.updGroup c.gid (fun u =>
          { u with splits := u.splits.upd c.sn (fun sp => { sp with wait := .sweep r.1 }) }))))) ∧
  (∀ (s : State) (c : Iss) (g : Guard), s.Issues 2 g c → c.ex = 0#32 → c.Room 0 →
    (∀ (m : TileMode) (d a b ev : KReg), c.Ends (.tileget m g d a b ev) s {}) ∧ (∀ a : KReg, c.Ends (.tileput g a) s {}) ∧
    (∀ o, c.Ends (.surrender o g) s {})) ∧
  (∀ (s : State) (c : Iss) (g : Guard) (o : SurrOut), s.Issues 2 g c → c.ex ≠ 0#32 →
    (c.g.frames = [] → exec (.surrender o g) s = .next (c.fault 0x0606#16 c.ex 0#64 0#64)) ∧
    (∀ f, c.g.frames.head? = some f → f.kind ≠ .surrender →
      exec (.surrender o g) s = .next (c.fault 0x0908#16 c.ex 0#64 0#64)) ∧
    (∀ f, c.g.frames.head? = some f → f.kind = .surrender → c.s.refuseWaits f.tile = true →
      exec (.surrender .refuse g) s = .next s)) ∧
  (∀ (s : State) (c c1 : Iss) (g : Guard) (o : SurrOut) (f : HFrame) (sum : Nat × Nat), s.Issues 2 g c →
    c.g.frames.head? = some f → f.kind = .surrender → c.ex ≠ 0#32 → c.summary o = .ok sum →
    (o = .refuse → c.s.refuseWaits f.tile = false) → c.Commits c1 →
    let s2 := c1.s.surrOutcome c.gid f (o == .refuse) sum
    ∀ g2, s2.groups.get c.gid = some g2 →
      ∃ t u, exec (.surrender o g) s = .next t ∧ { t with groups := s2.groups } = s2 ∧
        (∀ i, i ≠ c.gid → t.groups.get i = s2.groups.get i) ∧ t.groups.get c.gid = some u ∧
        { u with frames := g2.frames, hist := g2.hist } = g2 ∧ u.frames.map HFrame.uncounted = g2.frames.map HFrame.uncounted ∧
        (∀ x r q, o = .refuse → c1.s.tiles.get f.tile = some x → x.refusals < x.routine.limit →
          x.queue = r :: q → c1.s.teamLives r.team = true →
          t.tiles.get f.tile = some { x with running := none, queue := q, refusals := x.refusals + 1 } ∧
            t.sweeps = c1.s.sweeps ∧ u.frames = [] ∧ u.splits = f.aside ∧ u.parked = f.parkedAside ∧
            ((c1.s.teams.get r.team).isSome = true → ∃ tm, t.teams.get r.team = some tm ∧ tm.cs.readN r.mailbox 4 = 0x11) ∧
            (∀ cx e, c1.s.ctxs.get x.ctx = some cx → cx.events.get r.event = some e →
              ∃ tx e', t.ctxs.get x.ctx = some tx ∧ tx.events.get r.event = some e' ∧ e'.fired = true)) ∧
        (∀ x r q, o = .refuse → c1.s.tiles.get f.tile = some x → x.refusals < x.routine.limit → x.queue = r :: q →
          c1.s.teamLives r.team = false →
          t.tiles.get f.tile = some { x with running := none, queue := q } ∧ t.sweeps = c1.s.sweeps ∧ u.frames = []) ∧
        (o ≠ .refuse ∨ (∃ x, c1.s.tiles.get f.tile = some x ∧ x.routine.limit ≤ x.refusals) →
          ∃ id, t.sweeps.get id = some (.handover c.gid f.tile sum false) ∧ .sweepComplete id ∈ t.engine ∧
            t.tiles = c1.s.tiles ∧ t.teams = c1.s.teams ∧ u.frames.length = c.g.frames.length ∧ u.clause = none ∧
            ∀ n sp, u.splits.get n = some sp → sp.wait = .sweep id))

/-- SEAL puts a seal of count 0 on a range of an open tile and waits for its sweep; UNSEAL closes it, its lanes waiting as
records while counts are out; DROP lowers a count, at once in OFF grade and with the next commit otherwise (12 R332 to
R334). -/
def Obligations.Seals : Prop :=
  ∀ (s : State) (c : Iss) (g : Guard) (a : KReg), s.Issues 2 g c → c.ex ≠ 0#32 →
    (∀ (b : KReg) (c1 : Iss) (n off : Nat), (c.g.rdK b.toNat).toNat % 4096 = 0 → 4096 ≤ (c.g.rdK b.toNat).toNat →
      (c.g.rdK b.toNat).toNat ≤ 2 ^ 18 →
      c.s.polderOp c.g.ctx (c.g.rdK a.toNat) (c.g.rdK b.toNat).toNat = .ok (n, off) → off % 4096 = 0 →
      (∃ x, c.s.tiles.get n = some x ∧ x.state = .open_) → c.s.seals.get n = none → c.Commits c1 →
      ∃ t u id, exec (.seal g a b) s = .next t ∧ t.seals.get n = some ⟨n, off, (c.g.rdK b.toNat).toNat, 0, false, []⟩ ∧
        t.sweeps.get id = some (.seal c.gid) ∧ .sweepComplete id ∈ t.engine ∧ t.groups.get c.gid = some u ∧
        (u.splits.get c.sn).map (·.wait) = some (.sweep id)) ∧
    (∀ (n : Nat), c.g.inHandler = false → c.sealAt a = .ok (n, none) → c.Room 0 → c.Ends (.unseal g a) s {}) ∧
    (∀ (c1 : Iss) (n : Nat) (x y : SealRec), c.g.inHandler = false → c.sealAt a = .ok (n, some x) → c.Commits c1 →
      c1.s.seals.get n = some y → c.s.seals.get n = some x →
      (c.g.drops.filter (fun d => d.1 == n && d.2 == x.off)).length < x.count →
      ∃ t y', exec (.unseal g a) s = .next t ∧ t.seals.get n = some y' ∧ y'.closing = true ∧ y'.count = y.count ∧
        y'.waiters.length = y.waiters.length + (lanesOf c.ex).length) ∧
    (∀ (c1 : Iss) (n : Nat) (x : SealRec), c.g.inHandler = false → c.sealAt a = .ok (n, some x) → c.Commits c1 →
      c.s.seals.get n = some x → x.count ≤ (c.g.drops.filter (fun d => d.1 == n && d.2 == x.off)).length →
      c.EndsIn (.unseal g a) s (({ c1.s with seals := c1.s.seals.upd n (fun y => { y with closing := true }) }).sealCheck n)) ∧
    (∀ (n : Nat) (x : SealRec), c.sealAt a = .ok (n, some x) → c.Room 0 →
      (c.g.grade = .off → c.EndsIn (.drop g a) s (c.s.lowerSeal (n, x.off))) ∧
      (c.g.grade ≠ .off → c.g.drops.length < 16 →
        c.EndsIn (.drop g a) s (c.s.setGroup c.gid { c.g with drops := c.g.drops ++ [(n, x.off)] })))

/-! Row E: tasks, events, registers, successors, messages, batches. -/

/-- SPAWN: after its commit it makes one record for each lane of Exec that the pool takes, lowest first, with the target,
the binding and the lane's registers, and writes true to D in exactly those lanes (14 R345 to R348, R361). -/
def Obligations.Spawns : Prop :=
  ∀ (s : State) (c c1 : Iss) (bind : Bind) (g : Guard) (d : PReg) (b : VReg) (n : BitVec 5) (ls : List Loc) (i : Instr)
    (t : CAddr) (gr : Grid),
    ((∃ a : KReg, s.Issues 2 g c ∧ i = .spawn bind g d a b n ∧ t = (c.g.rdK a.toNat).setWidth 57) ∨
      (∃ off : Word, s.Issues 3 g c ∧ i = .spawnL96 bind g d off b n ∧ t = c.pc + (off.signExtend 64).setWidth 57)) →
    c.g.locRun b.toNat n.toNat = .ok ls →
    (c.ex = 0#32 → c.Room 0 → c.Ends i s {}) ∧
    (c.ex ≠ 0#32 → c.s.isHeader c.g.ctx t = .ok true → (c.s.depthFirst c.g.ctx && c.g.spawnHold) = false → c.Commits c1 →
      c1.s.grids.get c1.g.grid = some gr →
      let lanes := (lanesOf c.ex).take (c1.s.poolRoom c1.g.ctx)
      let rs := lanes.map (fun l => (⟨c1.g.grid, t, bind, b.toNat, gr.lrec.regs, l,
        match bind with | .team => c1.g.teamNo | .cluster => c1.g.clusterNo | .grid => 0,
        ls.map (fun r => c1.g.rdV r l), c1.g.team, 0⟩ : Rec))
      c.EndsIn i s (((c1.s.updGroup c.gid (fun u => u.wrP d.toNat c.ex (maskOf (fun l => lanes.contains l)))).holdSpawn c.gid
        c1.g.ctx).makeReady c1.g.ctx rs))

/-- EVNEW allocates a free name, the lowest (which of the free ones is the model's choice, log 33), with bit 32 when the
device's table of 4,096 is full; EVFREE frees a name on which nothing waits; EVSIG, its stores visible at its scope, fires a
pending event and makes its records ready, and leaves one that has fired (14 R353, R354, R362; 07 R212). -/
def Obligations.Events : Prop :=
  ∀ (s : State) (c : Iss) (g : Guard) (cx : Ctx), s.Issues 2 g c → c.ex ≠ 0#32 → c.s.ctxs.get c.g.ctx = some cx →
    (∀ (d : KReg) (n : Nat), c.Room 24 → 1 ≤ n → n ≤ 65535 → cx.events.get n = none →
      (∀ m, 1 ≤ m → m < n → (cx.events.get m).isSome = true) →
      let ovf := decide (4096 ≤ c.s.tableEvents)
      ∃ s1 g1, c.EndsIn (.evnew g d) s s1 ∧ { s1 with groups := c.s.groups } = c.s.updCtx c.g.ctx (fun x =>
          { x with events := x.events.put n ⟨false, ovf, []⟩ }) ∧ s1.groups.get c.gid = some g1 ∧
        c.g.Did g1 c.ex (uniEffect d (w64 (n + if ovf then 2 ^ 32 else 0)))) ∧
    (∀ d a : KReg, c.Room 24 →
      let n := (c.g.rdK a.toNat).toNat % 2 ^ 16
      (cx.events.get n = none → c.Ends (.evfree g d a) s (uniEffect d 1#64)) ∧
      (∀ e, cx.events.get n = some e → e.waiters ≠ [] → c.Ends (.evfree g d a) s (uniEffect d 2#64)) ∧
      (∀ e, cx.events.get n = some e → e.waiters = [] →
        ∃ s1 g1, c.EndsIn (.evfree g d a) s s1 ∧ { s1 with groups := c.s.groups } = c.s.updCtx c.g.ctx (fun x =>
            { x with events := x.events.del n }) ∧ s1.groups.get c.gid = some g1 ∧ c.g.Did g1 c.ex (uniEffect d 0#64))) ∧
    (∀ (sc : Scope) (a : KReg) (c1 : Iss) (c1x : Ctx) (e e1 : Event),
      let n := (c.g.rdK a.toNat).toNat % 2 ^ 16
      cx.events.get n = some e → c.Commits c1 → c1.s.ctxs.get c1.g.ctx = some c1x → c1x.events.get n = some e1 →
      let w := c1.s.visible c1.g.core c.gid sc
      (e1.fired = true → c.EndsIn (.evsig sc g a) s w) ∧
      (e1.fired = false → c.EndsIn (.evsig sc g a) s ((w.updCtx c1.g.ctx (fun x => { x with
        events := x.events.put n { e1 with fired := true, waiters := [] } })).makeReady c1.g.ctx e1.waiters)))

/-- EVWAIT and CNTDEC: a fired event, or a task record at zero, lets the lanes go on after the commit; else they leave the
group as records of the wait, and the first wait of a task record puts the device's word into its WAITERS; CNTDEC decrements
lane after lane and tells in D which lane brought COUNT to zero (14 R348, R355, R356, R362). A task record is judged where
the group's own stores have reached it (07 R207, R215). A decrement of a task record whose COUNT is above one leaves COUNT
one lower; at one it leaves zero and makes the records that wait ready, in order, with WAITERS zero; at zero it changes
nothing (14 R356). With an empty Exec they change nothing. -/
def Obligations.Waits : Prop :=
  (∀ (s : State) (c c1 : Iss) (g : Guard), s.Issues 2 g c → c.ex ≠ 0#32 → c.g.inHandler = false →
    (∀ (bind : Bind) (a : KReg) (b : VReg) (n : BitVec 5) (ls : List Loc), c.g.locRun b.toNat n.toNat = .ok ls →
      let records := (lanesOf c.ex).map (fun l => c.g.record l c.nextPc bind b.toNat
        ((List.range n.toNat).map (fun i => Loc.own (b.toNat + i))) c.g.regs)
      let left (t : State) : Prop := ∀ u sp sp1, t.groups.get c.gid = some u → u.splits.get c.sn = some sp →
        c1.g.splits.get c.sn = some sp1 → sp.mask = sp1.mask &&& ~~~c.ex
      let name := (c.g.rdK a.toNat).toNat % 2 ^ 16
      (∀ cx e, c.s.ctxs.get c.g.ctx = some cx → cx.events.get name = some e → c.Commits c1 →
        (e.fired = true → c.EndsIn (.evwait false bind g a b n) s c1.s) ∧
        (e.fired = false → ∀ c1x e1, c1.s.ctxs.get c.g.ctx = some c1x → c1x.events.get name = some e1 →
          ∃ t tx e2, exec (.evwait false bind g a b n) s = .next t ∧ t.ctxs.get c.g.ctx = some tx ∧
            tx.events.get name = some e2 ∧ e2.waiters = e1.waiters ++ records ∧ left t)) ∧
      (∀ (sp : Space) (accs : List Acc), c.taskSpace (c.g.rdK a.toNat) = .ok sp →
        c.accessKIn tableOrder sp .atomic (c.g.rdK a.toNat) 32 = .ok accs →
        let ps := accs.flatMap (·.places)
        let r := c.released ps
        r.taskSound c.g.ctx ps = true → ({ c with s := r } : Iss).Commits c1 →
        (r.taskCount ps = 0 → c.EndsIn (.evwait true bind g a b n) s c1.s) ∧
        (∀ c1x, r.taskCount ps ≠ 0 → c1.s.ctxs.get c.g.ctx = some c1x →
          ∃ t w, exec (.evwait true bind g a b n) s = .next t ∧ t.taskWait c.g.ctx (taskPlace ps) = some w ∧ left t ∧
            w.recs = ((c1.s.taskWait c.g.ctx (taskPlace ps)).elim [] (·.recs)) ++ records ∧
            (c1.s.taskWait c.g.ctx (taskPlace ps) = none → w.word = Config.waitersWord c1.s.fresh ∧
              (ps.Nodup → ps.length = 32 → (∀ p ∈ ps, match p with | .glob _ => True | .pol _ => True | _ => False) →
                t.taskWord ps = (Config.waitersWord c1.s.fresh).toNat ∧ t.taskCount ps = c1.s.taskCount ps))))) ∧
    (∀ (sp : GSpace) (d : PReg) (a : Src) (v : Vals64) (accs : List Acc), c.g.src64 a = .ok v →
      (∀ l, c.ex.getLsbD l = true → ∀ p, (c.s.ctxs.get c.g.ctx).bind (fun x => x.page ((v l).setWidth 57).toNat) = some p →
        p.target ≠ .refused) →
      c.access (gspace sp) .atomic c.ex v 32 = .ok accs →
      (∀ x ∈ accs, (c.released (accs.flatMap (·.places))).taskSound c.g.ctx x.places = true) → c.Commits c1 →
      let r := (c1.s.toHome c1.g.core (accs.flatMap (·.places))).decAll c1.g.core c1.g.ctx accs
      c.EndsIn (.cntdec sp g d a) s (r.1.updGroup c.gid (fun u => u.wrP d.toNat c.ex r.2)))) ∧
  (∀ (s : State) (c : Iss) (g : Guard), s.Issues 2 g c → c.ex = 0#32 → c.Room 0 →
    (∀ (cnt : Bool) (bind : Bind) (a : KReg) (b : VReg) (n : BitVec 5) (ls : List Loc), c.g.inHandler = false →
      c.g.locRun b.toNat n.toNat = .ok ls → c.Ends (.evwait cnt bind g a b n) s {}) ∧
    (∀ (sp : GSpace) (d : PReg) (a : Src) (v : Vals64), c.g.src64 a = .ok v → c.Ends (.cntdec sp g d a) s {})) ∧
  (∀ (s : State) (core ctx : Nat) (ps : List Place), 4 ≤ ps.length → ps.Nodup →
    (∀ p ∈ ps, match p with
      | .cs t _ => (s.teams.get t).isSome = true
      | .scr g _ => (s.groups.get g).isSome = true
      | _ => True) →
    let r := s.decTask core ctx ps
    (s.taskCount ps = 0 → r = (s, false)) ∧
    (1 < s.taskCount ps → r.2 = false ∧ r.1.taskCount ps = s.taskCount ps - 1) ∧
    (s.taskCount ps = 1 → r.2 = true ∧ r.1.taskCount ps = 0 ∧ r.1.taskWait ctx (taskPlace ps) = none ∧
      (∀ w, s.taskWait ctx (taskPlace ps) = some w → r.1.taskWord ps = 0 ∧
        r.1 = (((s.putBytes core (bytesAt (ps.take 4) 0)).putBytes core (bytesAt ((ps.drop 16).take 8) 0)).updCtx ctx
          (fun x => { x with taskWaits := x.taskWaits.filter (fun v => v.place != taskPlace ps) })).makeReady ctx w.recs)))

/-- BAR waits behind the instruction after a commit; GROW to a budget that the group has, or that its quadrant has free,
answers true and gives registers that read zero; one beyond the limit answers false; YIELD changes no register
(03 R72, R73, R82, R90; 14 R362). A GROW that finds its quadrant short, or others waiting in it, waits with its
clause kept and joins the queue (03 R72). In handler mode, whatever Exec is, the instructions that wait, BAR, GROW, EVWAIT,
UNSEAL and WAITPRED, raise 0x0907, and EXIT 0x0206 (04 R133; 17 R385). -/
def Obligations.BarriersAndBudgets : Prop :=
  (∀ (s : State) (c : Iss),
    (∀ c1, s.Issues 1 always c → c.ex ≠ 0#32 → c.g.inHandler = false → c.g.sat &&& c.g.satarm = 0#8 → c.Commits c1 →
      ∃ t u, exec .bar s = .next t ∧ c.Jumps c1.s c1.g u t ∧
        u.splits.get c.sn = (c1.g.splits.get c.sn).map (fun sp => { sp with pc := sp.pc + 4#57, wait := .bar c.pc }) ∧
        ∀ n, n ≠ c.sn → u.splits.get n = c1.g.splits.get n) ∧
    (∀ (g : Guard) (d : PReg) (n : BitVec 4), s.Issues 2 g c → c.g.inHandler = false → c.g.growFail ≠ some c.sn →
      c.g.grants = [] → c.Room 32 →
      let want := 16 * (n.toNat + 1)
      (c.ex = 0#32 → c.Ends (.grow g d n) s {}) ∧
      (c.ex ≠ 0#32 → want ≤ c.g.regs → c.Ends (.grow g d n) s (predEffect d fullMask)) ∧
      (c.ex ≠ 0#32 → c.g.regs < want → c.g.regLimit < want → c.Ends (.grow g d n) s (predEffect d 0#32)) ∧
      (c.ex ≠ 0#32 → c.g.regs < want → want ≤ c.g.regLimit → (∀ r ∈ c.s.growQ, r.quad ≠ c.g.quad) →
        want - c.g.regs ≤ c.s.quadFree c.g.quad →
        ∃ t u, exec (.grow g d n) s = .next t ∧ t.groups.get c.gid = some u ∧ u.regs = want ∧
          (∀ r l, r < c.g.regs → l < 32 → u.rdV (.own r) l = c.g.rdV (.own r) l) ∧
          (∀ r l, c.g.regs ≤ r → r < want → l < 32 → u.rdV (.own r) l = 0#32) ∧
          (d.toNat < 63 → u.rdP d.toNat &&& c.ex = c.ex))) ∧
    (s.Issues 1 always c → c.Room 0 → c.EndsIn .yield_ s (c.s.setGroup c.gid { c.g with yielded := true }))) ∧
  (∀ (s : State) (c : Iss) (g : Guard) (d : PReg) (n : BitVec 4), s.Issues 2 g c → c.g.inHandler = false →
    c.g.growFail ≠ some c.sn → c.g.grants = [] → c.ex ≠ 0#32 → c.g.regs < 16 * (n.toNat + 1) →
    16 * (n.toNat + 1) ≤ c.g.regLimit →
    ((∃ r ∈ c.s.growQ, r.quad = c.g.quad) ∨ c.s.quadFree c.g.quad < 16 * (n.toNat + 1) - c.g.regs) →
    ∃ t u sp, exec (.grow g d n) s = .next t ∧ t.growQ = s.growQ ++ [⟨c.g.quad, c.gid, c.sn, 16 * (n.toNat + 1)⟩] ∧
      t.groups.get c.gid = some u ∧ u.regs = c.g.regs ∧ u.ic = c.g.ic ∧ u.splits.get c.sn = some sp ∧ sp.pc = c.pc ∧
      sp.wait = .grow ∧ sp.mid = c.g.clause) ∧
  (∀ (s : State) (c : Iss) (n : Nat) (g : Guard), s.Issues n g c → c.g.inHandler = true →
    let raised (i : Instr) : Prop := exec i s = .next (c.fault 0x0907#16 c.ex 0#64 0#64)
    (n = 1 → g = always → raised .bar ∧ raised .waitpred ∧
      exec .exit s = .next (c.fault 0x0206#16 c.ex 0#64 0#64)) ∧
    (n = 2 → (∀ d k, raised (.grow g d k)) ∧ (∀ cnt bind a b k, raised (.evwait cnt bind g a b k)) ∧
      ∀ a, raised (.unseal g a)))

/-- NOP in its three lengths retires, counted outside a handler, and leaves everything else as it was, the history stack
too; the literal may be anything; its words are the spec's (17 R403). -/
def Obligations.NopDoesNothing : Prop :=
  (∀ (s : State) (c : Iss) (i : Instr),
    (s.Issues 1 always c ∧ i = .nop) ∨ (∃ g, s.Issues 2 g c ∧ i = .nopW g) ∨ (∃ g lit, s.Issues 3 g c ∧ i = .nopL g lit) →
    c.Room 0 →
    c.Ends i s {} ∧ ∀ t u, exec i s = .next t → t.groups.get c.gid = some u → u.hist.stack = c.g.hist.stack ∧
      u.hsp = c.g.hsp ∧ u.ic = if c.counts then c.g.ic + 1#48 else c.g.ic) ∧
  (∀ p1 p2 : Word, decode true 0x000003D0#32 p1 p2 = .ok .nop) ∧
  (∀ p2 : Word, decode true 0x000003D1#32 0x40003F00#32 p2 = .ok (.nopW always)) ∧
  (∀ lit : Word, decode true 0x000003D2#32 (lit.extractLsb' 30 2 ++ 0x00003F00#30) (2#2 ++ lit.extractLsb' 0 30) =
    .ok (.nopL always lit))

/-- SEND posts one frame of 16 registers for each lane of Exec that the core's buffer takes, in order, with sequence numbers
that count up for each destination, each on the link that the route table gives it; D reads false in exactly the lanes that
it did not take (14 R359, R362; 19 R429, R430). -/
def Obligations.Messages : Prop :=
  ∀ (s : State) (c c1 : Iss) (fl : SFlags) (g : Guard) (d : VReg) (a b : KReg) (p : PReg) (ls : List Loc) (g0 g1 : Group),
    s.Issues 2 g c → c.g.locRun d.toNat 16 = .ok ls →
    (c.ex = 0#32 → c.Room 0 → c.Ends (.send fl g d a b p) s {}) ∧
    (c.ex ≠ 0#32 → c.g.raiseFlags (c.flagsOf fl) = .ok g0 → c.Commits c1 → c1.g.raiseFlags (c.flagsOf fl) = .ok g1 →
      (∀ x ∈ c1.s.txSeq, x.2 < 2 ^ 64) →
      let lanes := (lanesOf c.ex).take (64 - (c1.s.sent.filter (fun m => m.core == c1.g.core)).length)
      let dst := (c1.g.rdK b.toNat).toNat % 2 ^ 12
      let seq := (c1.s.txSeq.get dst).getD 0
      let frames : List Frame := lanes.zipIdx.map (fun x =>
        { dst := dst, src := c1.s.deviceNo, block := (c1.g.rdK a.toNat).toNat % 2 ^ 57, sctx := c1.g.ctx,
          seq := (seq + x.2) % 2 ^ 64, sgrid := c1.g.gridNo, data := ls.map (fun r => c1.g.rdV r x.1) })
      ∃ t u batch, exec (.send fl g d a b p) s = .next t ∧ t.groups.get c.gid = some u ∧
        t.sent = c1.s.sent ++ frames.map (fun f => ⟨f, c.gid, c1.g.ctx, c.flagsOf fl, c1.g.core, batch⟩) ∧
        t.wire = c1.s.wire ++ frames.filterMap (fun f => (c1.s.routeOf f).map (fun l => Wire.frame l (Frame.bytes f))) ∧
        (p.toNat < 63 → u.rdP p.toNat = c1.g.rdP p.toNat &&& ~~~(c.ex &&& ~~~(maskOf (fun l => lanes.contains l)))))

/-- The conflict batcher: CBOPEN opens a free stream; CBPUSH places constraints in order into the first open batch that
shares no body with them, or a new one, until one cannot be placed; CBPULL hands the oldest closed batch to the lowest
lanes; CBDONE retires an outstanding batch; CBFLUSH closes the open batches (15 R364 to R375). The batching rule: a batch
takes a constraint only below 32 members and when it holds none of the constraint's bodies; the constraint then is its
newest member and its bodies are the batch's (15 R365, R366). -/
def Obligations.ConflictBatches : Prop :=
  (∀ (s : State) (c c1 : Iss) (g : Guard) (n : BitVec 3), s.Issues 2 g c → c.ex ≠ 0#32 → c.Commits c1 →
    c.s.stream c.g.ctx n.toNat = c1.s.stream c1.g.ctx n.toNat →
    let x := c1.s.stream c1.g.ctx n.toNat
    let keep (y : Stream) : State := c1.s.setStream c1.g.ctx n.toNat y
    (∀ d : KReg,
      (x.state = .free → c.EndsIn (.cbopen n g d) s ((keep ⟨.open_, c1.g.core, [], [], [], 0#32⟩).updGroup c.gid
        (fun u => u.wrK d.toNat 0#64))) ∧
      (x.state = .open_ → c.EndsIn (.cbopen n g d) s (c1.s.updGroup c.gid (fun u => u.wrK d.toNat 1#64))) ∧
      (x.state = .closing → c.EndsIn (.cbopen n g d) s (c1.s.updGroup c.gid (fun u => u.wrK d.toNat 2#64)))) ∧
    (∀ (k : BitVec 2) (d : PReg) (a b : VReg) (la : Loc) (lb : List Loc), x.state = .open_ → c.g.loc a.toNat = .ok la →
      c.g.locRun b.toNat (k.toNat + 1) = .ok lb →
      let r := x.placeAll ((lanesOf c.ex).map (fun l => (c1.g.rdV la l, lb.map (fun y => c1.g.rdV y l))))
      c.EndsIn (.cbpush n k g d a b) s ((keep r.1).updGroup c.gid (fun u => u.wrP d.toNat c.ex
        (maskOf (fun l => ((lanesOf c.ex).take r.2).contains l))))) ∧
    (∀ (d : VReg) (b : KReg) (p : PReg) (ld : Loc), c.g.loc d.toNat = .ok ld → x.state ≠ .free →
      (∀ y rest, x.outstanding.length < 8 → x.closed = y :: rest → y.members.length ≤ (lanesOf c.ex).length →
        c.EndsIn (.cbpull n g d b p) s
          ((keep { x with closed := rest, outstanding := x.outstanding ++ [y.number] }).updGroup c.gid (fun u =>
            ((u.wrV ld c.ex (fun l => y.members.getD ((lanesOf c.ex).idxOf l) 0xFFFFFFFF#32)).wrP p.toNat c.ex
              (maskOf (fun l => ((lanesOf c.ex).take y.members.length).contains l))).wrK b.toNat
              (w64 (y.number.toNat + 2 ^ 40 * y.members.length))))) ∧
      (∀ status : Nat, (status = 4 ∧ 8 ≤ x.outstanding.length) ∨
          (x.outstanding.length < 8 ∧ x.closed = [] ∧ status = (if x.state = .open_ then 1 else 2)) ∨
          (x.outstanding.length < 8 ∧ status = 3 ∧ ∃ y rest, x.closed = y :: rest ∧
            (lanesOf c.ex).length < y.members.length) →
        c.EndsIn (.cbpull n g d b p) s ((keep x.settle).updGroup c.gid (fun u => u.wrK b.toNat (w64 (2 ^ 32 * status)))))) ∧
    (∀ d a : KReg, x.state ≠ .free →
      let num := (c1.g.rdK a.toNat).setWidth 32
      (num ∈ x.outstanding → c.EndsIn (.cbdone n g d a) s
        ((keep ({ x with outstanding := x.outstanding.erase num }).settle).updGroup c.gid (fun u => u.wrK d.toNat 0#64))) ∧
      (num ∉ x.outstanding → c.EndsIn (.cbdone n g d a) s ((keep x).updGroup c.gid (fun u => u.wrK d.toNat 1#64)))) ∧
    (∀ (close : Bool) (d : KReg), x.state = .open_ →
      let k := min x.openBatches.length (16 - x.closed.length)
      let left := decide (k < x.openBatches.length)
      c.EndsIn (.cbflush n close g d) s ((keep { x with
          state := if close && !left then .closing else .open_
          openBatches := x.openBatches.drop k, closed := x.closed ++ x.openBatches.take k }).updGroup c.gid (fun u =>
        u.wrK d.toNat (w64 (k + (if left then 2 ^ 8 else 0) + (if close && !left then 2 ^ 9 else 0))))))) ∧
  (∀ (b : Batch) (bodies : List Word), b.takes bodies = true →
    b.members.length < 32 ∧ (∀ x ∈ bodies, x ∉ b.bodies) ∧
    ∀ id, (b.add id bodies).members = b.members ++ [id] ∧ (b.add id bodies).number = b.number ∧
      ∀ x, x ∈ (b.add id bodies).bodies ↔ x ∈ b.bodies ∨ x ∈ bodies)

/-! Row F: traps, returns, breakpoints, other groups. -/

/-- A precise fault parks its split with its clause kept for the replay and counts nothing; its record enters the context's
queue's ring, whose 64 bytes hold its fields at their offsets, or is held while the queue is full or the slot that comes next
holds a record still to be resolved; in handler mode, and for
0x0204, the whole group stops; every other byte of memory is as it was (17 R383, R384). Where the link to the ring has failed
the record is the double fault 0x0906 (17 R382; that it stands in the record's place is the model's reading, log 50). -/
def Obligations.PreciseFaults : Prop :=
  ∀ (s : State) (gid : Nat) (g : Group) (sn : Nat) (cause : Cause) (lanes : Mask) (a : CAddr) (dA dB : DWord) (n : Nat)
    (rt : Option KReg) (cx : Ctx), s.ctxs.get g.ctx = some cx →
    let t := s.toBerm gid g sn cause lanes a dA dB n rt
    let r : FaultRec :=
      { cause := cause, depth := g.frames.length, split := sn, precise := true, dir := g.dir,
        kind := g.frames.head?.map (·.kind), lanes := lanes, addr := a, ic := g.ic,
        locator := w64 (g.core + 2 ^ 8 * g.slot + 2 ^ 16 * g.ctx), gridNo := g.gridNo, teamNo := g.teamNo, detA := dA,
        detB := dB ||| (s.rawParcel g.ctx a).setWidth 64, reply := 0#64, gid := gid, parcels := n, replyTo := rt,
        was := (g.splits.get sn).elim .ready (·.wait), slot := 0, saved := [] }
    let at_ := cx.faultRing + 64 * (cx.faultTail % cx.faultCap)
    (s.copies = [] → (s.ringOpen cx = true ↔ cx.faults.length < cx.faultCap ∧
      ∀ f ∈ cx.faults, f.2.slot % cx.faultCap ≠ cx.faultTail % cx.faultCap)) ∧
    (∀ p, ¬(s.ringOpen cx = true ∧ at_ ≤ p ∧ p < at_ + 64) → t.mem.get p = s.mem.get p) ∧
      (s.ringOpen cx = true → s.failed = [] →
        t.mem.readN at_ 2 = cause.toNat ∧
        t.mem.readN (at_ + 2) 2 = g.frames.length % 4 + 4 * (sn % 4) + 16 + (if g.dir then 32 else 0) +
          64 * (g.frames.head?.elim 0 (fun f => f.kind.code)) ∧
        t.mem.readN (at_ + 4) 4 = lanes.toNat ∧ t.mem.readN (at_ + 8) 8 = a.toNat ∧ t.mem.readN (at_ + 16) 8 = g.ic.toNat ∧
        t.mem.readN (at_ + 24) 8 = r.locator.toNat ∧ t.mem.readN (at_ + 32) 4 = g.gridNo % 2 ^ 32 ∧
        t.mem.readN (at_ + 36) 4 = g.teamNo % 2 ^ 32 ∧ t.mem.readN (at_ + 40) 8 = dA.toNat ∧
        t.mem.readN (at_ + 48) 8 = r.detB.toNat ∧ t.mem.readN (at_ + 56) 8 = 0) ∧
      t.polder = s.polder ∧ t.teams = s.teams ∧ (∀ i, i ≠ gid → t.groups.get i = s.groups.get i) ∧
      (∃ u, t.groups.get gid = some u ∧
        { u with splits := g.splits, clause := g.clause, stopped := g.stopped } = g ∧
        u.splits.get sn = (g.splits.get sn).map (fun sp => { sp with
          wait := .parked s.nextId, mid := if g.cur = sn ∧ g.clause.isSome then g.clause else sp.mid }) ∧
        (∀ j, j ≠ sn → u.splits.get j = g.splits.get j) ∧ u.clause = (if g.cur = sn then none else g.clause) ∧
        u.stopped = (g.stopped || !g.frames.isEmpty || cause == 0x0204#16)) ∧
      ∃ tx, t.ctxs.get g.ctx = some tx ∧
        (s.ringOpen cx = true → tx.faults.get s.nextId = some (s.ringed cx r) ∧
          tx.faultLog = cx.faultLog ++ [s.ringed cx r] ∧ tx.faultTail = cx.faultTail + 1 ∧
          (s.failed = [] → s.ringed cx r = { r with slot := cx.faultTail })) ∧
        (s.ringOpen cx = false → tx.faults = cx.faults ∧ tx.faultHold.get s.nextId = some r)

/-- Entry to a handler at a clause header with room for its frame, at depth one or with every CXL link up: the splits stand
aside, one split holds the lanes given at the entry, with %cfr zero, and the window's uniform registers hold what the entry
reports, its predicates p56 the lanes of Exec and p57 to p62 false (17 R385, R386, R389). Its lane registers keep what the last
handler left in them, which is the model's choice (log 47). -/
def Obligations.HandlerEntry : Prop :=
  ∀ (s : State) (gid : Nat) (g : Group) (e : Entry), s.isHeader g.ctx e.pc = .ok true → g.hsp.toNat + 24 ≤ g.hlim.toNat →
    g.Holds 24 → (g.frames = [] ∨ s.failed = []) →
    ∃ t u f, s.enterHandler gid g e = t ∧ { t with groups := s.groups } = s ∧ t.groups.get gid = some u ∧
      u.frames = f :: g.frames ∧ f.kind = e.kind ∧ f.entry = e.pc ∧ f.split = g.cur ∧ f.at_ = e.at_ ∧ f.aside = g.splits ∧
      f.parkedAside = g.parked ∧ f.clauseAside = g.clause ∧ f.lanes = e.lanes ∧ f.budget = e.budget ∧ f.used = 0 ∧
      f.frameOpen = decide (g.recGrade = .step ∧ e.kind ≠ .historyFull) ∧ f.committed = false ∧
      u.splits = [(g.cur, { pc := e.pc, mask := e.lanes, cfrPc := 0#57, cfrIc := 0#48, wait := .ready, mid := none })] ∧
      u.parked = [] ∧ u.clause = none ∧ u.ic = g.ic ∧ u.v = g.v ∧ u.k = g.k ∧ u.p = g.p ∧
      (∀ i, i < 4 → u.rdK (56 + i) = e.w.getD i 0#64) ∧ u.rdK 60 = e.at_.setWidth 64 ∧
      u.rdK 61 = w64 (e.exec_.toNat + 2 ^ 32 * e.lanes.toNat) ∧ u.rdK 62 = g.ic.setWidth 64 ∧
      u.rdK 63 = w64 (g.frames.length + 1 + 4 * g.cur + 16 * e.kind.code) ∧ u.rdP 56 = e.exec_ ∧
      (∀ i, 57 ≤ i → i < 63 → u.rdP i = 0#32) ∧
      (∀ n l, n < 16 → l < 32 → u.rdV (.win n) l = if g.frames = [] then g.winV.get (32 * n + l) else g.rdV (.win n) l)

/-- TRAP commits and then raises the service request 0x0903 with its operand and its code, the split parked until Berm
answers in D (17 R384, R400). The entry of an
instruction that has no native meaning: with an emulation handler named, the group enters it with the cause and the first
parcel in w0; without one, a fault goes to Berm; at depth two it is 0x0902 (02 R55, R61; 17 R388, R389). BKPT without a
session goes on; with one attached its group halts and the event 0x0904 carries its tag (17 R402). -/
def Obligations.TrapsAndBreakpoints : Prop :=
  (∀ (s : State) (c c1 : Iss) (g : Guard) (d a : KReg) (code : Byte), s.Issues 2 g c →
    (c.ex = 0#32 → c.Room 0 → c.Ends (.trap g d a code) s {}) ∧
    (c.ex ≠ 0#32 → c.Commits c1 → exec (.trap g d a code) s = .next (c1.s.toBerm c.gid c1.g c.sn 0x0903#16 c.ex c.pc
      (c1.g.rdK a.toNat) (code.setWidth 64 <<< 32) 2 (some d)))) ∧
  (∀ (s : State) (c : Iss) (cause : Cause) (p0 p1 p2 : Word),
    let n := (p0.extractLsb' 0 2).toNat + 1
    let gd : Guard := if n = 1 then always else ⟨p1.extractLsb' 8 6, p1.getLsbD 14⟩
    s.Issues n gd c →
    (c.s.handlerFor c.g .emulation = none →
      exec (.emulationEntry cause p0 p1 p2) s = .next (c.fault cause c.ex 0#64 0#64)) ∧
    (∀ pc, c.s.handlerFor c.g .emulation = some pc → c.g.mode ≠ .monitor →
      (2 ≤ c.g.frames.length →
        exec (.emulationEntry cause p0 p1 p2) s = .next (c.fault 0x0902#16 c.ex 0#64 0#64)) ∧
      (c.g.frames.length < 2 → ∃ e : Entry, exec (.emulationEntry cause p0 p1 p2) s = .next (c.s.enterHandler c.gid c.g e) ∧
        e.kind = .emulation ∧ e.pc = pc ∧ e.at_ = c.pc ∧ e.parcels = n ∧ e.exec_ = c.ex ∧ e.lanes = c.sp.mask ∧
        e.whole = false ∧ e.w.head? = some (p0 ++ cause.setWidth 32)))) ∧
  (∀ (s : State) (c : Iss) (tag : Byte), s.Issues 1 always c → c.Room 0 →
    (c.s.attached c.g.ctx = false → c.Ends (.bkpt tag) s {}) ∧
    (c.s.attached c.g.ctx = true → c.EndsIn (.bkpt tag) s ((c.s.setGroup c.gid { c.g with halted := true }).updCtx c.g.ctx
      (fun x => x.dbgPost { code := 0x0904, status := 0, seq := 0#32, v0 := tag.setWidth 64, v1 := 0#64,
                            loc := w64 (c.g.core + 2 ^ 8 * c.g.slot + 2 ^ 16 * c.g.ctx),
                            ic := if c.g.frames = [] then c.g.ic + 1#48 else c.g.ic, addr := c.nextPc, cause := 0x0904#16 }))))

/-- ERET, ERET.skip, EMURET and EMURET.retry in their handlers: the splits return as they stood, the trapping split where the
return says, ready but for what a history-full handler found it waiting for, and %ic counts one instruction where the return
stands for one at depth one (17 R390, R401). A return outside every handler is the privilege fault 0x0901, in a handler of
another kind 0x0908, and EMURET.retry after a commit in its handler 0x0405 (17 R401). -/
def Obligations.Returns : Prop :=
  (∀ (s : State) (c : Iss) (f : HFrame) (rest : List HFrame), s.Issues 1 always c → c.g.frames = f :: rest → c.Room 48 →
    (c.g.ic + 1#48 - c.g.cmark).toNat < 2 ^ 32 →
    let back (i : Instr) (pc : CAddr) (mid : Option Clause) (count : Bool) (cfr : Option (CAddr × Count)) : Prop :=
      ∃ t u, exec i s = .next t ∧ t.groups.get c.gid = some u ∧ t.mem = s.mem ∧ t.polder = s.polder ∧ t.teams = s.teams ∧
        u.frames.map HFrame.uncounted = rest.map HFrame.uncounted ∧ u.parked = f.parkedAside ∧ u.cur = f.split ∧
        u.clause = none ∧ u.v = c.g.v ∧ u.k = c.g.k ∧ u.p = c.g.p ∧ u.ic = (if count then c.g.ic + 1#48 else c.g.ic) ∧
        (∀ n, n ≠ f.split → u.splits.get n = f.aside.get n) ∧
        u.splits.get f.split = (f.aside.get f.split).map (fun sp => { sp with
          pc := pc, wait := if f.kind = .historyFull then sp.wait else .ready, mid := mid,
          cfrPc := cfr.elim sp.cfrPc (·.1), cfrIc := cfr.elim sp.cfrIc (·.2) })
    let after : CAddr := f.at_ + BitVec.ofNat 57 (4 * f.parcels)
    let rest_ : Option Clause := if f.whole then none else f.clauseAside.bind Clause.after
    (f.kind = .saturation ∨ f.kind = .stackLimit ∨ f.kind = .historyFull → back .eret f.at_ f.clauseAside false none) ∧
    (f.kind = .stackLimit → back .eretSkip after rest_ (rest.isEmpty) none) ∧
    (f.kind = .emulation → (c.g.rdK 60).setWidth 57 = f.at_ → back .emuret after rest_ (rest.isEmpty) none) ∧
    (f.kind = .emulation → (c.g.rdK 60).setWidth 57 ≠ f.at_ → c.s.isHeader c.g.ctx ((c.g.rdK 60).setWidth 57) = .ok true →
      back .emuret ((c.g.rdK 60).setWidth 57) none (rest.isEmpty)
        (some (f.at_, if rest.isEmpty then c.g.ic + 1#48 else c.g.ic))) ∧
    (f.kind = .emulation → f.committed = false →
      ((c.g.rdK 60).setWidth 57 = f.at_ → back .emuretRetry f.at_ f.clauseAside false none) ∧
      ((c.g.rdK 60).setWidth 57 ≠ f.at_ → c.s.isHeader c.g.ctx ((c.g.rdK 60).setWidth 57) = .ok true →
        back .emuretRetry ((c.g.rdK 60).setWidth 57) none false none))) ∧
  (∀ (s : State) (c : Iss), s.Issues 1 always c →
    (c.g.frames = [] → c.g.mode ≠ .system → ∀ i ∈ [Instr.eret, .eretSkip, .emuret, .emuretRetry],
      exec i s = .next (c.fault 0x0901#16 c.ex 0#64 0#64)) ∧
    (∀ f rest, c.g.frames = f :: rest →
      (f.kind = .emulation ∨ f.kind = .surrender → exec .eret s = .next (c.fault 0x0908#16 c.ex 0#64 0#64)) ∧
      (f.kind ≠ .stackLimit → exec .eretSkip s = .next (c.fault 0x0908#16 c.ex 0#64 0#64)) ∧
      (f.kind ≠ .emulation → exec .emuret s = .next (c.fault 0x0908#16 c.ex 0#64 0#64) ∧
        exec .emuretRetry s = .next (c.fault 0x0908#16 c.ex 0#64 0#64)) ∧
      (f.kind = .emulation → f.committed = true → exec .emuretRetry s = .next (c.fault 0x0405#16 c.ex 0#64 0#64))))

/-- MFG, MTG and REVG on the group that a locator names: the item read, the group edited after its history is given up, the
reversal ordered, each with its status; in user mode they raise 0x0901 (17 R399, R404, R405). The edit of a lane register, a
uniform register or a predicate of another group: that register takes the value, every other keeps its own, and the group's
history is empty, its floor at its count (17 R404). -/
def Obligations.OtherGroups : Prop :=
  (∀ (s : State) (c : Iss) (g : Guard) (d a b e : KReg), s.Issues 2 g c →
    (c.g.mode = .user → ∀ i ∈ [Instr.mfg g d a b, .mtg g d a b, .revg g d a b e],
      exec i s = .next (c.fault 0x0901#16 c.ex 0#64 0#64)) ∧
    (c.g.mode ≠ .user → c.ex ≠ 0#32 →
      (∀ st, c.s.locate c.monitor (c.g.rdK a.toNat) = .error st →
        (c.Room 48 → c.Ends (.mfg g d a b) s { k := [(d.toNat, c.g.rdK d.toNat), (d.toNat + 1, w64 st)] }) ∧
        (∀ c1, c.Commits c1 → c.EndsIn (.mtg g d a b) s (c1.s.updGroup c.gid (fun u => u.wrK (d.toNat + 1) (w64 st))) ∧
          c.EndsIn (.revg g d a b e) s (c1.s.updGroup c.gid (fun u => u.wrK (d.toNat + 1) (w64 st))))) ∧
      (∀ i x, c.s.locate c.monitor (c.g.rdK a.toNat) = .ok (i, x) → x.actable = true →
        (c.Room 48 → c.Ends (.mfg g d a b) s { k := [(d.toNat, (x.item (c.g.rdK b.toNat)).getD (c.g.rdK d.toNat)),
          (d.toNat + 1, if (x.item (c.g.rdK b.toNat)).isSome then 0#64 else 4#64)] }) ∧
        (∀ c1 x1, c.Commits c1 → c.s.memwOpen i = false → c1.s.groups.get i = some x1 →
          (∀ s2, c1.s.editGroup i x1 (c.g.rdK b.toNat) (c.g.rdK d.toNat) = some s2 →
            c.EndsIn (.mtg g d a b) s (s2.updGroup c.gid (fun u => u.wrK (d.toNat + 1) 0#64))) ∧
          (c1.s.editGroup i x1 (c.g.rdK b.toNat) (c.g.rdK d.toNat) = none →
            c.EndsIn (.mtg g d a b) s (c1.s.updGroup c.gid (fun u => u.wrK (d.toNat + 1) 4#64)))) ∧
        (∀ c1, c.Commits c1 → x.dir = false →
          (x.inHandler = true → c.EndsIn (.revg g d a b e) s (c1.s.updGroup c.gid (fun u => u.wrK (d.toNat + 1) 6#64))) ∧
          (x.inHandler = false → x.landing (c.g.rdK b.toNat) = none → c.EndsIn (.revg g d a b e) s
            ((c1.s.updGroup c.gid (fun u => u.wrK d.toNat (x.ic.setWidth 64))).updGroup c.gid
              (fun u => u.wrK (d.toNat + 1) 1#64))) ∧
          (∀ land rounded, x.inHandler = false → x.landing (c.g.rdK b.toNat) = some (land, rounded) →
            let w := c1.s.updGroup c.gid (fun u =>
              { u with splits := u.splits.upd c.sn (fun sp => { sp with wait := .revg i }) })
            let r : Rev := { w.orderedRev x ((c.g.rdK b.toNat).setWidth 48) land rounded (c1.g.rdK e.toNat) with
              revg := some (c.gid, d) }
            (w.mayReverse i x = true → c.EndsIn (.revg g d a b e) s ((w.release x.core i .device).begin i r)) ∧
            (w.mayReverse i x = false → c.EndsIn (.revg g d a b e) s
              (w.updGroup i (fun u => { u with hist := { u.hist with rev := some { r with waiting := true } } })))))))) ∧
  (∀ (s : State) (i n l : Nat) (g : Group) (x : DWord), s.groups.get i = some g → g.drops = [] → g.frames = [] →
    (s.core g.core).wcb = [] → (∀ c ∈ s.cores, c.2.invals = []) → 0#48 < g.ic →
    (n < g.regs → n < 256 → l < 32 → ∃ s' u, s.editGroup i g (w64 (16 * n + 4096 * l)) x = some s' ∧
      s'.groups.get i = some u ∧ u.rdV (.own n) l = x.setWidth 32 ∧
      (∀ m k, (m, k) ≠ (n, l) → k < 32 → u.rdV (.own m) k = g.rdV (.own m) k) ∧ u.k = g.k ∧ u.p = g.p ∧ u.ic = g.ic ∧
      u.cmark = g.ic - 1#48 ∧ u.hist.stack = [] ∧ u.hsp = u.hbase ∧ s'.mem = s.mem) ∧
    (0 < n → n < 64 → ∃ s' u, s.editGroup i g (w64 (1 + 16 * n)) x = some s' ∧ s'.groups.get i = some u ∧
      u.rdK n = x ∧ (∀ m, m ≠ n → u.rdK m = g.rdK m) ∧ u.v = g.v ∧ u.p = g.p ∧ u.hist.stack = []) ∧
    (n < 63 → ∃ s' u, s.editGroup i g (w64 (2 + 16 * n)) x = some s' ∧ s'.groups.get i = some u ∧
      u.rdP n = x.setWidth 32 ∧ (∀ m, m ≠ n → u.rdP m = g.rdP m) ∧ u.v = g.v ∧ u.k = g.k ∧ u.hist.stack = []))

/-- LAUNCH in system mode answers for a word that breaks its layout (status 4, a register not valid in R399's table; that bits
[63:32] of its context register make it so is the model's reading, log 32), a context that is not there, a record that is
misaligned or refused (the reason of a shape that fits no die is the model's choice, log 32), and a full queue, and else queues
the grid; outside system mode it is the privilege fault (17 R399, R406; 14 R440). GRIDL of a record that is misaligned, refused,
or for which the queue has no room answers the reason and queues nothing; else the grid waits with its number answered; HINTNEXT
gives its team's hint; WAITPRED of a grid whose predecessor has ended goes on, and else its lanes leave as records (14 R342,
R357, R358, R362, R440). -/
def Obligations.GridLaunches : Prop :=
  (∀ (s : State) (c c1 : Iss) (g : Guard) (d a b e : KReg), s.Issues 2 g c →
    (c.g.mode ≠ .system → exec (.launch g d a b e) s = .next (c.fault 0x0901#16 c.ex 0#64 0#64)) ∧
    (c.g.mode = .system → c.ex ≠ 0#32 → c.Commits c1 →
      let w := c.g.rdK b.toNat
      let cx := w.toNat % 2 ^ 16
      let answer (t : State) (st : Nat) : State := t.updGroup c.gid (fun u => u.wrK (d.toNat + 1) (w64 st))
      (2 ^ 32 ≤ w.toNat → c.EndsIn (.launch g d a b e) s (answer c1.s 4)) ∧
      (w.toNat < 2 ^ 32 → c.s.ctxs.get cx = none → c.EndsIn (.launch g d a b e) s (answer c1.s 2)) ∧
      (w.toNat < 2 ^ 32 → (c.s.ctxs.get cx).isSome = true → (c.g.rdK a.toNat).toNat % 256 ≠ 0 →
        c.EndsIn (.launch g d a b e) s (answer (c1.s.updGroup c.gid (fun u => u.wrK d.toNat 0x0101#64)) 0)) ∧
      (∀ l aux, w.toNat < 2 ^ 32 → (c.s.ctxs.get cx).isSome = true → (c.g.rdK a.toNat).toNat % 256 = 0 →
        ((c.s.release c.g.core c.gid .device).launchAt cx (c.g.rdK a.toNat)).isSome = true →
        c1.s.launchAt cx (c.g.rdK a.toNat) = some (l, aux) →
        let r := c1.s.launch cx (w.toNat / 2 ^ 16 % 2 ^ 16) (c.g.rdK a.toNat) l aux
          (if e = 0#6 then none else some (c.g.rdK e.toNat))
        c.EndsIn (.launch g d a b e) s (answer (r.2.updGroup c.gid (fun u => u.wrK d.toNat r.1)) 0) ∧
        (∀ x, c1.s.hostReason cx (w.toNat / 2 ^ 16 % 2 ^ 16) (c.g.rdK a.toNat) l aux = some x →
          r = (w64 (1 + 256 * x), c1.s)) ∧
        (c1.s.hostReason cx (w.toNat / 2 ^ 16 % 2 ^ 16) (c.g.rdK a.toNat) l aux = none → 64 ≤ c1.s.childQueue cx →
          r = (2#64, c1.s)) ∧
        (c1.s.hostReason cx (w.toNat / 2 ^ 16 % 2 ^ 16) (c.g.rdK a.toNat) l aux = none → c1.s.childQueue cx < 64 →
          ∃ q, r.2.grids.get c1.s.nextId = some q ∧ q.lrec = l ∧ q.ctx = cx ∧ r.1 = w64 (2 ^ 32 * q.gridNo) ∧
            q.aux = aux ∧ q.started = [] ∧ q.join = (if e = 0#6 then none else some (c.g.rdK e.toNat)))))) ∧
  (∀ (s : State) (c c1 : Iss), c.ex ≠ 0#32 → c.Commits c1 →
    (∀ (g : Guard) (d a b : KReg), s.Issues 2 g c →
      ((c.g.rdK a.toNat).toNat % 256 ≠ 0 →
        c.EndsIn (.gridl g d a b) s (c1.s.updGroup c.gid (fun u => u.wrK d.toNat 0x0101#64))) ∧
      (∀ l0 l, (c.g.rdK a.toNat).toNat % 256 = 0 →
        ({ c with s := c.s.release c.g.core c.gid .device } : Iss).launchRecord (c.g.rdK a.toNat) = .ok l0 →
        c1.launchRecord (c.g.rdK a.toNat) = .ok l →
        let reason := l.1.reason (c.g.rdK a.toNat) l.2 ((c1.s.ctxs.get c1.g.ctx).elim 0 (·.spill))
          (c1.s.fitsDie l.1.cw l.1.ch)
        (∀ r, reason = some r →
          c.EndsIn (.gridl g d a b) s (c1.s.updGroup c.gid (fun u => u.wrK d.toNat (w64 (1 + 256 * r))))) ∧
        (reason = none → 64 ≤ c1.s.childQueue c1.g.ctx →
          c.EndsIn (.gridl g d a b) s (c1.s.updGroup c.gid (fun u => u.wrK d.toNat 2#64))) ∧
        (reason = none → c1.s.childQueue c1.g.ctx < 64 →
          ∃ (s1 : State) (no : Nat) (q : Grid), c.EndsIn (.gridl g d a b) s (s1.updGroup c.gid (fun u => u.wrK d.toNat (w64 (2 ^ 32 * no)))) ∧
            s1.grids.get c1.s.nextId = some q ∧ q.lrec = l.1 ∧ q.gridNo = no ∧ q.ctx = c1.g.ctx ∧
            q.parent = some c1.g.grid ∧ q.join = (if b = 0#6 then none else some (c1.g.rdK b.toNat)) ∧ q.started = [] ∧
            no ≠ 0 ∧ (∀ x ∈ c1.s.grids, x.2.ctx = c1.g.ctx → x.2.gridNo ≠ no)))) ∧
    (s.Issues 1 always c → c.EndsIn .hintnext s (c1.s.updGrid c1.g.grid (fun x =>
      if x.hinted.contains c1.g.teamNo then x else { x with hinted := x.hinted ++ [c1.g.teamNo] }))) ∧
    (s.Issues 1 always c → c.g.inHandler = false → ∀ gr, c.s.grids.get c.g.grid = some gr →
      (c.s.predEnded gr = true → c.Room 0 → c.Ends .waitpred s {}) ∧
      (c.s.predEnded gr = false → ∀ cx, c1.s.ctxs.get c.g.ctx = some cx →
        ∃ t tx, exec .waitpred s = .next t ∧ t.ctxs.get c.g.ctx = some tx ∧
          tx.predWaits = cx.predWaits ++ [⟨c.g.grid, c.toRecords c.sp.mask .team 0 16⟩])))

/-! The lane engine's own steps. -/

/-- A clause starts at the boundary that the group has reached: the chosen split opens the clause of its header, or goes on in
the one it was in, and no quadrant's pointer but its own moves; the registers that merged splits wait for are the merged
split's; a group released within a clause goes on there, whatever its other splits are (19 R416); a header that breaks the
structure faults before anything else; a deadlock is 0x0204 (02 R38, R57; 03 R82, R89, R90). The ready split that started last
goes on unless it yields or has started eight in a row; else the next in cyclic order does (03 R90). -/
def Obligations.ClauseStarts : Prop :=
  (∀ (s : State) (gid : Nat) (g : Group), s.groups.get gid = some g → s.mayStartClause g = true → g.abortDue = [] →
    let others (t : State) : Prop := (∀ i, i ≠ gid → t.groups.get i = s.groups.get i) ∧
      ∀ q, q ≠ g.quad → t.ptrs.get q = s.ptrs.get q
    (g.deadlocked = true → exec (.clauseStart gid) s = .next (s.toBerm gid { g with cur := g.standing } g.standing 0x0204#16
      ((g.splits.get g.standing).elim 0#32 (·.mask)) ((g.splits.get g.standing).elim 0#57 (·.pc)) 0#64 0#64 0 none)) ∧
    (∀ b sp, g.deadlocked = false → s.boundary g = some b → b.g.splits.get b.starts = some sp →
      let scores (t : State) : Prop := t.pend = (b.entries.foldl (fun (x : State) k => match k with
        | .merge k r .. => x.joinScores gid k r
        | _ => x) s).pend
      (∀ h e, sp.mid = none → s.clauseCheck g.ctx sp.pc = .ok (h, e) → h.ver < 2 → g.fits (entriesSize b.entries) = true →
        g.Holds (entriesSize b.entries) →
        ∃ t u, exec (.clauseStart gid) s = .next t ∧ { t with groups := s.groups, ptrs := s.ptrs, pend := s.pend } = s ∧
          scores t ∧ others t ∧
          t.groups.get gid = some u ∧
          u.clause = some ⟨sp.pc, flagName h.fa, flagName h.fb, h.count, h.yld⟩ ∧ u.cur = b.starts ∧ u.yielded = h.yld ∧
          u.splits.get b.starts = some { sp with pc := sp.pc + 4#57 } ∧
          (∀ n, n ≠ b.starts → u.splits.get n = b.g.splits.get n) ∧ u.ic = g.ic ∧ u.v = g.v ∧ u.k = g.k ∧ u.p = g.p) ∧
      (∀ cl, sp.mid = some cl → g.fits (entriesSize b.entries) = true → g.Holds (entriesSize b.entries) →
        ∃ t u, exec (.clauseStart gid) s = .next t ∧ { t with groups := s.groups, ptrs := s.ptrs, pend := s.pend } = s ∧
          scores t ∧ others t ∧
          t.groups.get gid = some u ∧
          u.clause = some cl ∧ u.cur = b.starts ∧ u.splits.get b.starts = some { sp with mid := none }) ∧
      (∀ cause a, sp.mid = none → s.clauseCheck g.ctx sp.pc = .error (cause, a) → (g.splits.get b.chosen).isSome = true →
        exec (.clauseStart gid) s = .next (s.toBerm gid { g with cur := b.chosen } b.chosen cause
          ((g.splits.get b.chosen).elim 0#32 (·.mask)) sp.pc (a.setWidth 64) 0#64 0 none))) ∧
    (∀ n sp cl, g.deadlocked = false → g.resume = some n → g.splits.get n = some sp → sp.wait = .ready → sp.mid = some cl →
      g.overfull = false →
      ∃ t u, exec (.clauseStart gid) s = .next t ∧ { t with groups := s.groups, ptrs := s.ptrs } = s ∧
        t.groups.get gid = some u ∧ u.cur = n ∧ u.clause = some cl ∧ u.resume = none ∧
        u.splits.get n = some { sp with mid := none } ∧ (∀ m, m ≠ n → u.splits.get m = g.splits.get m) ∧
        u.hist.stack = g.hist.stack ∧ u.lastStart = g.lastStart ∧ u.inARow = g.inARow)) ∧
  (∀ (g : Group) (ready : List Nat), ready.Pairwise (· < ·) →
    (ready = [] → g.choose ready = none) ∧
    (g.lastStart ∈ ready → (ready = [g.lastStart] ∨ (g.yielded = false ∧ g.inARow < 8)) →
      g.choose ready = some g.lastStart) ∧
    (∀ n ∈ ready, n ≠ g.lastStart → (g.lastStart ∉ ready ∨ g.yielded = true ∨ 8 ≤ g.inARow) →
      ((g.lastStart < n ∧ ∀ m ∈ ready, g.lastStart < m → n ≤ m) ∨
        ((∀ m ∈ ready, m ≤ g.lastStart) ∧ ∀ m ∈ ready, n ≤ m)) → g.choose ready = some n))

/-- CONV_COMPLETE, BAR_COMPLETE, GROW_GRANT, GROW_FAIL and GROUP_HALT: the splits that wait go on, a granted budget gives
registers that read zero, a halt takes effect at the boundary (03 R72, R73, R81, R82; 19 R415). -/
def Obligations.LaneEngineSteps : Prop :=
  ∀ (s : State),
    (∀ gid g a, s.groups.get gid = some g → g.common = some (.conv a) →
      ∃ t u, exec (.convComplete gid) s = .next t ∧ { t with groups := s.groups } = s ∧ t.groups.get gid = some u ∧
        { u with splits := g.splits, frames := g.frames } = g ∧
        ∀ n, u.splits.get n = (g.splits.get n).map (fun sp => if sp.wait = .conv a then { sp with wait := .ready } else sp)) ∧
    (∀ team tm, s.teams.get team = some tm → s.barReady team = true →
      ∃ t, exec (.barComplete team) s = .next t ∧ t.teams.get team = some { tm with bars := tm.bars + 1 } ∧
        (∀ gid g, s.groups.get gid = some g → g.team ≠ team → t.groups.get gid = some g) ∧
        (∀ gid g, s.groups.get gid = some g → g.team = team → ∃ u a, t.groups.get gid = some u ∧
          g.common = some (.bar a) ∧ u.barCount = g.barCount + 1 ∧
          ∀ n, u.splits.get n = (g.splits.get n).map (fun sp =>
            if sp.wait = .bar a then { sp with wait := .ready } else sp))) ∧
    (∀ core quad r g, s.growGrantable (4 * core + quad) = some (r, g) →
      ∃ t u, exec (.growGrant core quad) s = .next t ∧ t.growQ = s.growQ.erase r ∧ t.groups.get r.gid = some u ∧
        u.regs = max g.regs r.want ∧ u.ic = g.ic ∧
        (∀ n l, n < g.regs → l < 32 → u.rdV (.own n) l = g.rdV (.own n) l) ∧
        (∀ n l, g.regs ≤ n → n < r.want → l < 32 → u.rdV (.own n) l = 0#32) ∧
        (∀ sp, g.splits.get r.split = some sp → sp.wait = .grow → u.splits.get r.split = some { sp with wait := .ready })) ∧
    (∀ core r g, s.growVictim core = some r → s.groups.get r.gid = some g →
      ∃ t u, exec (.growFail core) s = .next t ∧ t.growQ = s.growQ.erase r ∧ t.groups.get r.gid = some u ∧ u.regs = g.regs ∧
        u.growFail = some r.split ∧
        (∀ sp, g.splits.get r.split = some sp → sp.wait = .grow → u.splits.get r.split = some { sp with wait := .ready })) ∧
    (∀ gid g, s.groups.get gid = some g → g.haltReq = true → g.clause = none → g.frames = [] → g.dir = false →
      ∃ t, exec (.groupHalt gid) s = .next t ∧ { t with groups := s.groups } = s ∧
        t.groups.get gid = some { g with halted := true, haltReq := false })

/-! The memory port and the engines behind it. -/

/-- The write-combining buffer's timer writes a line's bytes to their homes and frees the line; a fill copies a line that
the directory then tracks, and writes nothing but private bytes of the core that make room; an invalidation drops the copy
(06 R181; 07 R203, R204, R206). LOAD_RETURN, STORE_PERFORMED, ATOMIC_RETURN
and PREFETCH_COMPLETE: the registers named take their values, the flags fall, and memory is as it was; a moved atomic acts
at the page's new home (03 R84, R86; 06 R187, R188). -/
def Obligations.MemoryEngineSteps : Prop :=
  (∀ (s : State) (core line : Nat),
    (∀ w, (s.core core).wline line = some w → s.storageWf = true →
      ∃ t, exec (.wcbDrainTimer core line) s = .next t ∧ (t.core core).wline line = none ∧ t.polder = s.polder ∧
        t.groups = s.groups ∧ (∀ pa b, w.bytes.get pa = some b → t.mem.get pa = b.val) ∧
        (∀ pa, w.bytes.get pa = none → t.mem.get pa = s.mem.get pa)) ∧
    (∀ ev, core < 256 → (s.core core).fills.contains line = true →
      ∃ t, exec (.l1MissFill core line ev) s = .next t ∧ (t.core core).fills.contains line = false ∧
        core ∈ t.sharers line ∧ (∀ pa, lineOf pa = line → t.l1Read core pa = t.mem.get pa) ∧ t.polder = s.polder ∧
        t.groups = s.groups ∧ (∀ pa, (∀ x ∈ (s.core core).dirty, x.1 ≠ pa) → t.mem.get pa = s.mem.get pa)) ∧
    ((s.core core).invals.contains line = true →
      ∃ t, exec (.invalidation core line) s = .next t ∧ t.mem = s.mem ∧ (t.core core).invals.contains line = false ∧
        (∀ pa, lineOf pa = line → t.l1Read core pa = s.mem.get pa))) ∧
  (∀ (s : State) (id gid : Nat) (g : Group), s.groups.get gid = some g →
    (∀ i sn m vw kw fl, (i = Instr.loadReturn id ∧ s.pend.get id = some (.load gid sn m vw kw) ∧ fl = []) ∨
        (i = .loadReturn id ∧ s.pend.get id = some (.kload gid sn m kw) ∧ vw = [] ∧ fl = []) ∨
        (i = .atomicReturn id ∧ s.pend.get id = some (.atomic gid sn m vw fl) ∧ kw = []) →
      ∃ t u, exec i s = .next t ∧
        t.pend.get id = none ∧ t.mem = s.mem ∧ t.polder = s.polder ∧ t.groups.get gid = some u ∧
        u.flags = fl.foldl (fun x i => x.set i (x.get i - 1#8)) g.flags ∧ u.ic = g.ic ∧ u.splits = g.splits ∧
        (∀ n l, l < 32 → (∀ w ∈ vw, ¬(w.loc = .own n ∧ w.lane = l)) → u.rdV (.own n) l = g.rdV (.own n) l) ∧
        (∀ pre w post n, vw = pre ++ w :: post → w.loc = .own n → w.lane < 32 →
          (∀ x ∈ post, ¬(x.loc = .own n ∧ x.lane = w.lane)) → u.rdV (.own n) w.lane = w.val) ∧
        (∀ n, (∀ w ∈ kw, w.1 ≠ n) → u.rdK n = g.rdK n) ∧
        (∀ pre w post, kw = pre ++ w :: post → 0 < w.1 → (∀ x ∈ post, x.1 ≠ w.1) → u.rdK w.1 = w.2)) ∧
    (∀ fl, s.pend.get id = some (.store gid fl) →
      exec (.storePerformed id) s = .next ({ s with pend := s.pend.del id }.updGroup gid (fun u =>
        { u with flags := fl.foldl (fun x i => x.set i (x.get i - 1#8)) u.flags }))) ∧
    (∀ fl, s.pend.get id = some (.pref gid fl) →
      exec (.prefetchComplete id) s = .next ({ s with pend := s.pend.del id }.updGroup gid (fun u =>
        { u with flags := fl.foldl (fun x i => x.set i (x.get i - 1#8)) u.flags }))) ∧
    (∀ sn x fl accs, s.pend.get id = some (.moved gid sn x fl) → s.reissueAcc g x = some accs →
      let s0 := { s with pend := s.pend.del id }.updCtx g.ctx (fun c => c.seen (accs.map (fun (a : Acc) => a.addr)))
      let r := s0.atHome g.core gid x.atomic accs
      ∃ t new, exec (.atomicMovedReissue id) s = .next t ∧
        t.pend.get new = some (.atomic gid sn x.mask (x.atomic.returns r.2) fl) ∧
        Instr.atomicReturn new ∈ t.engine ∧ t.mem = r.1.mem))

/-- A matrix result enters its tile; a sweep's end releases what waited for it. A copy moves a chunk of 4 KiB at a time, which
is the model's choice of the steps and of their order (log 36); with the last one its writes are visible at its scope, and then
it drops its locks and fires its event; one that meets a missing page pauses, one that meets another cause stops, and while its
context is switched out it stands (07 R210; 11 R278, R296; 12
R314, R324, R328, R329). -/
def Obligations.EngineCompletions : Prop :=
  ∀ (s : State),
    (∀ core m rest tm, (s.core core).mq = m :: rest → s.teams.get m.team = some tm →
      ∃ t, exec (.matrixResult core) s = .next t ∧ (t.core core).mq = rest ∧ t.mem = s.mem ∧
        t.teams.get m.team = some (tm.putTile m.tile (putEls (tm.tileVals m.tile) m.vals)) ∧
        (∀ g, s.groups.get m.gid = some g →
          t.groups.get m.gid = some (if m.sat then { g with sat := g.sat ||| 0x80#8 } else g))) ∧
    (∀ id gid g, s.sweeps.get id = some (.seal gid) → s.groups.get gid = some g →
      ∃ t u, exec (.sweepComplete id) s = .next t ∧ t.sweeps.get id = none ∧ t.mem = s.mem ∧ t.groups.get gid = some u ∧
        ∀ n, u.splits.get n = (g.splits.get n).map (fun sp => if sp.wait = .sweep id then { sp with wait := .ready } else sp)) ∧
    (∀ id gid n x, s.sweeps.get id = some (.release gid n none) → s.passBarred n (0, 0) = false → s.tileOut n = false →
      s.tiles.get n = some x → (x.state ≠ .negotiated ∨ s.liveReqs x.queue = []) →
      ∃ t y, exec (.sweepComplete id) s = .next t ∧ t.sweeps.get id = none ∧ t.tiles.get n = some y ∧ y.state = .free ∧
        y.gen = x.gen + 1#8 ∧ y.queue = [] ∧ y.running = none ∧ y.va = x.va ∧ y.ctx = x.ctx) ∧
    (∀ id cp x, s.sweeps.get id = some (.register cp) → s.copies.get cp = some x →
      exec (.sweepComplete id) s = .next ((x.locks.foldl (fun (s : State) r => s.drainRange x.ctx r)
        { s with sweeps := s.sweeps.del id }).post (.copyComplete cp))) ∧
    (∀ id c s1 n e, s.copies.get id = some c → s.switched c.ctx = false → c.paused = false →
      s.copyRun c ((c.moves.drop c.done).take c.chunk) = (s1, n, e) →
      (e = none → (c.moves.drop c.done).length ≤ c.chunk →
        exec (.copyComplete id) s = .next (((s1.copyVisible c).copyOver id c).fireEvent c.ctx c.event)) ∧
      (e = none → c.chunk < (c.moves.drop c.done).length → exec (.copyComplete id) s = .next
        ({ s1 with copies := s1.copies.put id { c with done := c.done + n } }.post (.copyComplete id))) ∧
      (e = some 0x0302#16 → exec (.copyComplete id) s = .next
        { s1 with copies := s1.copies.put id { c with paused := true, done := c.done + n } }) ∧
      (∀ cause, e = some cause → cause ≠ 0x0302#16 → exec (.copyComplete id) s = .next
        ({ s1 with copies := s1.copies.put id { c with done := c.done + n } }.post (.copyAbort id (c.done + n) cause)))) ∧
    (∀ id c done cause, s.copies.get id = some c → s.switched c.ctx = true →
      exec (.copyComplete id) s = .next s ∧ exec (.copyAbort id done cause) s = .next s) ∧
    (∀ id c, s.copies.get id = some c → c.paused = true →
      exec (.copyResume id) s = .next ({ s with copies := s.copies.put id { c with paused := false } }.post (.copyComplete id))) ∧
    (∀ id c done cause s1 n e, s.copies.get id = some c → s.switched c.ctx = false →
      s.copyRun c ((c.moves.drop c.done).take (done - c.done)) = (s1, n, e) →
      exec (.copyAbort id done cause) s = .next ((s1.copyOver id c).copyFault c ((c.done + n) * c.esize / 8)))

/-- SURRENDER_ENTRY puts the holder into its routine with the cause and the refusals, the tile's handle, the asking team and the
budget in its window, or hands the tile over when no group of the holder is resident; SURRENDER_OVERRUN ends the routine of a
group that has used its budget with a handover, for whose sweep it waits. At the sweep's end, which waits for the locks on the
tile, and, by the model's choice, for those on the mailbox and on the summary (log 51), the tile passes to the oldest request
under a new generation, the mailbox record says 0x10, and the group is out of the routine; after an overrun it takes 0x0603 at
the point of entry (12 R315 to R319, R322). -/
def Obligations.SurrenderSteps : Prop :=
  ∀ (s : State),
    (∀ tile x r i g, s.surrReady tile = some (x, r, some (i, g)) → s.isHeader g.ctx x.routine.addr = .ok true →
      g.hsp.toNat + 24 ≤ g.hlim.toNat → g.Holds 24 →
      ∃ t u f y, exec (.surrenderEntry tile) s = .next t ∧ t.groups.get i = some u ∧ u.frames = f :: g.frames ∧
        f.kind = .surrender ∧ f.entry = x.routine.addr ∧ f.budget = x.routine.budget ∧ f.tile = tile ∧ f.aside = g.splits ∧
        u.ic = g.ic ∧
        u.rdK 56 = w64 (0x0601 + 2 ^ 16 * (if x.routine.limit ≤ x.refusals then 1 else 0) + 2 ^ 17 * x.refusals) ∧
        (∀ tm gd, s.teams.get r.team = some tm → s.grids.get tm.grid = some gd →
          u.rdK 58 = w64 (tm.teamNo + 2 ^ 32 * gd.gridNo)) ∧
        u.rdK 57 = w64 (handleOf tile x) ∧ u.rdK 59 = w64 x.routine.budget ∧
        t.tiles.get tile = some y ∧ y.running = some i ∧ y.team = x.team) ∧
    (∀ tile x r, s.surrReady tile = some (x, r, none) → exec (.surrenderEntry tile) s = .next (s.handover tile (0, 0))) ∧
    (∀ gid g f, s.groups.get gid = some g → g.frames.getLast? = some f → f.kind = .surrender → f.budget ≤ f.used →
      s.memwOpen gid = false → g.runs = true → s.tileSweeping f.tile = false →
      exec (.surrenderOverrun gid) s = .next ((s.commitFor gid).beginHandover gid f.tile (0, 0) true) ∧
      ∃ t u id, exec (.surrenderOverrun gid) s = .next t ∧ t.groups.get gid = some u ∧ u.clause = none ∧
        u.frames.length = g.frames.length ∧ (∀ n sp, u.splits.get n = some sp → sp.wait = .sweep id) ∧
        t.sweeps.get id = some (.handover gid f.tile (0, 0) true) ∧ .sweepComplete id ∈ t.engine) ∧
    (∀ id gid n sum late, s.sweeps.get id = some (.handover gid n sum late) →
      (s.passBarred n sum = true ∨ s.tileOut n = true → exec (.sweepComplete id) s = .next s) ∧
      (∀ g f x r q, s.passBarred n sum = false → s.tileOut n = false → s.groups.get gid = some g → g.frames.getLast? = some f →
        s.tiles.get n = some x → s.liveReqs x.queue = r :: q →
        ∃ t u y, exec (.sweepComplete id) s = .next t ∧ t.sweeps.get id = none ∧ t.tiles.get n = some y ∧
          y.state = .negotiated ∧ y.team = r.team ∧ y.gid = r.gid ∧ y.routine = r.routine ∧ y.refusals = 0 ∧
          y.gen = x.gen + 1#8 ∧ y.queue = q ∧ y.running = none ∧ y.va = x.va ∧
          ((s.teams.get r.team).isSome = true → ∃ tm, t.teams.get r.team = some tm ∧ tm.cs.readN r.mailbox 4 = 0x10) ∧
          t.groups.get gid = some u ∧ u.frames = [] ∧ u.parked = f.parkedAside ∧
          (late = false → u.splits = f.aside ∧ u.clause = f.clauseAside) ∧
          (late = true → ∀ cx, s.ctxs.get g.ctx = some cx → s.ringOpen cx = true → s.failed = [] →
            ∃ tx e, t.ctxs.get g.ctx = some tx ∧ tx.faultLog = cx.faultLog ++ [e] ∧ e.cause = 0x0603#16 ∧ e.precise = true ∧
              e.addr = f.at_ ∧ e.detA = w64 (handleOf n x))))

/-! The history engine. -/

/-- A write that STEP grade records, undone by its entry, leaves every lane register, uniform register and predicate as it
was (09 R224 to R226, R230, R243). -/
def Obligations.RecordedWritesUndo : Prop :=
  ∀ (s : State) (gid : Nat) (g : Group), g.recGrade = .step → g.frames = [] →
    (∀ n m x, m ≠ 0#32 → let g1 := g.setV (.own n) m x false
      s.groups.get gid = some g1 → ∃ e s' u, g1.hist.stack = e :: g.hist.stack ∧ e.ic = g.ic.setWidth 32 ∧
        s.undo gid false e = some s' ∧ s'.groups.get gid = some u ∧
        (∀ k l, l < 32 → u.rdV (.own k) l = g.rdV (.own k) l) ∧ u.k = g.k ∧ u.p = g.p) ∧
    (∀ n m x, m ≠ 0#32 → 0 < n → let g1 := g.setK m n x false
      s.groups.get gid = some g1 → ∃ e s' u, g1.hist.stack = e :: g.hist.stack ∧ s.undo gid false e = some s' ∧
        s'.groups.get gid = some u ∧ (∀ k, u.rdK k = g.rdK k) ∧ u.v = g.v ∧ u.p = g.p) ∧
    (∀ n m x, m ≠ 0#32 → n < 63 → let g1 := g.setP m n x false
      s.groups.get gid = some g1 → ∃ e s' u, g1.hist.stack = e :: g.hist.stack ∧ s.undo gid false e = some s' ∧
        s'.groups.get gid = some u ∧ (∀ k, u.rdP k = g.rdP k) ∧ u.v = g.v ∧ u.k = g.k)

/-- A walk that has reached its target lands: %dir clears, %ic stays, %rvinfo tells what was asked, the REVERSE's predicate
reads true in the lanes launched. One step of a STEP-grade walk undoes the entries of the boundary, a WEAVE giving the reverse split
its number and a MERGE bringing the split back that it removed, then the last instruction, which it finds by the layout of the code
or by %cfr: its entries, and where it has an inverse, that; %ic goes down by one (09 R242, R243). A MARK-grade walk undoes entry
after entry down to the MARKREC of its landing point, which stays, and of which it takes the splits, the parked paths and the
budget (09 R246). A refill brings the window back, and damage outside a walk gives the history up, in a walk
stops it with 0x0403; a rollback starts a walk to the newest mark, or is 0x0404, the group out of its handlers, where nothing
is recorded or the commit's floor is not reached yet. A damaged word of memory becomes uncorrectable, a damaged spilled line
waits for the read that meets it, a stream loses its contents with 0x0803 against the context, and a corrected error is
counted (06 R185; 09 R235, R245, R253, R254, R255; 15 R373, R376; 19 R423). -/
def Obligations.HistorySteps : Prop :=
  ∀ (s : State) (gid : Nat) (g : Group), s.groups.get gid = some g →
    let own (d : Damage) : Prop := (∃ n l, d = .vreg n l) ∨ (∃ n, d = .kreg n) ∨ (∃ n, d = .pred n) ∨ ∃ n, d = .tile n
    (∀ r d info, g.hist.rev = some r → r.waiting = false → g.dir = true → r.fault = none → s.switched g.ctx = false →
      s.memwOpen gid = false →
      r.unwind = 0 → r.marked = false → g.ic = r.land → r.rollback = false → r.revg = none → r.dbg = none →
      r.dst = some d → r.info = some info → g.frames = [] →
      ∃ t u, exec (.reverseWalkStep gid) s = .next t ∧ t.groups.get gid = some u ∧ t.mem = s.mem ∧ u.dir = false ∧
        u.ic = g.ic ∧ u.hist.rev = none ∧ u.hist.stack = g.hist.stack ∧ u.v = g.v ∧ u.k = g.k ∧
        u.rvinfo = (info &&& 0x3FFFFFFFFFFFFFFF#64) ||| (if r.rounded then 0x8000000000000000#64 else 0#64) ∧
        (d.toNat < 63 → u.rdP d.toNat &&& g.launched = g.launched)) ∧
    (∀ (r : Rev), g.hist.rev = some r → r.waiting = false → g.dir = true → r.fault = none → s.switched g.ctx = false →
      s.memwOpen gid = false → r.unwind = 0 → g.frames = [] → g.hist.bad = [] →
      let plain (e : HEntry) : Prop := (∃ n m vals, e.kind = .vreg n m vals) ∨ (∃ n x, e.kind = .kreg n x) ∨
        ∃ n bits, e.kind = .pred n bits
      let above (e : HEntry) : Prop := g.hist.committed = true → g.hist.snapDue = false → e.ic ≠ g.cmark.setWidth 32
      -- registers after entries are undone, the newest first: the oldest that holds a register's value is the last to write it
      let undone (es : List HEntry) (u : Group) : Prop :=
        (∀ j l, l < 32 → u.rdV (.own j) l = (es.reverse.findSome? (fun e => match e.kind with
          | .vreg n m vals => if n = j ∧ m.getLsbD l = true then some (vals.getD l 0#32) else none
          | _ => none)).getD (g.rdV (.own j) l)) ∧
        (∀ j, 0 < j → u.rdK j = (es.reverse.findSome? (fun e => match e.kind with
          | .kreg n x => if n = j then some x else none
          | _ => none)).getD (g.rdK j)) ∧
        (∀ j, j < 63 → u.rdP j = (es.reverse.findSome? (fun e => match e.kind with
          | .pred n bits => if n = j then some bits else none
          | _ => none)).getD (g.rdP j))
      let older (c : Word) (e : HEntry) : Prop := e.ic ≠ g.ic.setWidth 32 ∧ e.ic ≠ c
      let before (p x : CAddr) (sp : Split) : Prop :=
        if lenCode (s.rawParcel g.ctx (s.normal g.ctx p)) = 3 ∧ sp.cfrIc = g.ic then x = sp.cfrPc
        else s.predecessor g.ctx (s.normal g.ctx p) = .ok x
      let last : Word := (g.ic - 1#48).setWidth 32
      (∀ e rest, r.marked = true → g.hist.stack = e :: rest →
        (plain e ∨ ∃ pos q snap tb, e.kind = .markrec pos q snap tb ∧ pos ≠ r.land) → above e →
        ∃ t u, exec (.reverseWalkStep gid) s = .next t ∧ t.groups.get gid = some u ∧ u.hist.stack = rest ∧
          u.hsp = g.hsp - BitVec.ofNat 57 e.kind.size ∧ u.ic = g.ic ∧ u.dir = true ∧ u.splits = g.splits ∧
          u.parked = g.parked ∧ undone [e] u ∧ t.mem = s.mem ∧ t.polder = s.polder) ∧
      (∀ d info e rest q snap tb, r.marked = true → r.rollback = false → r.revg = none → r.dbg = none → r.dst = some d →
        r.info = some info → g.hist.stack = e :: rest → e.kind = .markrec r.land q snap tb → Tbl.wf snap.splits = true →
        ∃ t u, exec (.reverseWalkStep gid) s = .next t ∧ t.groups.get gid = some u ∧ u.dir = false ∧ u.ic = r.land ∧
          u.hist.rev = none ∧ u.hist.stack = g.hist.stack ∧ u.regs = snap.regs ∧ u.parked = snap.parked ∧
          (∀ n sp, snap.splits.get n = some sp → ∃ x, u.splits.get n = some x ∧ x.pc = sp.pc ∧ x.mask = sp.mask ∧
            x.cfrPc = sp.cfrPc ∧ x.cfrIc = sp.cfrIc ∧ (sp.wait = .ready → x.wait = .ready)) ∧
          (∀ n, snap.splits.get n = none → u.splits.get n = none) ∧
          u.rvinfo = (info &&& 0x3FFFFFFFFFFFFFFF#64) ||| (if r.rounded then 0x8000000000000000#64 else 0#64) ∧
          (∀ n l, l < 32 → u.rdV (.own n) l = g.rdV (.own n) l) ∧ u.k = g.k ∧ t.mem = s.mem) ∧
      (∀ (bs es rest : List HEntry) (n : Nat) (p x : CAddr) (spl : Tbl Split) (sp : Split) (i : Instr),
        r.marked = false → g.ic ≠ r.land → g.hist.stack = bs ++ (es ++ rest) →
        ((bs = [] ∧ n = r.s ∧ spl = g.splits ∧ p = g.revPos n) ∨
          (∃ q c, bs = [⟨g.ic.setWidth 32, q, .weave n c⟩] ∧ spl = g.splits ∧ p = g.revPos n) ∨
          (∃ q kept gone km rm o rpc cpc cic k, bs = [⟨g.ic.setWidth 32, q, .merge kept gone km rm o rpc cpc cic⟩] ∧
            n = r.s ∧ g.splits.get kept = some k ∧ kept ≠ gone ∧
            spl = (g.splits.put kept { k with mask := km }).put gone ⟨rpc, rm, cpc, cic, .ready, none⟩ ∧
            p = if n = gone then rpc else g.revPos n)) →
        (∀ e ∈ es, plain e ∧ e.ic = last ∧ above e) →
        (∀ e, rest.head? = some e → older last e ∨ ((∃ m c, e.kind = .weave m c) ∧ e.ic = last)) →
        last ≠ g.ic.setWidth 32 → spl.get n = some sp → before p x sp → s.instrAt g.ctx x = .ok i → regInverse i = none →
        memInverse i = none → (∀ gd a, i ≠ .drop gd a) →
        ∃ t u r1, exec (.reverseWalkStep gid) s = .next t ∧ t.groups.get gid = some u ∧ u.ic = g.ic - 1#48 ∧ u.dir = true ∧
          u.hist.stack = rest ∧ u.splits = spl ∧ u.parked = g.parked ∧ undone es u ∧ u.hist.rev = some r1 ∧ r1.s = n ∧
          r1.land = r.land ∧ r1.pos.get n = some (s.normal g.ctx x) ∧ t.mem = s.mem ∧ t.polder = s.polder) ∧
      (∀ (d a : VReg) (x : CAddr) (sp : Split), r.marked = false → g.ic ≠ r.land → (∀ e, g.hist.stack.head? = some e → older last e) →
        g.splits.get r.s = some sp → before (g.revPos r.s) x sp → s.instrAt g.ctx x = .ok (.addS d a) → d ≠ a →
        d.toNat < g.regs → a.toNat < g.regs → (∀ p ∈ s.pend, p.2.group ≠ gid) → (∀ m ∈ (s.core g.core).mq, m.gid ≠ gid) →
        ∃ t u, exec (.reverseWalkStep gid) s = .next t ∧ t.groups.get gid = some u ∧ u.ic = g.ic - 1#48 ∧ u.dir = true ∧
          u.hist.stack = g.hist.stack ∧ u.grade = g.grade ∧ u.k = g.k ∧ u.p = g.p ∧ t.mem = s.mem ∧
          ∀ j l, l < 32 → u.rdV (.own j) l = if j = d.toNat ∧ sp.mask.getLsbD l = true
            then g.rdV (.own j) l - g.rdV (.own a.toNat) l else g.rdV (.own j) l)) ∧
    (g.hist.bad = [] → ∃ t u, exec (.historyRefill gid false) s = .next t ∧ t.groups.get gid = some u ∧ u.hist.stack = g.hist.stack ∧
      u.hist.winLo ≤ max g.hbase.toNat g.hist.winLo ∧ g.hbase.toNat ≤ u.hist.winLo) ∧
    (g.dir = false → g.frames = [] → (∀ p ∈ s.pend, p.2.group ≠ gid) → (∀ m ∈ (s.core g.core).mq, m.gid ≠ gid) →
      ∃ t u, exec (.historyRefill gid true) s = .next t ∧ t.groups.get gid = some u ∧ u.hist.stack = [] ∧ u.hsp = u.hbase ∧
        u.ic = g.ic ∧ u.v = g.v ∧ t.field.discards.get g.core = some (min (2 ^ 32 - 1)
          ((s.field.discards.get g.core).getD 0 + 1))) ∧
    (g.dir = true → (g.hist.rev.bind (·.fault)) = none →
      exec (.historyRefill gid true) s = .next (s.walkFault gid 0x0403#16 0#64)) ∧
    (∀ (dmg : Damage), Damage.sound dmg g = true → (∀ p ∈ s.pend, p.2.group ≠ gid) →
      (∀ m ∈ (s.core g.core).mq, m.gid ≠ gid) →
      (∀ cx, dmg = .history ∨ (own dmg ∧ (g.grade = .off ∨ g.dist g.ic < g.dist g.floor)) → s.ctxs.get g.ctx = some cx →
        s.ringOpen cx = true → s.failed = [] →
        ∃ t u tx r, exec (.rollback gid dmg) s = .next t ∧ t.groups.get gid = some u ∧ u.frames = [] ∧ u.ic = g.ic ∧
          t.ctxs.get g.ctx = some tx ∧ tx.faultLog = cx.faultLog ++ [r] ∧ r.cause = 0x0404#16 ∧ r.precise = false) ∧
      (own dmg → g.grade ≠ .off → ¬g.dist g.ic < g.dist g.floor → g.hist.rev = none → g.frames = [] →
        ∃ t u r, exec (.rollback gid dmg) s = .next t ∧ t.groups.get gid = some u ∧ u.dir = true ∧ u.ic = g.ic ∧
          u.hist.rev = some r ∧ r.rollback = true ∧ r.dmg = [dmg] ∧
          r.land = ((g.hist.stack.filterMap (fun e => match e.kind with | .markrec pos .. => some pos | _ => none)).find?
            (fun p => decide ((g.floor - g.cmark).toNat ≤ (p - g.cmark).toNat) &&
              decide ((p - g.cmark).toNat ≤ (g.ic - g.cmark).toNat))).getD g.floor)) ∧
    (∀ polder a, ∃ t, exec (.rollback gid (.word polder a)) s = .next t ∧ wordPlace polder a ∈ t.poison ∧
      t.groups = s.groups ∧ t.mem = s.mem ∧ t.polder = s.polder) ∧
    (∀ c n, ∃ t, exec (.rollback gid (.corrected c n)) s = .next t ∧ t.groups = s.groups ∧ t.ctxs = s.ctxs ∧
      t.field.corrected.get (16 * c + n) = some (min (2 ^ 32 - 1) ((s.field.corrected.get (16 * c + n)).getD 0 + 1))) ∧
    (∀ n, Damage.sound (.line n) g = true → ∃ t u, exec (.rollback gid (.line n)) s = .next t ∧ t.groups.get gid = some u ∧
      u.hist.bad = g.hist.bad ++ [n] ∧ { u with hist := { u.hist with bad := g.hist.bad } } = g) ∧
    (∀ n cx, n < 8 → s.ctxs.get g.ctx = some cx → s.ringOpen cx = true → s.failed = [] →
      ∃ t tx r, exec (.rollback gid (.stream n)) s = .next t ∧ t.groups = s.groups ∧ t.ctxs.get g.ctx = some tx ∧
        (t.stream g.ctx n).openBatches = [] ∧ (t.stream g.ctx n).closed = [] ∧ (t.stream g.ctx n).outstanding = [] ∧
        tx.faultLog = cx.faultLog ++ [r] ∧ r.cause = 0x0803#16 ∧ r.precise = false ∧ r.detA = w64 n)

/-! The task engine's own steps. -/

/-- A cluster that fits becomes resident, its first group at the launch's entry with its presets; a bin that may launch
starts a group with its records' registers; the pool grows by whole pages, or, where Berm extends it no further, the grid
that waits takes 0x0705 and is gone; teams and grids that are over end (01 R17, R27, R28, R31; 14 R345, R346, R350, R351, R357,
R439; that each page is full of records is the model's choice, log 33). -/
def Obligations.TaskEngineSteps : Prop :=
  ∀ (s : State),
    (∀ grid g n cores, s.grids.get grid = some g → s.nextCluster g = some n → cores ∈ s.rects grid g →
      (∀ c ∈ cores, s.teamFits grid g c = true) →
      ∃ t, exec (.clusterStart grid n cores) s = .next t ∧
        t.grids.get grid = some { g with started := g.started ++ [n], reserved := [] } ∧
        ∀ k core, cores[k]? = some core → ∃ tid tm, t.teams.get tid = some tm ∧ tm.grid = grid ∧ tm.ctx = g.ctx ∧
          tm.core = core ∧ tm.cluster = n ∧ tm.teamNo = n * cores.length + k ∧ tm.csSize = g.lrec.cstore ∧
          tm.accs = g.lrec.accs ∧ tm.bars = 0) ∧
    (∀ grid g n core cx, s.grids.get grid = some g → s.nextCluster g = some n → [core] ∈ s.rects grid g →
      s.teamFits grid g core = true → s.ctxs.get g.ctx = some cx → 1 ≤ g.lrec.groups →
      ∃ t gid u, exec (.teamResident grid n core) s = .next t ∧ t.groups.get gid = some u ∧ u.grid = grid ∧ u.core = core ∧
        u.groupNo = 0 ∧ u.teamNo = n ∧ u.regs = g.lrec.regs ∧ u.ic = 0#48 ∧ u.mode = .user ∧ u.v = [] ∧ u.p = [] ∧
        u.splits = [(0, { pc := g.lrec.entry.setWidth 57, mask := maskOf (fun l => decide (l < g.lrec.lanes)), cfrPc := 0#57,
                          cfrIc := 0#48, wait := .ready, mid := none })] ∧
        (∀ i, i < 8 → u.rdK (1 + i) = g.lrec.preset.getD i 0#64)) ∧
    (∀ core bin b, (s.core core).bins.get bin = some b →
      ∃ t, exec (.binTimerExpiry core bin) s = .next t ∧ (t.core core).bins.get bin = some { b with expired := true } ∧
        Instr.binTimerExpiry core bin ∉ t.timers) ∧
    (∀ core bin x b cx, s.pickBin core = some bin → s.launchable core bin = some x → (s.core core).bins.get bin = some b →
      s.ctxs.get x.t.ctx = some cx →
      ∃ t gid u, exec (.binLaunch core bin) s = .next t ∧ t.groups.get gid = some u ∧ u.team = x.team ∧ u.groupNo = x.no ∧
        u.core = core ∧ u.slot = x.slot ∧ u.regs = regsOf x.recs ∧
        u.splits = [(0, { pc := b.pc, mask := maskOf (fun l => decide (l < x.recs.length)), cfrPc := 0#57, cfrIc := 0#48,
                          wait := .ready, mid := none })] ∧
        (∀ (i j : Nat) (r : Rec) (v : Word), x.recs[i]? = some r → r.vals[j]? = some v → u.rdV (.own (r.base + j)) i = v)) ∧
    (∀ gid g, s.groups.get gid = some g → ∃ t, exec (.spawnRateExpiry gid) s = .next t ∧
      t.groups.get gid = some { g with spawnHold := false } ∧ Instr.spawnRateExpiry gid ∉ t.timers) ∧
    (∀ ctx n cx, s.ctxs.get ctx = some cx → 0 < n → ∃ t tx, exec (.poolExtend ctx n) s = .next t ∧
      t.ctxs.get ctx = some tx ∧ tx.pool.size = cx.pool.size + 4096 * n / 80) ∧
    (∀ ctx, s.starved ctx = none → exec (.poolExtend ctx 0) s = .next s) ∧
    (∀ ctx cx grid g, s.ctxs.get ctx = some cx → s.starved ctx = some grid → s.grids.get grid = some g → g.ctx = ctx →
      g.join = none → g.lrec.ltr = 0#64 → s.ringOpen cx = true → s.failed = [] →
      ∃ t tx r, exec (.poolExtend ctx 0) s = .next t ∧ t.ctxs.get ctx = some tx ∧ t.grids.get grid = none ∧
        (∀ x ∈ t.groups, ¬(x.2.ctx = ctx ∧ x.2.grid = grid)) ∧ r ∈ tx.faultLog ∧ r.cause = 0x0705#16 ∧ r.precise = false ∧
        r.gridNo = g.gridNo ∧
        r.saved = ((s.waiting ctx ++ s.binned ctx).filter (fun x => x.grid == grid)).flatMap Rec.words) ∧
    (∀ team tm g, s.teams.get team = some tm → s.teamOver team = true → s.grids.get tm.grid = some g →
      ∃ t, exec (.teamEnd team) s = .next t ∧ t.teams.get team = none ∧
        t.grids.get tm.grid = some { g with ended := g.ended ++ [tm.teamNo] }) ∧
    (∀ grid g, s.grids.get grid = some g → g.killed = none → g.over = true → s.switched g.ctx = false → g.join = none →
      g.lrec.ltr = 0#64 →
      ∃ t, exec (.gridEnd grid) s = .next t ∧ t.grids.get grid = none ∧ t.groups = s.groups)

/-! Pre-emption, removal, peers. -/

/-- A request marks the context with the save area named, but Berm's own, for which it is the model's choice that there is none (log
16); the last acknowledgement of the last collector moves
its groups, as they stand, into its image, and the save area, where it has addresses, begins with its number, the place of which is
the model's choice (log 29); a restore brings
every team onto the core named, each cluster on one rectangle, or changes nothing, and where it puts the bins is the model's choice
(log 22); a removed grid or context leaves no group, no
team and, of a context, no byte of its tiles, and no monitor's group where it had a session, whose end its mailbox still shows (17
R394, R396, R398; 00 R4; 01 R16, R17, R18; 12 R306; 19 R418). -/
def Obligations.ContextSwitches : Prop :=
  ∀ (s : State) (ctx : Nat) (cx : Ctx), s.ctxs.get ctx = some cx →
    (ctx ≠ bermKey → cx.preempt = none → cx.image = none → ∀ area,
      exec (.preemptRequest ⟨ctx, area⟩) s = .next (s.updCtx ctx (fun x => { x with preempt := some [], save := some area }))) ∧
    (∀ area, exec (.preemptRequest ⟨bermKey, area⟩) s = .next s) ∧
    (∀ acked e, cx.preempt = some acked → s.mayAck ctx acked e = true →
      ((∃ x, x ∈ cx.acks ∧ x ∉ acked ++ [e]) →
        exec (.preemptAck ctx e) s = .next (s.updCtx ctx (fun x => { x with preempt := some (acked ++ [e]) }))) ∧
      ((∀ x ∈ cx.acks, x ∈ acked ++ [e]) →
        ∃ t tx img, exec (.preemptAck ctx e) s = .next t ∧ t.ctxs.get ctx = some tx ∧ tx.preempt = none ∧
          tx.image = some img ∧ (∀ x ∈ t.groups, x.2.ctx ≠ ctx) ∧ (∀ x ∈ t.teams, x.2.ctx ≠ ctx) ∧
          (∀ gid g, s.groups.get gid = some g → g.ctx ≠ ctx → t.groups.get gid = some g) ∧
          (∀ gid g, s.groups.get gid = some g → g.ctx = ctx → ∃ u, img.groups.get gid = some u ∧
            { u with spawnHold := g.spawnHold, hist := { u.hist with winLo := g.hist.winLo, spoilt := g.hist.spoilt } } = g) ∧
          (∀ area i, s.storageWf = true → s.copies = [] → s.failed = [] → cx.save = some area → area + 8 ≤ 2 ^ 52 → i < 8 →
            t.mem.get (area + i) = (leBytes 8 ctx).getD i 0#8))) ∧
    (∀ img place, cx.image = some img → s.placesClusters img place = false → exec (.contextRestore ctx place) s = .next s) ∧
    (∀ img place s1, cx.image = some img → s.hot = false → s.placesClusters img place = true →
      img.teams.foldlM (fun x m => x.restoreTeam ctx img place m.1 m.2) s = some s1 →
      exec (.contextRestore ctx place) s = .next
        ((img.bins.foldl (fun x b => x.restoreBin ctx img b) (img.groups.foldl (fun x g => x.reap g.1)
          ((s1.updCtx ctx (fun x => { x with image := none })).restartCopies ctx)).locksDropped).retryAll)) ∧
    (∀ grid g status, s.grids.get grid = some g → g.ctx = ctx → g.join = none → g.lrec.ltr = 0#64 →
      ∃ t, exec (.removeGrid grid status) s = .next t ∧ t.grids.get grid = none ∧
        (∀ x ∈ t.groups, ¬(x.2.ctx = ctx ∧ x.2.grid = grid)) ∧ (∀ x ∈ t.teams, ¬(x.2.ctx = ctx ∧ x.2.grid = grid))) ∧
    (ctx ≠ bermKey → ∃ t, exec (.removeContext ctx) s = .next t ∧ t.ctxs.get ctx = none ∧ (∀ x ∈ t.groups, x.2.ctx ≠ ctx) ∧
      (s.session ctx = true → cx.dbg.monitor < s.nextId → t.groups.get cx.dbg.monitor = none) ∧
      (∀ x ∈ t.teams, x.2.ctx ≠ ctx) ∧ (∀ x ∈ t.grids, x.2.ctx ≠ ctx) ∧ (∀ x ∈ t.tiles, x.2.ctx ≠ ctx) ∧
      (∀ n x i, s.tiles.get n = some x → x.ctx = ctx → i < 2 ^ 18 → t.polder.get (n * 2 ^ 18 + i) = 0#8) ∧
      (s.session ctx = true → ∃ d e, t.goneDbg.get ctx = some d ∧ d.attached = false ∧ e.code = 0x0983 ∧
        ((∃ i, d.ring.get i = some e) ∨ e ∈ d.held)))

/-- Messages: a frame for this device is enqueued once, element before TAIL, and acknowledged, or held while its queue has no
room, and a held one enters when there is; one that is enqueued already is only acknowledged; an acknowledgement frees the
buffer; a returned message is 0x0704 against its context with the message saved; a retrained link is counted and a Thohel one
carries its unacknowledged frames again; a frame that this device cannot accept, and a held one whose queue can take none any
more, goes back to its source; a failed port loses its range until Berm programs the decoders (14 R359, R362, R363;
19 R423, R427, R429, R430; that a repeated frame is acknowledged again is the model's reading, log 44). -/
def Obligations.PeerSteps : Prop :=
  ∀ (s : State),
    (∀ (f : Frame) (q : PeerQueue), f.dst = s.deviceNo → (f.src, f.seq) ∉ s.rxSeq → s.peerQueue f = some q →
      (s.peerRoom q = true → (∀ h ∈ s.rxHeld, h.frame.block ≠ f.block) →
        ∃ t, exec (.thohelFrameRx f) s = .next t ∧ t.rxSeq = (f.src, f.seq) :: s.rxSeq ∧ t.rxHeld = s.rxHeld ∧
          t.wire = s.wire ++ [.ack f.src f.seq] ∧
          t = ({ s with rxSeq := (f.src, f.seq) :: s.rxSeq }.peerPut q f)) ∧
      (s.peerRoom q = false ∨ (∃ h ∈ s.rxHeld, h.frame.block = f.block) →
        exec (.thohelFrameRx f) s = .next { s with rxSeq := (f.src, f.seq) :: s.rxSeq, rxHeld := s.rxHeld ++ [⟨f⟩] })) ∧
    (∀ (f : Frame) (q : PeerQueue), s.peerPut q f =
      { (((s.putBytes noCore (q.slot.zip (f.data.flatMap (fun (w : Word) => leBytes 4 w.toNat)))).putBytes noCore
          (bytesAt ((q.block.drop 16).take 8) (q.ring.tail + 1))).settle).writeHome with
        wire := s.wire ++ [.ack f.src f.seq] }) ∧
    (∀ (f : Frame), f.dst = s.deviceNo → (f.src, f.seq) ∈ s.rxSeq →
      exec (.thohelFrameRx f) s = .next (if ∃ h ∈ s.rxHeld, h.frame.src = f.src ∧ h.frame.seq = f.seq then s
        else { s with wire := s.wire ++ [.ack f.src f.seq] })) ∧
    (∀ (f : Frame), f.dst ≠ s.deviceNo → exec (.thohelFrameRx f) s = .next s) ∧
    (∀ (f : Frame), f.dst = s.deviceNo → (f.src, f.seq) ∉ s.rxSeq →
      (s.peerQueue f = none → s.blockBarred f = false →
        exec (.thohelFrameRx f) s = .next { s with wire := s.wire ++ [.back f.src f.seq] }) ∧
      (s.blockBarred f = true →
        exec (.thohelFrameRx f) s = .next { s with rxSeq := (f.src, f.seq) :: s.rxSeq, rxHeld := s.rxHeld ++ [⟨f⟩] })) ∧
    (∀ idx f, s.heldReady idx = none → s.heldLost idx = some f →
      exec (.peerHeldEnqueue idx) s = .next { s with rxHeld := s.rxHeld.eraseIdx idx,
                                                     rxSeq := s.rxSeq.filter (fun x => x != (f.src, f.seq)),
                                                     wire := s.wire ++ [.back f.src f.seq] }) ∧
    (∀ idx f q, s.heldReady idx = some (f, q) → ∃ t, exec (.peerHeldEnqueue idx) s = .next t ∧
      t.rxHeld = s.rxHeld.eraseIdx idx ∧ t.wire = s.wire ++ [.ack f.src f.seq] ∧
      t = ({ s with rxHeld := s.rxHeld.eraseIdx idx }.peerPut q f)) ∧
    (∀ dst seq m, s.sentTo dst seq = some m → (∀ x ∈ s.sent.erase m, x.batch ≠ m.batch) →
      (∀ g, s.groups.get m.gid = some g → ∃ t, exec (.thohelAck dst seq) s = .next t ∧ t.sent = s.sent.erase m ∧
        t.groups.get m.gid = some { g with flags := m.flags.foldl (fun x i => x.set i (x.get i - 1#8)) g.flags })) ∧
    (∀ dst seq m cx, s.sentTo dst seq = some m → s.ctxs.get m.ctx = some cx → s.ringOpen cx = true →
      s.failed = [] →
      ∃ t tx r, exec (.messageReturn dst seq) s = .next t ∧ t.ctxs.get m.ctx = some tx ∧
        t.sent.length = (s.sent.erase m).length ∧ tx.faultLog = cx.faultLog ++ [r] ∧ r.cause = 0x0704#16 ∧
        r.precise = false ∧ r.detA = w64 dst ∧ r.detB = w64 m.frame.block ∧ r.saved = packWords m.frame.data) ∧
    (∀ l k, linkKey l = some k → ∃ t, exec (.linkRetrain l) s = .next t ∧
      t.field.retrains.get k = some (min (2 ^ 32 - 1) ((s.field.retrains.get k).getD 0 + 1)) ∧ t.sent = s.sent ∧
      ∃ fs, t.wire = s.wire ++ fs ∧ ((∀ n, l ≠ .thohel n) → fs = []) ∧
        ∀ n, l = .thohel n → ∀ m ∈ s.sent, s.routeOf m.frame = some n → .frame n (Frame.bytes m.frame) ∈ fs) ∧
    (∀ port ds, ∃ t, exec (.cxlLinkFail port false ds) s = .next t ∧ t.mem = s.mem ∧ t.decoders = s.decoders ∧
      ∀ a, s.cxlPort a = some port → t.portDown a = true) ∧
    (∀ port ds, (decodersSound ds = true → exec (.cxlLinkFail port true ds) s = .next { s with decoders := ds }) ∧
      ((∃ d ∈ ds, 2 ^ 52 < d.base + d.len) → exec (.cxlLinkFail port true ds) s = .next s)) ∧
    (∀ (d : Decoder) ds a, s.decoders = d :: ds → d.base ≤ a → a < d.base + d.len → d.ports ≠ [] →
      s.cxlPort a = d.ports[(a - d.base) / d.gran % d.ports.length]?)

/-! Berm, the host, the debug monitor, the management side. -/

/-- Berm's answers: a page serviced holds its addresses; a replayed record lets its split try again; a continued one counts the
instruction and moves behind it with the reply in its register and in its record; a handler table is replaced where the launch
has a window; a host's launch is queued or refused, and the debug right granted; a context begins with the pool's free part and
its tiles clear, of those that the division serves; a page's bytes move with it (02 R61; 06 R178, R183, R184, R187; 12 R306; 14
R344, R346; 17 R384, R393; 19 R411; 00 R4; 01 R29; when a doorbell is live and when a context can begin is the model's reading,
log 31, the reasons of a refusal's order log 32, the record's place in memory log 42, which tiles those are the model's
numbering, log 49). -/
def Obligations.BermSteps : Prop :=
  ∀ (s : State),
    (∀ ctx rec page cx, s.ctxs.get ctx = some cx → Page.sound page = true →
      ∃ t tx, exec (.pageServiceDone ctx rec page) s = .next t ∧ t.ctxs.get ctx = some tx ∧ (cx.faultHold = [] → t.mem = s.mem) ∧
        (∀ va, page.va ≤ va → va < page.va + pageBytes page.size → tx.page va = some { page with movedFrom := none }) ∧
        (∀ va p, cx.page va = some p → pagesMeet p page = false → tx.page va = some p)) ∧
    (∀ ctx id i cx r g sp, s.ctxs.get ctx = some cx → cx.faultHold = [] → cx.faults.get id = some r → r.precise = true →
      s.groups.get r.gid = some g → g.splits.get r.split = some sp → sp.wait = .parked id → r.was = .ready →
      i = Instr.faultReplay ctx id ∨ (i = .rangeLockReplay ctx id ∧ r.cause = 0x0305#16) →
      ∃ t u tx, exec i s = .next t ∧ t.ctxs.get ctx = some tx ∧ tx.faults.get id = none ∧ t.groups.get r.gid = some u ∧
        u.splits.get r.split = some { sp with wait := .ready } ∧ u.ic = g.ic ∧ u.v = g.v ∧ u.k = g.k ∧
        (r.depth = 0 → r.cause ≠ 0x0204#16 → u.stopped = g.stopped)) ∧
    (∀ ctx id reply cx r g sp, s.ctxs.get ctx = some cx → cx.faults.get id = some r → r.precise = true → r.parcels ≠ 0 →
      r.detB.extractLsb' 0 2 ≠ 3#2 → s.groups.get r.gid = some g → g.frames = [] → r.depth = 0 → g.stepBit = false →
      g.splits.get r.split = some sp → sp.wait = .parked id → r.was = .ready → s.replyBarred ctx r = false →
      ∃ t u, exec (.faultContinue ctx id reply) s = .next t ∧ t.groups.get r.gid = some u ∧ u.ic = g.ic + 1#48 ∧
        u.splits.get r.split = some { sp with
          pc := r.addr + BitVec.ofNat 57 (4 * r.parcels), wait := .ready, mid := sp.mid.bind Clause.after } ∧
        (∀ d : KReg, r.replyTo = some d → 0 < d.toNat → u.rdK d.toNat = reply) ∧
        (r.replyTo ≠ none → r ∈ cx.faultLog → ∃ tx, t.ctxs.get ctx = some tx ∧ { r with reply := reply } ∈ tx.faultLog) ∧
        (r.replyTo ≠ none → cx.faultHold = [] → s.storageWf = true → ∀ a, s.ringPlace cx r = some a →
          t.mem.readN (a + 56) 8 = reply.toNat) ∧
        (∀ n, 0 < n → (∀ d : KReg, r.replyTo = some d → n ≠ d.toNat) → u.rdK n = g.rdK n) ∧ u.v = g.v ∧ u.p = g.p) ∧
    (∀ grid g emuh surr auxh aux, s.grids.get grid = some g → s.auxTable g.ctx auxh = some aux →
      ((emuh.setWidth 57 ≠ 0#57 ∨ surr.setWidth 57 ≠ 0#57 ∨ ∃ a ∈ aux, a ≠ 0#64) → g.window = false →
        exec (.handlerTableReplace grid emuh surr auxh) s = .next s) ∧
      (g.window = true → exec (.handlerTableReplace grid emuh surr auxh) s = .next
        (s.updGrid grid (fun x => { x with emuh := emuh, surr := surr, aux := aux })))) ∧
    (∀ ctx ring rec l aux, (s.ctxs.get ctx).isSome = true → s.mgmt.stage = 5 → ring < 256 →
      rec.toNat % 256 = 0 → s.launchAt ctx rec = some (l, aux) →
      (∀ x t, s.hostReason ctx ring rec l aux = some x → s.refusedLtr ctx l x = some t →
        exec (.doorbell ctx ring (.launch rec)) s = .next t) ∧
      (∀ t, s.hostReason ctx ring rec l aux = none → s.childQueue ctx < 64 → s.stageTimes ctx l = some t →
        exec (.doorbell ctx ring (.launch rec)) s = .next (t.launch ctx ring rec l aux none).2) ∧
      (s.hostReason ctx ring rec l aux = none → 64 ≤ s.childQueue ctx → s.failed = [] →
        exec (.doorbell ctx ring (.launch rec)) s = .next s)) ∧
    (∀ ctx ring rec bs t, (s.ctxs.get ctx).isSome = true → s.mgmt.stage = 5 → ring < 256 → rec.toNat % 256 ≠ 0 →
      s.vaBytes ctx (rec.setWidth 57).toNat 256 = some bs → s.refusedLtr ctx (launchOf bs) 1 = some t →
      exec (.doorbell ctx ring (.launch rec)) s = .next t) ∧
    (∀ ctx ring cx, s.ctxs.get ctx = some cx → s.mgmt.stage = 5 → ring < 256 →
      exec (.doorbell ctx ring .debug) s = .next (s.updCtx ctx (fun c => { c with dbg := { c.dbg with right := true } }))) ∧
    (∀ ctx ring req, (s.mgmt.stage ≠ 5 ∨ 256 ≤ ring) → exec (.doorbell ctx ring req) s = .next s) ∧
    (∀ p : CtxParams, s.ctxs.get p.ctx = none → (s.mgmt.stage = 4 ∨ s.mgmt.stage = 5) →
      2 ^ 16 ≤ p.spill.getD (2 ^ 22) → p.hbase % 4096 = 0 → p.spill.getD (2 ^ 22) % 4096 = 0 → p.spillAt % 4096 = 0 →
      1024 * p.cores.length ≤ p.pool → p.faultRing + 64 * p.faultCap ≤ 2 ^ 52 →
      p.frameArea < 2 ^ 52 → p.spillAt + p.spill.getD (2 ^ 22) * (32 * p.cores.length) ≤ 2 ^ 52 →
      ∃ t tx, exec (.contextCreation p) s = .next t ∧ t.ctxs.get p.ctx = some tx ∧ tx.pages = p.pages.filter Page.sound ∧
        tx.cores = p.cores ∧ tx.rings = p.rings ∧ tx.spill = p.spill.getD (2 ^ 22) ∧ tx.faults = [] ∧ tx.events = [] ∧
        tx.streams = [] ∧ tx.pool.whole = p.pool ∧ tx.pool.size = p.pool - 1024 * p.cores.length ∧
        (p.poolHigh = none → tx.pool.high = 3 * tx.pool.size / 4) ∧ (p.poolLow = none → tx.pool.low = tx.pool.size / 2) ∧
        tx.pool.depth = false ∧ tx.dbg.right = p.debugRight ∧ tx.dbg.attached = false ∧ t.groups = s.groups ∧ t.mem = s.mem ∧
        (∀ x ∈ p.tiles, s.tiles.get x.1 = none → s.tileServed x.1 = false → t.tiles.get x.1 = none) ∧
        (∀ x ∈ p.tiles, s.tiles.get x.1 = none → s.tileServed x.1 = true →
          (∃ y, t.tiles.get x.1 = some y ∧ y.state = .free ∧ y.ctx = p.ctx) ∧
          ∀ i, i < 2 ^ 18 → t.polder.get (x.1 * 2 ^ 18 + i) = 0#8)) ∧
    (∀ ctx cx va p pa newPa, s.ctxs.get ctx = some cx → cx.page va = some p → p.target = .global pa → s.storageWf = true →
      (newPa + pageBytes p.size ≤ pa ∨ pa + pageBytes p.size ≤ newPa) → newPa + pageBytes p.size ≤ 2 ^ 52 →
      (∀ c ∈ s.cores, c.2.wcb = [] ∧ c.2.dirty = []) →
      ∃ t tx, exec (.pageMigration ctx va newPa) s = .next t ∧ t.ctxs.get ctx = some tx ∧
        tx.page va = some { p with target := .global newPa, movedFrom := some pa } ∧
        (∀ i, i < pageBytes p.size → t.mem.get (newPa + i) = s.mem.get (pa + i)) ∧
        (∀ a, (a < newPa ∨ newPa + pageBytes p.size ≤ a) → t.mem.get a = s.mem.get a) ∧
        tx.taskWaits = cx.taskWaits.map (fun w => { w with place := w.place.moved pa newPa (pageBytes p.size) }))

/-- The debug monitor's commands: every command without a session replies 3, and an unknown code 7; a locator with bit 15 set in
a command other than HALT, RESUME and STEP replies 2; ATTACH needs the context's right and starts the monitor's group, whose
entry address and 32 lanes are the model's choice (log 16); HALT, RESUME and STEP act on the group named, or on every group;
READ, WRITE, READMEM and WRITEMEM answer with the item, the edit or the bytes, or why not; REWIND orders a reversal, waits, or
answers why not; DUMP and CORE_DUMP write the image; the host's head makes room; DETACH and a revocation end the session (19
R410 to R419; 17 R399, R404, R405; which commands wait is the model's reading, log 14; that READMEM and WRITEMEM reply 4
whatever keeps them from the bytes, and where a REWIND refused shows %ic, log 28; that a DUMP keeps the image is, too, log 29).
-/
def Obligations.DebugCommands : Prop :=
  ∀ (s : State) (ctx : Nat) (cx : Ctx) (q : Word) (loc : DWord), s.ctxs.get ctx = some cx →
    let posted (t : State) (e : DbgEvent → Prop) : Prop :=
      ∃ tx x, t.ctxs.get ctx = some tx ∧ e x ∧ ((∃ i, tx.dbg.ring.get i = some x) ∨ x ∈ tx.dbg.held)
    let reply (code status : Nat) (x : DbgEvent) : Prop := x.code = 0x8000 ||| code ∧ x.status = status ∧ x.seq = q
    let answers (i : Instr) (code status : Nat) : Prop :=
      ∃ t, exec i s = .next t ∧ posted t (reply code status) ∧ t.groups = s.groups ∧ t.mem = s.mem ∧ t.polder = s.polder
    (s.session ctx = false → ∀ i a b d, (i, a) ∈ [(Instr.detach ctx ⟨q, loc⟩, 2), (.halt ctx q loc, 3), (.resume ctx q loc, 4),
        (.step ctx q loc, 5), (.rewind ctx q loc b d, 6), (.read ctx q loc b, 7), (.write ctx q loc b d, 8),
        (.readmem ctx q loc b d 0#64, 9), (.writemem ctx q loc b d 0#64, 10), (.dump ctx ⟨q, loc⟩ b d, 11)] → answers i a 3) ∧
    (∀ n, (n = 0 ∨ 11 < n) → answers (.evtHead ctx (.entry n q loc)) n 7) ∧
    (cx.dbg.right = false → answers (.attach ctx ⟨q, loc⟩) 1 3 ∧
      ∃ t tx, exec (.attach ctx ⟨q, loc⟩) s = .next t ∧ t.ctxs.get ctx = some tx ∧ tx.dbg.attached = cx.dbg.attached) ∧
    (cx.dbg.right = true → allBit loc = true → answers (.attach ctx ⟨q, loc⟩) 1 2 ∧
      ∃ t tx, exec (.attach ctx ⟨q, loc⟩) s = .next t ∧ t.ctxs.get ctx = some tx ∧ tx.dbg.attached = cx.dbg.attached) ∧
    (cx.dbg.right = true → allBit loc = false → cx.dbg.attached = true → answers (.attach ctx ⟨q, loc⟩) 1 0 ∧
      ∃ t tx, exec (.attach ctx ⟨q, loc⟩) s = .next t ∧ t.ctxs.get ctx = some tx ∧ tx.dbg.attached = true) ∧
    (cx.dbg.right = true → allBit loc = false → cx.dbg.attached = false →
      (s.monitorCore cx = none → exec (.attach ctx ⟨q, loc⟩) s = .next s) ∧
      (∀ k, s.monitorCore cx = some k → ∃ t tx u, exec (.attach ctx ⟨q, loc⟩) s = .next t ∧ t.ctxs.get ctx = some tx ∧
        tx.dbg.attached = true ∧ posted t (reply 1 0) ∧ t.groups.get tx.dbg.monitor = some u ∧ u.mode = .monitor ∧
        u.core = k ∧ u.slot = 31 ∧ u.regs = 64 ∧ u.splits.get 0 =
          some ⟨s.mgmt.monitor, BitVec.allOnes 32, 0#57, 0#48, .ready, none⟩ ∧
        ∀ i, i ≠ tx.dbg.monitor → t.groups.get i = s.groups.get i)) ∧
    (s.session ctx = true →
      (allBit loc = true → (∀ b d, answers (.dump ctx ⟨q, loc⟩ b d) 11 2) ∧ answers (.detach ctx ⟨q, loc⟩) 2 2 ∧
        ∃ t, exec (.detach ctx ⟨q, loc⟩) s = .next t ∧ t.session ctx = true) ∧
      (allBit loc = false → ∃ t tx, exec (.detach ctx ⟨q, loc⟩) s = .next t ∧ t.ctxs.get ctx = some tx ∧ tx.dbg.attached = false ∧
        tx.dbg.right = cx.dbg.right ∧ t.groups.get cx.dbg.monitor = none ∧
        (∀ i g, s.groups.get i = some g → g.ctx = ctx → i ≠ cx.dbg.monitor → t.groups.get i =
          some { g with halted := false, haltReq := false, stepBit := false }) ∧
        (∀ i g, s.groups.get i = some g → g.ctx ≠ ctx → i ≠ cx.dbg.monitor → t.groups.get i = some g) ∧
        (∀ i ∈ t.inputs, ∀ c, commandOf i = some c → c.1 ≠ ctx) ∧ posted t (fun e => e.code = 0x0983) ∧
        (s.commands ctx = [] → posted t (reply 2 0))) ∧
      (∀ e, allBit loc = false → s.cmdGroup ctx loc = .error e → ∀ i a b d, (i, a) ∈ [(.halt ctx q loc, 3),
        (.resume ctx q loc, 4), (.step ctx q loc, 5), (.rewind ctx q loc b d, 6), (.read ctx q loc b, 7),
        (.write ctx q loc b d, 8), (.readmem ctx q loc b d 0#64, 9), (.writemem ctx q loc b d 0#64, 10)] → answers i a e) ∧
      (allBit loc = true → fld loc 16 16 ≠ ctx → ∀ i a, (i, a) ∈ [(Instr.halt ctx q loc, 3), (.resume ctx q loc, 4),
        (.step ctx q loc, 5)] → answers i a 2) ∧
      (allBit loc = true → fld loc 16 16 = ctx →
        ((∀ x ∈ s.groups, x.2.ctx = ctx → x.2.halted = true) → ∃ t, exec (.halt ctx q loc) s = .next t ∧
          posted t (reply 3 0)) ∧
        ((∃ x ∈ s.groups, x.2.ctx = ctx ∧ x.2.halted = false) → ∃ t, exec (.halt ctx q loc) s = .next t ∧
          ∀ i g, s.groups.get i = some g → g.ctx = ctx → ∃ u, t.groups.get i = some u ∧
            (u.halted = true ∨ u.haltReq = true) ∧ { u with halted := g.halted, haltReq := g.haltReq } = g) ∧
        (∃ t, exec (.resume ctx q loc) s = .next t ∧ posted t (reply 4 0) ∧ ∀ i g, s.groups.get i = some g →
          t.groups.get i = some (if g.ctx = ctx then { g with halted := false, haltReq := false } else g)) ∧
        (∃ t, exec (.step ctx q loc) s = .next t ∧ posted t (reply 5 0) ∧ ∀ i g, s.groups.get i = some g →
          t.groups.get i = some (if g.ctx = ctx then { g with halted := false, haltReq := false, stepBit := true } else g))) ∧
      (∀ i g, allBit loc = false → s.cmdGroup ctx loc = .ok (i, g) →
        (g.halted = true → ∃ t, exec (.halt ctx q loc) s = .next t ∧ posted t (reply 3 0) ∧ t.groups.get i = some g) ∧
        (g.halted = false → ∃ t, exec (.halt ctx q loc) s = .next t ∧ t.groups.get i =
          some (if g.clause = none ∧ g.frames = [] ∧ g.dir = false then { g with halted := true, haltReq := false }
            else { g with haltReq := true })) ∧
        (∃ t, exec (.resume ctx q loc) s = .next t ∧ posted t (reply 4 0) ∧
          t.groups.get i = some { g with halted := false, haltReq := false }) ∧
        (∃ t, exec (.step ctx q loc) s = .next t ∧ posted t (reply 5 0) ∧
          t.groups.get i = some { g with halted := false, haltReq := false, stepBit := true }) ∧
        (∀ sel x, (g.actable = false → exec (.read ctx q loc sel) s = .next s) ∧
          ((g.actable = false ∨ s.memwOpen i = true) → exec (.write ctx q loc sel x) s = .next s)) ∧
        (∀ sel x, g.actable = true → g.item sel = some x → ∃ t, exec (.read ctx q loc sel) s = .next t ∧
          posted t (fun e => reply 7 0 e ∧ e.v0 = x) ∧ t.groups = s.groups ∧ t.mem = s.mem) ∧
        (∀ sel, g.actable = true → g.item sel = none → answers (.read ctx q loc sel) 7 4) ∧
        (∀ sel x s2, g.actable = true → s.memwOpen i = false → (s.takeCmd ctx).editGroup i g sel x = some s2 →
          ∃ t, exec (.write ctx q loc sel x) s = .next t ∧ posted t (reply 8 0) ∧ t.groups = s2.groups) ∧
        (∀ sel x, g.actable = true → s.memwOpen i = false → (s.takeCmd ctx).editGroup i g sel x = none →
          answers (.write ctx q loc sel x) 8 4) ∧
        (∀ target info, (g.actable = false ∨ g.dir = true) → exec (.rewind ctx q loc target info) s = .next s) ∧
        (∀ target info, g.actable = true → g.dir = false →
          (g.inHandler = true → ∃ t, exec (.rewind ctx q loc target info) s = .next t ∧ posted t (reply 6 6)) ∧
          (g.inHandler = false → g.landing target = none → ∃ t, exec (.rewind ctx q loc target info) s = .next t ∧
            posted t (fun e => reply 6 1 e ∧ e.v0 = g.ic.setWidth 64)) ∧
          (∀ land rounded, g.inHandler = false → g.landing target = some (land, rounded) → s.groups.get i = some g →
            (s.mayReverse i g = true → land ≠ g.ic →
              ∃ t u r, exec (.rewind ctx q loc target info) s = .next t ∧ t.groups.get i = some u ∧ u.dir = true ∧
                u.ic = g.ic ∧ u.hist.rev = some r ∧ r.land = land ∧ r.rounded = rounded ∧ r.info = some info ∧
                r.dbg = some (ctx, q, loc)) ∧
            (s.mayReverse i g = true → land = g.ic → target.setWidth 48 = g.ic →
              ∃ t u, exec (.rewind ctx q loc target info) s = .next t ∧ t.groups.get i = some u ∧ u.dir = false ∧
                u.ic = g.ic ∧ u.hist.rev = none ∧ posted t (fun e => reply 6 0 e ∧ e.v0 = g.ic.setWidth 64)) ∧
            (s.mayReverse i g = false →
              ∃ t u r, exec (.rewind ctx q loc target info) s = .next t ∧ t.groups.get i = some u ∧
                { u with hist := g.hist } = g ∧ u.hist.rev = some r ∧ r.waiting = true ∧ r.land = land ∧
                r.info = some info ∧ r.dbg = some (ctx, q, loc)))) ∧
        (∀ a n sp ps, 1 ≤ n → n ≤ 16 → (s.takeCmd ctx).cmdPlaces i g (spaceAt sp 0) .load a n = some ps →
          let x : Nat := if spaceAt sp 0 = .priv then leNat (ps.map (fun p => s.privRead g.core p)) else s.homeNat ps
          ∃ t, exec (.readmem ctx q loc a (w64 n) sp) s = .next t ∧ t.mem = s.mem ∧ t.groups = s.groups ∧
            posted t (fun e => reply 9 0 e ∧ e.v0 = w64 x ∧ e.v1 = w64 (x / 2 ^ 64))) ∧
        (∀ a len sp, (fld len 0 5 = 0 ∨ 16 < fld len 0 5 ∨
          (s.takeCmd ctx).cmdPlaces i g (spaceAt sp 0) .load a (fld len 0 5) = none) →
          answers (.readmem ctx q loc a len sp) 9 4) ∧
        (∀ a x m ps, (s.takeCmd ctx).cmdPlaces i g (spaceAt m 0) .store a (2 ^ (fld m 2 2)) = some ps →
          let y : State := (if spaceAt m 0 = .priv then
              (s.takeCmd ctx).storeBytes g.core i .priv .none false (bytesAt ps x.toNat)
            else (s.takeCmd ctx).putBytes noCore (bytesAt ps x.toNat)).settle
          ∃ t, exec (.writemem ctx q loc a x m) s = .next t ∧ posted t (reply 10 0) ∧ t.mem = y.mem ∧ t.polder = y.polder ∧
            t.teams = y.teams ∧ t.groups = y.groups ∧ t.cores = y.cores) ∧
        (∀ a x m, (s.takeCmd ctx).cmdPlaces i g (spaceAt m 0) .store a (2 ^ (fld m 2 2)) = none →
          answers (.writemem ctx q loc a x m) 10 4)) ∧
      (∀ buf len, allBit loc = false → (cx.image = none → cx.preempt = none → exec (.dump ctx ⟨q, loc⟩ buf len) s = .next
          (s.updCtx ctx (fun x => { x with preempt := some [] }))) ∧
        (cx.image = none → cx.preempt ≠ none → exec (.dump ctx ⟨q, loc⟩ buf len) s = .next s) ∧
        (∀ img, cx.image = some img → ∃ t d, exec (.dump ctx ⟨q, loc⟩ buf len) s = .next t ∧
          s.makeDump ctx buf.toNat len.toNat 0#16 = some d ∧ t.dump = some d ∧ posted t (reply 11 0) ∧ t.mem = s.mem ∧
          t.hostBuf = (s.putHost d.buf d.image).hostBuf))) ∧
    (∀ how cause, (how.cut = false → cx.image = none → cx.preempt = none → exec (.coreDump ctx how cause) s = .next
        (s.updCtx ctx (fun x => { x with preempt := some [] }))) ∧
      (∀ img, cx.image = some img → ∃ t tx d, exec (.coreDump ctx how cause) s = .next t ∧
        s.makeDump ctx 0 how.len cause = some d ∧ t.dump = some d ∧ t.hostBuf = (s.putHost 0 d.image).hostBuf ∧
        t.ctxs.get ctx = some tx ∧ tx.image = none) ∧
      (how.cut = true → cx.image = none → ∃ t tx d, exec (.coreDump ctx how cause) s = .next t ∧ t.dump = some d ∧
        d.ctx = ctx ∧ d.cause = cause ∧ t.ctxs.get ctx = some tx ∧ tx.image = none ∧ (∀ x ∈ t.groups, x.2.ctx ≠ ctx) ∧
        (∀ x ∈ t.teams, x.2.ctx ≠ ctx))) ∧
    (∀ n, exec (.evtHead ctx (.head n)) s = .next (s.updCtx ctx (fun x =>
      { x with dbg := cx.dbg.held.foldl Debug.post { x.dbg with evtHead := n, held := [] } }))) ∧
    (∃ t tx, exec (.debugRevoke ctx) s = .next t ∧ t.ctxs.get ctx = some tx ∧ tx.dbg.right = false ∧
      (cx.dbg.right = true → tx.dbg.attached = false))

/-- The management side: dump faults and their side-band reading, its register and mailbox, attestation, the power limit,
the field records' hour, cores that are due retired onto a spare or disabled without one, the thermal states (19 R421 to R426,
R431 to R438; the report's byte layout, the codes of the mailbox's records with their port field, and the byte order of the
messages that carry a dump are the model's choice, log 30, and so is that the records of a core's position begin again when a spare
takes it, log 49). -/
def Obligations.Management : Prop :=
  ∀ (s : State),
    (∀ off err rw ll d, s.dump = some d → ∃ t d', exec (.dumpWriteFault off err rw ll) s = .next t ∧ t.dump = some d' ∧
      d'.faulted = true ∧ t.mgmt.dumpFlt = true ∧ t.mgmt.dumpHeld = (s.mgmt.dumpHeld || ll) ∧
      t.mgmt.mailbox.get (s.mgmt.mbIndex % 15) = some ⟨1, 0, d.ctx, w64 (off % 2 ^ 32 + 2 ^ 32 * err)⟩ ∧
      (ll = true → t.heldDumps = s.heldDumps ++ [(d', [])] ∧ d'.side = true) ∧ (ll = false → t.heldDumps = s.heldDumps)) ∧
    (∀ r d seen rest, s.heldDumps = (d, seen) :: rest → ∃ t, exec (.mctpDumpRead r) s = .next t ∧
      let x : List Byte := Dump.image { d with limit := r.limit, stop := r.limit }
      t.mgmt.mctp = [0x7F#8] ++ leBytes 4 Config.enterprise.toNat ++ leBytes 4 r.offset ++ padTo 64 (x.drop r.offset) ∧
      t.mgmt.mctp.length = 73 ∧ t.mgmt.dumpHeld = !t.heldDumps.isEmpty ∧
      ((∀ i, 64 * i < x.length → 64 * i = r.offset ∨ 64 * i ∈ seen) → t.heldDumps = rest) ∧
      ((∃ i, 64 * i < x.length ∧ 64 * i ≠ r.offset ∧ 64 * i ∉ seen) → t.heldDumps = (d, r.offset :: seen) :: rest)) ∧
    (∀ r, s.heldDumps = [] → exec (.mctpDumpRead r) s = .next s) ∧
    exec .dumpflt s = .next { s with mgmt := { s.mgmt with dumpFlt := false } } ∧
    (∀ (r : RegAddr) (v : DWord), exec (.registerWrite r v) s = .next (if r.bar = 0 ∧ r.offset = 0 ∧ v.getLsbD 17 = true then
      { s with mgmt := { s.mgmt with dumpFlt := false } } else s)) ∧
    (s.mgmt.reason < 2 ^ 8 → s.mgmt.status.toNat % 2 ^ 8 = s.mgmt.reason) ∧
    (∀ nonce, nonce.length = 32 → ∃ t r, exec (.attestationRequest nonce) s = .next t ∧
      t.mgmt.reports = s.mgmt.reports ++ [(r, Config.sign r)] ∧ r.take 32 = nonce ∧
      (r.drop 32).take 96 = (List.range 3).flatMap (fun i => leBytes 32 (Config.identity i).toNat)) ∧
    (∀ nonce, nonce.length ≠ 32 → exec (.attestationRequest nonce) s = .next s) ∧
    (∀ w, (1200 ≤ w ∧ w ≤ 2200 → exec (.powerLimitSet w) s = .next { s with mgmt := { s.mgmt with power := w } }) ∧
      (w < 1200 ∨ 2200 < w → exec (.powerLimitSet w) s = .next s)) ∧
    (∃ t, exec .fieldHourRollover s = .next t ∧ t.field.hour = [] ∧ (∀ core i, core < 256 → i < 7 →
      let b := 8 * (16 * core + i) + bucketOf ((s.field.hour.get (16 * core + i)).getD 0)
      t.field.buckets.get b = some (min (2 ^ 32 - 1) ((s.field.buckets.get b).getD 0 + 1)))) ∧
    (∀ core, (s.enabled core = false ∨ s.coreIdle core = false ∨ s.due core = false) →
      exec (.coreRetire core) s = .next s ∧ exec (.coreDisable core) s = .next s) ∧
    (∀ core, core < 256 → s.enabled core = true → s.coreIdle core = true → s.due core = true →
      (∀ n, s.mgmt.spares[core / 64]? = some (n + 1) → ∃ t, exec (.coreRetire core) s = .next t ∧ t.cores.get core = none ∧
        t.mgmt.spares = s.mgmt.spares.set (core / 64) n ∧ t.mgmt.retired = min 255 (s.mgmt.retired + 1) ∧
        t.enabled core = true ∧ (∀ i, i < 4 → s.field.uncorrected.wf = true → t.field.uncorrected.get (16 * core + i) = none)) ∧
      (s.mgmt.spares.getD (core / 64) 0 = 0 → s.mgmt.enabled.length = 4 → ∃ t, exec (.coreDisable core) s = .next t ∧
        t.enabled core = false ∧ t.mgmt.replReq = true ∧
        (∀ c, c < 256 → c ≠ core → t.enabled c = s.enabled c) ∧
        t.mgmt.mailbox.get (s.mgmt.mbIndex % 15) = some ⟨3, core / 64, 0, w64 core⟩)) ∧
    (∀ die, die < 4 → s.mgmt.therm.length = 4 →
      (s.mgmt.therm[die]? = some 0 → ∃ t, exec (.thermalThrottle (.above die)) s = .next t ∧
        t.mgmt.therm = s.mgmt.therm.set die 1 ∧ t.ctxs = s.ctxs ∧
        t.field.thermal.get (2 * die) = some (min (2 ^ 32 - 1) ((s.field.thermal.get (2 * die)).getD 0 + 1)) ∧
        t.mgmt.mailbox.get (s.mgmt.mbIndex % 15) = some ⟨4, die, 0, 1#64⟩) ∧
      (∀ x, s.mgmt.therm[die]? = some x → 0 < x → exec (.thermalThrottle (.above die)) s = .next s) ∧
      (let cooled : List Nat := s.mgmt.therm.set die 0
        let m : Mgmt := { s.mgmt with therm := cooled, hot := s.mgmt.hot && cooled.any (fun x => x != 0) }
        exec (.thermalThrottle (.below die)) s = .next { s with mgmt := m }) ∧
      (∀ x, s.mgmt.therm[die]? = some x → x < 2 → ∃ t, exec (.thermalCritical die) s = .next t ∧
        t.mgmt.therm = s.mgmt.therm.set die 2 ∧ t.hot = true ∧ t.groups = s.groups ∧
        t.field.thermal.get (2 * die + 1) = some (min (2 ^ 32 - 1) ((s.field.thermal.get (2 * die + 1)).getD 0 + 1)) ∧
        (∀ ctx cx, s.ctxs.get ctx = some cx → ctx ≠ bermKey → cx.preempt = none → cx.image = none →
          t.ctxs.get ctx = some { cx with preempt := some [] }))) ∧
    (s.mgmt.therm.length = 4 →
      exec .thermalNormal s = .next { s with mgmt := { s.mgmt with therm := [0, 0, 0, 0], hot := false } })

/-- A reset leaves no context, no group and no tile; memory behind the ports, the field records and what holds since manufacture
stay; the boot runs through its stages, to the failed state with the failing step where a stage's image does not verify; with
stage 4 the polder is divided and Berm runs on the system cores. At the first reset every core of the part is enabled (00 R1; 01
R20, R22; 06 R178; 19 R424, R432, R434). The model's choices: that memory reads zero where nothing has written, log 2; the power
limit, log 3; on which cores Berm's groups are, log 16; what a reset keeps, log 26; a stage at each step, log 27; which cores a
240M lacks, log 49. -/
def Obligations.Resets : Prop :=
  (∀ (s : State) (b : BootParams), s.mgmt.booting = false → ∃ t, exec (.deviceReset b) s = .next t ∧ t.groups = [] ∧
    t.teams = [] ∧ t.grids = [] ∧ t.ctxs = [] ∧ t.tiles = [] ∧ t.seals = [] ∧ t.copies = [] ∧ t.cores = [] ∧ t.pend = [] ∧
    t.engine = [] ∧ t.polder = [] ∧ t.mem = s.mem ∧ t.field = s.field ∧ t.part = s.part ∧
    t.mgmt.spares = s.mgmt.spares ∧ t.mgmt.retired = s.mgmt.retired ∧ t.mgmt.enabled = s.mgmt.enabled ∧
    t.mgmt.mbIndex = 0 ∧ t.mgmt.therm = [0, 0, 0, 0] ∧ t.mgmt.dumpHeld = false ∧ t.mgmt.stage = 1 ∧ t.mgmt.reason = 0 ∧
    t.mgmt.booting = true) ∧
  (∀ (s : State) (b : BootParams), s.mgmt.booting = true → ∃ t, exec (.deviceReset b) s = .next t ∧ t.mem = s.mem ∧
    t.field = s.field ∧
    (s.mgmt.stage = 1 → (b.slot0 || b.slot1) = true → t.mgmt.stage = 2 ∧ t.mgmt.booting = true) ∧
    (s.mgmt.stage = 1 → (b.slot0 || b.slot1) = false → t.mgmt.stage = 0x3F ∧ t.mgmt.reason = 1 ∧ t.mgmt.booting = false) ∧
    (s.mgmt.stage = 2 → b.berm = true → t.mgmt.stage = 3 ∧ t.mgmt.booting = true) ∧
    (s.mgmt.stage = 2 → b.berm = false → t.mgmt.stage = 0x3F ∧ t.mgmt.reason = 2 ∧ t.mgmt.booting = false) ∧
    (s.mgmt.stage = 3 → t.mgmt.stage = 4 ∧ t.mgmt.booting = true ∧
      (∀ d n, d < 4 → b.split[d]? = some n → t.mgmt.split[d]? = some (min 7 n)) ∧ (t.ctxs.get bermKey).isSome = true ∧
      (∀ n, n < 8 → ∃ i g, t.groups.get i = some g ∧ g.core = 256 + n ∧ g.mode = .system ∧
        g.splits.get 0 = some ⟨b.entry, BitVec.allOnes 32, 0#57, 0#48, .ready, none⟩)) ∧
    (s.mgmt.stage = 4 → t.mgmt.stage = 5 ∧ t.mgmt.reason = 0 ∧ t.mgmt.booting = false ∧ t.ctxs = s.ctxs ∧
      t.groups = s.groups)) ∧
  (State.reset.groups = [] ∧ State.reset.ctxs = [] ∧ State.reset.mem = [] ∧ State.reset.mgmt.stage = 1 ∧
    State.reset.mgmt.spares = [2, 2, 2, 2] ∧ State.reset.mgmt.power = 2200 ∧
    (State.reset.part ≠ .gxv240M → ∀ c, c < 256 → State.reset.enabled c = true)) ∧
  (∀ p, (List.range 4).map (fun d => ((List.range 64).filter (fun i => (State.resetOf p).enabled (64 * d + i))).length) =
    if p = .gxv240M then [60, 60, 60, 60] else [64, 64, 64, 64])

/-! The step. -/

/-- A step takes the first input that may be taken, else the engines' oldest work, else a step that is due, else the turn of the
first group that may issue; there, when the parcels at the group's issue point decode, it is `exec` of the decoded instruction
in the group's turn, and when they do not, the entry to emulation with their cause; a group whose turn changes nothing waits,
and the turn passes on (01 R34; 02 R55, R57; 03 R89). Where the code under a started clause no longer has the clause's
structure, its turn reports that at the clause's header, which is the model's reading (log 37). The order of the steps is the
model's (log 5). -/
def Obligations.StepRunsDecoded : Prop :=
  ∀ (s : State),
    (∀ i, s.firstInput [] s.inputs = some i → step s = exec i (s.takeInput i)) ∧
    (s.firstInput [] s.inputs = none →
      (∀ i rest, s.engine = i :: rest → step s = exec i { s with engine := rest }) ∧
      (s.engine = [] →
        (∀ i, s.auto = some i → step s = exec i s) ∧
        (s.auto = none →
          (∀ i rest, s.timers = i :: rest → s.timerDue = true ∨ s.turn = none →
            step s = exec i { s with timers := rest, ticks := 0 }) ∧
          (s.timers = [] → s.turn = none → step s = .next s) ∧
          (∀ gid g pre rest, s.timerDue = false → s.turns = pre ++ (gid, g) :: rest →
            (∀ x ∈ pre, s.runnable x.1 x.2 = false) → s.runnable gid g = true →
            let c : State := { s with
              quad := 4 * g.core + g.slot / 8, cur := gid,
              ticks := if g.clause.isSome || s.timers.isEmpty then s.ticks else s.ticks + 1 }
            let turns (r : Host.Outcome State Fault Refusal) : Prop :=
              (∀ t, r = .next t → waited gid s t = false → step s = .next t) ∧
              (∀ t, r = .next t → waited gid s t = true → step s = stepTurns s rest) ∧
              ((∀ t, r ≠ .next t) → step s = r)
            (g.clause = none → turns (exec (.clauseStart gid) c)) ∧
            (∀ cl sp, g.clause = some cl → g.splits.get g.cur = some sp →
              let p (k : Nat) : Word := s.rawParcel g.ctx (sp.pc + BitVec.ofNat 57 (4 * k))
              (∀ ops e, s.scan g.ctx 1 sp.pc = .ok (ops, e) →
                (∀ x, decode (s.part != .gxv240M) (p 0) (p 1) (p 2) = .ok x → turns (exec x c)) ∧
                (∀ cause, decode (s.part != .gxv240M) (p 0) (p 1) (p 2) = .error cause →
                  turns (exec (.emulationEntry cause (p 0) (p 1) (p 2)) c))) ∧
              (∀ cause a, s.scan g.ctx 1 sp.pc = .error (cause, a) →
                turns (.next (c.toBerm gid g g.cur cause sp.mask cl.hdr (a.setWidth 64) 0#64 0 none))))))))

/-! Encodings. -/

/-- The words that the spec gives for its examples are the instructions that it says (02 R43 to R47 and the worked kernel;
the examples of 04, 06, 09, 11, 12 and 17). -/
def Obligations.DecodeWords : Prop :=
  decodeTableWord 32 0x000C1C3C = some (.addS 7#8 3#8) ∧
  decodeTableWord 96 0x81234567C0003F00000024D6 = some (.movi always 9#8 0xC1234567#32) ∧
  decodeTableWord 64 0x4000450408082801 = some (.iadd false false ⟨⟨5#6, true⟩, 10#8, .v 2#8, .k 4#6⟩) ∧
  decodeTableWord 32 0x00000218 = some .exit ∧
  decodeTableWord 96 0x80000008011FBF00000004C2 = some (.isetpL96 .lt false .and ⟨always, 1#6, .v 0#8, 8#32, 63#6⟩) ∧
  decodeTableWord 96 0x800000300000010000000202 = some (.bra ⟨1#6, false⟩ 0x30#32) ∧
  decodeTableWord 64 0x45023F0204102281 = some (.ld ⟨.b32, .polder, .none⟩ always 8#8 ⟨.k 4#6, .v 2#8, 4#8⟩) ∧
  decodeTableWord 32 0x00000240 = some .commit ∧
  decodeTableWord 32 0x00000244 = some .mark ∧
  decodeTableWord 64 0x4000430900200E49 = some (.reverse ⟨3#6, true⟩ 3#6 8#6 9#6) ∧
  decodeTableWord 64 0x41003F000000024D = some (.grade always .step) ∧
  decodeTableWord 64 0x40003F0000140251 = some (.hstash always 5#6) ∧
  decodeTableWord 64 0x41803F00000C2A55 = some (.hquery .mark always 10#6 3#6) ∧
  decodeTableWord 64 0x40043F4000801301 = some (.mma none false always 4#6 32#8 64#8 0#3 1#3) ∧
  decodeTableWord 64 0x41093F2800000309 = some (.mmax true always 0#6 0#8 40#8 2#3 2#3) ∧
  decodeTableWord 64 0x4001BF000000230D = some (.accz always 8#6 3#3) ∧
  decodeTableWord 64 0x4802BF0700180B15 = some (.accst .rn .cs ⟨false, false⟩ always 2#6 6#6 7#6 5#3) ∧
  decodeTableWord 64 0x41003F0500102B59 = some (.tileget .neg always 10#6 4#6 5#6 0#6) ∧
  decodeTableWord 64 0x40803F0700180361 = some (.surrender (.summary 6#6 7#6) always) ∧
  decodeTableWord 64 0x4C003F0020200341 = some (.cpy ⟨.global, .cs, .team, ⟨true, false⟩, always, 8#6, 0#6⟩) ∧
  decodeTableWord 64 0x4010BF0000102BC1 = some (.trap always 10#6 4#6 0x21#8) ∧
  decodeTableWord 32 0x001403CC = some (.bkpt 5#8) ∧
  decodeTableWord 64 0x40003F06001053D5 = some (.mfg always 20#6 4#6 6#6) ∧
  decodeTableWord 64 0x40003F06001053D9 = some (.mtg always 20#6 4#6 6#6) ∧
  decodeTableWord 64 0x4003BF06001053DD = some (.revg always 20#6 4#6 6#6 7#6) ∧
  decodeTableWord 64 0x40003F06001053E1 = some (.launch always 20#6 4#6 6#6 0#6) ∧
  decodeTableWord 32 0x000003D0 = some .nop ∧
  decodeTableWord 64 0x40003F00000003D1 = some (.nopW always) ∧
  decodeTableWord 96 0x8000000000003F00000003D2 = some (.nopL always 0#32)

/-- The last parcel of an instruction repeats the length code of the first in its bits [31:30]; for one parcel, and for a
clause header, the first is also the last; those bits of an earlier parcel are the flag SFB or the literal's (02 R37). -/
def Obligations.SelvageBits : Prop :=
  (∀ (m : Bool) (p0 p1 p2 : Word) (i : Instr), decode m p0 p1 p2 = .ok i →
    ∃ last, (encode i).head? = some p0 ∧ (encode i).getLast? = some last ∧
      last.extractLsb' 30 2 = p0.extractLsb' 0 2 ∧ ((encode i).length = 1 → last = p0)) ∧
  (∀ (s : State) (ctx : Nat) (a : CAddr) (x : Header × CAddr), s.clauseCheck ctx a = .ok x →
    ∃ w, s.fetch ctx a = .ok w ∧ w.extractLsb' 0 2 = 3#2 ∧ w.extractLsb' 30 2 = 3#2) ∧
  (∀ (fl : SFlags) (ad : Addr) (p0 p1 : Word), encode (.pref false .global fl always ad) = [p0, p1] →
    p0.extractLsb' 30 2 = if fl.fb then 1#2 else 0#2) ∧
  (∀ (g : Guard) (lit p0 p1 p2 : Word), encode (.nopL g lit) = [p0, p1, p2] →
    p1.extractLsb' 30 2 = lit.extractLsb' 30 2)

/-- Decoding the words of a well-formed instruction gives it back, whatever follows them (02 R36, R43 to R46, R55). -/
def Obligations.DecodeEncode : Prop :=
  ∀ (i : Instr) (x y : Word), i.wf = true → encode i ≠ [] →
    decode true ((encode i ++ [x, y]).getD 0 0#32) ((encode i ++ [x, y]).getD 1 0#32) ((encode i ++ [x, y]).getD 2 0#32) = .ok i

/-- What decodes is well formed and has the words that it was decoded from; on a part without the sparse matrix engine MMAS
is 0x0006, which comes before the causes of a wrong FN or a reserved field, and everything else, instruction or cause, decodes
alike (00 R2; 02 R55, R58). -/
def Obligations.EncodeDecode : Prop :=
  ∀ (p0 p1 p2 : Word) (i : Instr),
    (decode true p0 p1 p2 = .ok i → i.wf = true ∧ encode i = [p0, p1, p2].take (encode i).length ∧ encode i ≠ []) ∧
    (decode false p0 p1 p2 = .ok i → decode true p0 p1 p2 = .ok i) ∧
    (decode true p0 p1 p2 = .ok i → (∀ set_ g d a b fa fb, i ≠ .mmas set_ g d a b fa fb) → decode false p0 p1 p2 = .ok i) ∧
    (∀ e, p0.extractLsb' 2 8 ≠ 0xC1#8 → (decode true p0 p1 p2 = .error e ↔ decode false p0 p1 p2 = .error e)) ∧
    (∀ e, p0.extractLsb' 2 8 = 0xC1#8 → decode true p0 p1 p2 = .error e → decode false p0 p1 p2 = .error e ∨
      (e = 0x0002#16 ∨ e = 0x0004#16) ∧ decode false p0 p1 p2 = .error 0x0006#16) ∧
    (∀ set_ g d a b fa fb, decode true p0 p1 p2 = .ok (.mmas set_ g d a b fa fb) → decode false p0 p1 p2 = .error 0x0006#16)

/-! The storage. -/

/-- The bytes of a number stored at distinct places that exist read back at their homes, and every other place reads as
before (00 R5; 07 R204). A group's own store is what its next load reads: after a store of a global byte without a policy
and a flag, a load of the same group from the same place, under any policy, takes it, even while the write-combining buffer
holds it (06 R181; 07 R201, R206). -/
def Obligations.StoresReadBack : Prop :=
  (∀ (s : State) (writer : Nat) (ps : List Place) (x : Nat), ps.Nodup →
    (∀ p ∈ ps, match p with
      | .cs t _ => (s.teams.get t).isSome = true
      | .scr g _ => (s.groups.get g).isSome = true
      | _ => True) →
    (s.putBytes writer (bytesAt ps x)).homeNat ps = x % 256 ^ ps.length ∧
    (∀ p, p ∉ ps → (s.putBytes writer (bytesAt ps x)).homeRead p = s.homeRead p)) ∧
  (∀ (s : State) (core gid : Nat) (pa : Nat) (b : Byte) (pol : Policy), s.storageWf = true →
    (s.storeBytes core gid .global .none false [(.glob pa, b)]).loadByte core gid .global pol (.glob pa) = b)

/-- Global memory and the polder stay in their canonical form in every step: addresses rise and no listed byte is zero, and a
write-combining line holds each byte once, so that equal memories (00 R4, R5; 06 R175) are equal data. The form is the model's
own choice (log 34). -/
def Obligations.StorageStaysCanonical : Prop :=
  ∀ s s' : State, s.storageWf = true → step s = .next s' → s'.storageWf = true

/-- The storage (00 R4, R5; 06 R175) is in the model's canonical form (log 34) at reset, where nothing is listed (log 2). -/
def Obligations.ResetStorageCanonical : Prop :=
  State.reset.storageWf = true
end

