-- ==== Sys2Proof/Laws/Cells.lean ====
section
/-! SUPPORT. Laws/Cells.lean: read after write for the sparse storage, for lane writes and runs, and that every write keeps
the canonical form. -/

namespace Sys2Proof.Machine

theorem Cells.get_dropWhile_le {w : Nat} (t : Cells w) (a b : Nat) (h : a < b) :
    Cells.get (t.dropWhile (fun c => c.1 ≤ a)) b = Cells.get t b := by
  induction t with
  | nil => rfl
  | cons c t ih =>
    obtain ⟨k, x⟩ := c
    by_cases hk : k ≤ a
    · have h1 : ¬ b < k := by omega
      have h2 : ¬ b = k := by omega
      simp [List.dropWhile, hk, Cells.get, h1, h2, ih]
    · simp [List.dropWhile, hk]

theorem Cells.get_dropWhile_ge {w : Nat} (t : Cells w) (a b : Nat) (h : b ≤ a) :
    Cells.get (t.dropWhile (fun c => c.1 ≤ a)) b = 0#w := by
  induction t with
  | nil => rfl
  | cons c t ih =>
    obtain ⟨k, x⟩ := c
    by_cases hk : k ≤ a
    · simp [List.dropWhile, hk, ih]
    · have h1 : b < k := by omega
      simp [List.dropWhile, hk, Cells.get, h1]

/-- Read after write, for every storage. -/
theorem Cells.get_set {w : Nat} (m : Cells w) (a b : Nat) (v : BitVec w) :
    Cells.get (m.set a v) b = if b = a then v else Cells.get m b := by
  induction m with
  | nil =>
    by_cases hv : v = 0#w <;> by_cases hb : b = a
    · simp [Cells.set, hv, Cells.get]
    · simp [Cells.set, hv, Cells.get]
    · simp [Cells.set, hv, Cells.get, hb]
    · simp [Cells.set, hv, Cells.get, hb]
  | cons c t ih =>
    obtain ⟨k, x⟩ := c
    unfold Cells.set
    by_cases h1 : a < k
    · by_cases hv : v = 0#w
      · by_cases hb : b = a
        · simp [h1, hv, hb, Cells.get]
        · simp [h1, hv, hb]
      · by_cases hb : b = a
        · simp [h1, hv, hb, Cells.get]
        · by_cases h3 : b < a
          · have : b < k := by omega
            simp [h1, hv, hb, h3, Cells.get, this]
          · simp [h1, hv, hb, h3, Cells.get]
    · by_cases h2 : a = k
      · subst h2
        by_cases hv : v = 0#w
        · by_cases hb : b = a
          · simp only [hv, hb, Nat.lt_irrefl, if_true, if_false]
            exact Cells.get_dropWhile_ge t a a (Nat.le_refl a)
          · by_cases h3 : b < a
            · simp only [hv, hb, Nat.lt_irrefl, if_true, if_false, Cells.get, h3]
              exact Cells.get_dropWhile_ge t a b (by omega)
            · simp only [hv, hb, Nat.lt_irrefl, if_true, if_false, Cells.get, h3]
              exact Cells.get_dropWhile_le t a b (by omega)
        · by_cases hb : b = a
          · simp [hv, hb, Cells.get]
          · simp [hv, hb, Cells.get]
      · by_cases hb : b = a
        · subst hb
          simp [h1, h2, Cells.get, ih]
        · by_cases h3 : b < k
          · simp [h1, h2, hb, Cells.get, h3]
          · by_cases h4 : b = k
            · simp [h1, h2, hb, Cells.get, h3, h4]
              intro h5; exact absurd h5.symm h2
            · simp [h1, h2, hb, Cells.get, h3, h4, ih]

@[simp] theorem Cells.get_set_self {w : Nat} (m : Cells w) (a : Nat) (v : BitVec w) :
    Cells.get (m.set a v) a = v := by simp [Cells.get_set]

theorem Cells.get_set_ne {w : Nat} (m : Cells w) (a b : Nat) (v : BitVec w) (h : b ≠ a) :
    Cells.get (m.set a v) b = Cells.get m b := by simp [Cells.get_set, h]

/-- Lane writes: the lanes of the mask take f, every other key keeps its value (R68). -/
theorem Cells.get_setUpTo {w : Nat} (m : Cells w) (base : Nat) (mask : Mask) (f : Nat → BitVec w) (n b : Nat) :
    Cells.get (m.setUpTo base mask f n) b =
      if base ≤ b ∧ b < base + n ∧ mask.getLsbD (b - base) then f (b - base) else Cells.get m b := by
  induction n with
  | zero =>
    have : ¬ (base ≤ b ∧ b < base + 0 ∧ mask.getLsbD (b - base) = true) := by omega
    rw [if_neg this]; rfl
  | succ n ih =>
    unfold Cells.setUpTo
    by_cases hb : b = base + n
    · subst hb
      by_cases hm : mask.getLsbD n
      · simp [hm]
      · have hf : ¬ (base ≤ base + n ∧ base + n < base + n ∧ mask.getLsbD (base + n - base) = true) := by omega
        simp only [hm, Bool.false_eq_true, if_false, ih, hf, if_false]
        have : base + n - base = n := by omega
        simp [this, hm]
    · have e : (base ≤ b ∧ b < base + (n + 1) ∧ mask.getLsbD (b - base) = true) ↔
          (base ≤ b ∧ b < base + n ∧ mask.getLsbD (b - base) = true) := by
        constructor
        · rintro ⟨h1, h2, h3⟩; exact ⟨h1, by omega, h3⟩
        · rintro ⟨h1, h2, h3⟩; exact ⟨h1, by omega, h3⟩
      by_cases hm : mask.getLsbD n
      · simp only [hm, if_true, Cells.get_set, hb, if_false, ih, e]
      · simp only [hm, Bool.false_eq_true, if_false, ih, e]

theorem Cells.get_setLanes {w : Nat} (m : Cells w) (base : Nat) (mask : Mask) (f : Nat → BitVec w) (b : Nat) :
    Cells.get (m.setLanes base mask f) b =
      if base ≤ b ∧ b < base + 32 ∧ mask.getLsbD (b - base) then f (b - base) else Cells.get m b :=
  Cells.get_setUpTo m base mask f 32 b

theorem Cells.get_setRun {w : Nat} (m : Cells w) (base : Nat) (f : Nat → BitVec w) (n b : Nat) :
    Cells.get (m.setRun base f n) b = if base ≤ b ∧ b < base + n then f (b - base) else Cells.get m b := by
  induction n with
  | zero =>
    have : ¬ (base ≤ b ∧ b < base + 0) := by omega
    rw [if_neg this]; rfl
  | succ n ih =>
    unfold Cells.setRun
    by_cases hb : b = base + n
    · subst hb; simp
    · have e : (base ≤ b ∧ b < base + (n + 1)) ↔ (base ≤ b ∧ b < base + n) := by omega
      simp only [Cells.get_set, hb, if_false, ih, e]

/-! The canonical form. -/

/-- A lower bound on every key. -/
def Cells.above {w : Nat} (n : Nat) : Cells w → Prop
  | [] => True
  | (k, _) :: _ => n < k

theorem Cells.wf_cons {w : Nat} (k : Nat) (x : BitVec w) (t : Cells w) :
    Cells.wf ((k, x) :: t) = true ↔ x ≠ 0#w ∧ Cells.above k t ∧ Cells.wf t = true := by
  cases t with
  | nil => simp [Cells.wf, Cells.above]
  | cons c t => obtain ⟨k', x'⟩ := c; simp [Cells.wf, Cells.above, and_assoc]

theorem Cells.wf_dropWhile {w : Nat} (p : Nat × BitVec w → Bool) (t : Cells w) (h : Cells.wf t = true) :
    Cells.wf (t.dropWhile p) = true := by
  induction t with
  | nil => rfl
  | cons c t ih =>
    obtain ⟨k, x⟩ := c
    have h' := (Cells.wf_cons k x t).1 h
    by_cases hp : p (k, x)
    · simp only [List.dropWhile, hp]; exact ih h'.2.2
    · simp only [List.dropWhile, hp]; exact h

theorem Cells.set_above {w : Nat} (n : Nat) (m : Cells w) (a : Nat) (v : BitVec w) (hn : n < a)
    (h : Cells.above n m) (hw : Cells.wf m = true) : Cells.above n (m.set a v) := by
  cases m with
  | nil => by_cases hv : v = 0#w <;> simp [Cells.set, hv, Cells.above, hn]
  | cons c t =>
    obtain ⟨k, x⟩ := c
    have hw' := (Cells.wf_cons k x t).1 hw
    unfold Cells.set
    by_cases h1 : a < k
    · by_cases hv : v = 0#w
      · simp only [h1, hv, if_true]; exact h
      · simp only [h1, hv, if_true, if_false, Cells.above]; exact hn
    · by_cases h2 : a = k
      · by_cases hv : v = 0#w
        · simp only [h1, h2, hv, if_true, if_false, Nat.lt_irrefl]
          have : Cells.above a t := by rw [h2]; exact hw'.2.1
          cases t with
          | nil => simp [List.dropWhile, Cells.above]
          | cons c' t' =>
            obtain ⟨k', x'⟩ := c'
            simp only [Cells.above] at this
            have hk : ¬ k' ≤ k := by omega
            simp only [List.dropWhile, hk, decide_false]
            show n < k'
            omega
        · simp only [h2, hv, if_true, if_false, Nat.lt_irrefl]
          show n < k
          omega
      · simp only [h1, h2, if_false, Cells.above]; exact h

/-- Every write keeps the canonical form. -/
theorem Cells.wf_set {w : Nat} (m : Cells w) (a : Nat) (v : BitVec w) (h : Cells.wf m = true) :
    Cells.wf (m.set a v) = true := by
  induction m with
  | nil => by_cases hv : v = 0#w <;> simp [Cells.set, hv, Cells.wf]
  | cons c t ih =>
    obtain ⟨k, x⟩ := c
    have h' := (Cells.wf_cons k x t).1 h
    unfold Cells.set
    by_cases h1 : a < k
    · by_cases hv : v = 0#w
      · simp only [h1, hv, if_true]; exact h
      · simp only [h1, hv, if_true, if_false]
        exact (Cells.wf_cons _ _ _).2 ⟨hv, h1, h⟩
    · by_cases h2 : a = k
      · by_cases hv : v = 0#w
        · simp only [h1, h2, hv, if_true, if_false, Nat.lt_irrefl]
          exact Cells.wf_dropWhile _ t h'.2.2
        · simp only [h1, h2, hv, if_true, if_false, Nat.lt_irrefl]
          exact (Cells.wf_cons _ _ _).2 ⟨hv, h'.2.1, h'.2.2⟩
      · simp only [h1, h2, if_false]
        exact (Cells.wf_cons _ _ _).2
          ⟨h'.1, Cells.set_above k t a v (by omega) h'.2.1 h'.2.2, ih h'.2.2⟩

theorem Cells.wf_setUpTo {w : Nat} (m : Cells w) (base : Nat) (mask : Mask) (f : Nat → BitVec w) (n : Nat)
    (h : Cells.wf m = true) : Cells.wf (m.setUpTo base mask f n) = true := by
  induction n with
  | zero => exact h
  | succ n ih =>
    unfold Cells.setUpTo
    by_cases hm : mask.getLsbD n
    · simp only [hm, if_true]; exact Cells.wf_set _ _ _ ih
    · simp only [hm, Bool.false_eq_true, if_false]; exact ih

theorem Cells.wf_setLanes {w : Nat} (m : Cells w) (base : Nat) (mask : Mask) (f : Nat → BitVec w)
    (h : Cells.wf m = true) : Cells.wf (m.setLanes base mask f) = true := Cells.wf_setUpTo m base mask f 32 h

theorem Cells.wf_setRun {w : Nat} (m : Cells w) (base : Nat) (f : Nat → BitVec w) (n : Nat)
    (h : Cells.wf m = true) : Cells.wf (m.setRun base f n) = true := by
  induction n with
  | zero => exact h
  | succ n ih => exact Cells.wf_set _ _ _ ih

theorem Cells.wf_writeN (m : Cells 8) (a n x : Nat) (h : Cells.wf m = true) : Cells.wf (m.writeN a n x) = true := by
  induction n generalizing m a x with
  | zero => exact h
  | succ n ih => exact ih _ _ _ (Cells.wf_set _ _ _ h)

/-- A number written reads back byte by byte; the bytes beside it are as they were (R5). -/
theorem Cells.get_writeN (m : Cells 8) (a n x b : Nat) : (m.writeN a n x).get b =
    if a ≤ b ∧ b < a + n then BitVec.ofNat 8 (x / 256 ^ (b - a)) else m.get b := by
  induction n generalizing m a x with
  | zero => rw [if_neg (by omega)]; rfl
  | succ n ih =>
    simp only [Cells.writeN, ih]
    rcases Nat.lt_trichotomy b a with h | rfl | h
    · rw [if_neg (by omega), if_neg (by omega), Cells.get_set_ne _ _ _ _ (by omega)]
    · rw [if_neg (by omega), if_pos (by omega)]; simp
    · by_cases hb : b < a + (n + 1)
      · rw [if_pos (by omega), if_pos (by omega), show b - a = (b - (a + 1)) + 1 by omega, Nat.pow_succ', Nat.div_div_eq_div_mul]
      · rw [if_neg (by omega), if_neg (by omega), Cells.get_set_ne _ _ _ _ (by omega)]

/-- A number written reads back (R5). -/
theorem Cells.readN_writeN (m : Cells 8) (a n x : Nat) : (m.writeN a n x).readN a n = x % 256 ^ n := by
  suffices h : ∀ (k i : Nat), i + k = n → (m.writeN a n x).readN (a + i) k = x / 256 ^ i % 256 ^ k by
    simpa using h n 0 (by omega)
  intro k
  induction k with
  | zero => intro i _; simp [Cells.readN, Nat.mod_one]
  | succ k ih =>
    intro i hi
    rw [Cells.readN, Nat.add_assoc, ih (i + 1) (by omega), Cells.get_writeN, if_pos (by omega), Nat.add_sub_cancel_left,
      Nat.pow_succ', Nat.pow_succ', Nat.mod_mul, Nat.mul_comm 256 (256 ^ i), ← Nat.div_div_eq_div_mul, BitVec.toNat_ofNat]

theorem Cells.above_filter {w : Nat} (p : Nat × BitVec w → Bool) (n : Nat) (t : Cells w) (h : Cells.above n t)
    (hw : Cells.wf t = true) : Cells.above n (t.filter p) := by
  induction t with
  | nil => trivial
  | cons c t ih =>
    obtain ⟨k, x⟩ := c
    have h' := (Cells.wf_cons k x t).1 hw
    by_cases hp : p (k, x)
    · simp only [List.filter_cons_of_pos hp]; exact h
    · simp only [List.filter_cons_of_neg hp]
      refine ih ?_ h'.2.2
      cases t with
      | nil => trivial
      | cons c' t' =>
        obtain ⟨k', x'⟩ := c'
        have h1 := h'.2.1
        simp only [Cells.above] at h h1 ⊢
        omega

theorem Cells.wf_filter {w : Nat} (p : Nat × BitVec w → Bool) (m : Cells w) (h : Cells.wf m = true) :
    Cells.wf (m.filter p) = true := by
  induction m with
  | nil => rfl
  | cons c t ih =>
    obtain ⟨k, x⟩ := c
    have h' := (Cells.wf_cons k x t).1 h
    by_cases hp : p (k, x) = true
    · rw [List.filter_cons_of_pos hp]
      exact (Cells.wf_cons _ _ _).2 ⟨h'.1, Cells.above_filter _ k t h'.2.1 h'.2.2, ih h'.2.2⟩
    · rw [List.filter_cons_of_neg hp]; exact ih h'.2.2

theorem Cells.above_dropWhile {w : Nat} (p : Nat × BitVec w → Bool) (n : Nat) (t : Cells w) (h : Cells.above n t)
    (hw : Cells.wf t = true) : Cells.above n (t.dropWhile p) := by
  induction t with
  | nil => trivial
  | cons c t ih =>
    by_cases hp : p c = true
    · rw [List.dropWhile_cons_of_pos hp]
      have h' := (Cells.wf_cons c.1 c.2 t).1 hw
      refine ih ?_ h'.2.2
      cases t with
      | nil => trivial
      | cons c' t' =>
        have h1 := h'.2.1
        obtain ⟨k, x⟩ := c
        obtain ⟨k', x'⟩ := c'
        simp only [Cells.above] at h h1 ⊢
        omega
    · rw [List.dropWhile_cons_of_neg hp]; exact h

theorem Cells.wf_clear {w : Nat} (m : Cells w) (lo hi : Nat) (h : Cells.wf m = true) :
    Cells.wf (m.clear lo hi) = true := by
  induction m with
  | nil => rfl
  | cons c t ih =>
    obtain ⟨k, x⟩ := c
    have h' := (Cells.wf_cons k x t).1 h
    unfold Cells.clear
    by_cases hk : k < lo
    · rw [if_pos hk]
      refine (Cells.wf_cons _ _ _).2 ⟨h'.1, ?_, ih h'.2.2⟩
      cases t with
      | nil => trivial
      | cons c' t' =>
        obtain ⟨k', x'⟩ := c'
        unfold Cells.clear
        by_cases hk' : k' < lo
        · rw [if_pos hk']; exact h'.2.1
        · rw [if_neg hk']; exact Cells.above_dropWhile _ k _ h'.2.1 h'.2.2
    · rw [if_neg hk]; exact Cells.wf_dropWhile _ _ h

theorem Cells.get_dropWhile_lt {w : Nat} (t : Cells w) (hi b : Nat) :
    Cells.get (t.dropWhile (fun c => c.1 < hi)) b = if b < hi then 0#w else Cells.get t b := by
  induction t with
  | nil => simp [Cells.get]
  | cons c t ih =>
    obtain ⟨k, x⟩ := c
    by_cases hk : k < hi
    · rw [List.dropWhile_cons_of_pos (by simpa using hk), ih]
      by_cases hb : b < hi
      · simp [hb]
      · have h1 : ¬ b < k := by omega
        have h2 : ¬ b = k := by omega
        simp [hb, Cells.get, h1, h2]
    · rw [List.dropWhile_cons_of_neg (by simpa using hk)]
      by_cases hb : b < hi
      · have h1 : b < k := by omega
        simp [hb, Cells.get, h1]
      · simp [hb]

/-- Read after a clear, for every storage. -/
theorem Cells.get_clear {w : Nat} (m : Cells w) (lo hi b : Nat) :
    Cells.get (m.clear lo hi) b = if lo ≤ b ∧ b < hi then 0#w else Cells.get m b := by
  induction m with
  | nil => simp [Cells.clear, Cells.get]
  | cons c t ih =>
    obtain ⟨k, x⟩ := c
    unfold Cells.clear
    by_cases hk : k < lo
    · rw [if_pos hk]
      by_cases hb : lo ≤ b ∧ b < hi
      · have h1 : ¬ b < k := by omega
        have h2 : ¬ b = k := by omega
        simp [Cells.get, h1, h2, ih, hb]
      · rw [if_neg hb]; simp only [Cells.get, ih, if_neg hb]
    · rw [if_neg hk, Cells.get_dropWhile_lt]
      by_cases hb : b < hi
      · by_cases hl : lo ≤ b
        · simp [hb, hl]
        · have h1 : b < k := by omega
          simp [hb, hl, Cells.get, h1]
      · simp [hb]

/-! Records. -/

theorem Tbl.get_put {α : Type} (t : Tbl α) (a b : Nat) (v : α) :
    Tbl.get (t.put a v) b = if b = a then some v else Tbl.get t b := by
  induction t with
  | nil =>
    by_cases hb : b = a
    · simp [Tbl.put, Tbl.get, hb]
    · simp [Tbl.put, Tbl.get, hb]
  | cons c t ih =>
    obtain ⟨k, x⟩ := c
    unfold Tbl.put
    by_cases h1 : a < k
    · by_cases hb : b = a
      · simp [h1, hb, Tbl.get]
      · by_cases h3 : b < a
        · have : b < k := by omega
          simp [h1, hb, h3, Tbl.get, this]
        · simp [h1, hb, h3, Tbl.get]
    · by_cases h2 : a = k
      · subst h2
        by_cases hb : b = a
        · simp [hb, Tbl.get]
        · simp [hb, Tbl.get]
      · by_cases hb : b = a
        · subst hb; simp [h1, h2, Tbl.get, ih]
        · by_cases h3 : b < k
          · simp [h1, h2, hb, Tbl.get, h3]
          · by_cases h4 : b = k
            · simp [h1, h2, hb, Tbl.get, h3, h4]
              intro h5; exact absurd h5.symm h2
            · simp [h1, h2, hb, Tbl.get, h3, h4, ih]

@[simp] theorem Tbl.get_put_self {α : Type} (t : Tbl α) (a : Nat) (v : α) : Tbl.get (t.put a v) a = some v := by
  simp [Tbl.get_put]

theorem Tbl.get_put_ne {α : Type} (t : Tbl α) (a b : Nat) (v : α) (h : b ≠ a) :
    Tbl.get (t.put a v) b = Tbl.get t b := by simp [Tbl.get_put, h]

end Sys2Proof.Machine
end

