-- ==== Sys2Proof/Laws/Issue.lean ====
section
/-! SUPPORT. Laws/Issue.lean: what issuing and retiring an instruction can do. -/

namespace Sys2Proof.Machine

/-- An instruction whose own part ends, and whose entries fit, retires. -/
theorem issue_next {len : Nat} {gd : Guard} {s : State} {body : Iss → Run Fin} {c : Iss} {f : Fin} {g' : Group}
    (h : s.Issues len gd c) (hb : body c = .ok f) (hg : f.s.groups.get c.gid = some g') (hm : c.misfit f g' = none)
    (hx : c.crowded g' = false) : issue len gd s body = .next (c.retire f g') := by
  obtain ⟨g, sp, cl, h1, h3, rfl⟩ := h
  simp [issue, h1, h3, Iss.attempt, hb, hg, hm, hx]

/-- An instruction whose own part stops leaves what the stop says. -/
theorem issue_stop {len : Nat} {gd : Guard} {s : State} {body : Iss → Run Fin} {c : Iss} {e : Stop}
    (h : s.Issues len gd c) (hb : body c = .error e) : issue len gd s body = .next (c.stopWith e) := by
  obtain ⟨g, sp, cl, h1, h3, rfl⟩ := h
  simp [issue, h1, h3, Iss.attempt, hb]

/-- Where the buffer holds the entries, the instruction does not wait for a spill (R195). -/
theorem Iss.not_crowded (c : Iss) (g' : Group) (n : Nat) (h : c.g.Holds n) (h1 : g'.hsp.toNat ≤ c.g.hsp.toNat + n)
    (h2 : c.g.hist.hold.isSome = true → c.g.hist.winLo ≤ g'.hist.winLo) (h3 : g'.hbuf = c.g.hbuf) : c.crowded g' = false := by
  rcases h with h | h
  · simp [Iss.crowded, h]
  · by_cases h4 : c.g.hist.hold.isSome = true
    · have := h2 h4
      have : ¬ g'.hist.winLo + 1024 * g'.hbuf < g'.hsp.toNat := by rw [h3]; omega
      simp [Iss.crowded, Group.overfull, this]
    · simp [Iss.crowded, h4]

/-- Entries and count that do not fit: the history-full trap. -/
theorem issue_full {len : Nat} {gd : Guard} {s : State} {body : Iss → Run Fin} {c : Iss} {f : Fin} {g' : Group} {r : Nat}
    (h : s.Issues len gd c) (hb : body c = .ok f) (hg : f.s.groups.get c.gid = some g') (hm : c.misfit f g' = some r) :
    issue len gd s body = .next (c.historyFull r body) := by
  obtain ⟨g, sp, cl, h1, h3, rfl⟩ := h
  simp [issue, h1, h3, Iss.attempt, hb, hg, hm]

theorem Iss.done_get (c : Iss) (g : Group) : (c.done g).s.groups.get c.gid = some g := by
  simp [Iss.done, State.setGroup]

/-- A register-only instruction that ends with its group as `g'`. -/
theorem regOp_next {len : Nat} {gd : Guard} {s : State} {body : Iss → Run Group} {c : Iss} {g' : Group}
    (h : s.Issues len gd c) (hb : body c = .ok g') (hm : c.misfit (c.done g') g' = none)
    (hx : c.crowded g' = false) : regOp len gd s body = .next (c.retire (c.done g') g') :=
  issue_next h (by simp [hb, Except.map]) (c.done_get g') hm hx

theorem Group.retired_frames (g : Group) (sn : Nat) (a b k : Bool) :
    (g.retired sn a b k).frames = g.frames.map (fun f => if f.kind = .surrender then { f with used := f.used + 1 } else f) := by
  unfold Group.retired; cases a <;> cases b <;> dsimp only <;> repeat' (first | rfl | split)

theorem uncounted_used (l : List HFrame) :
    (l.map (fun f => if f.kind = .surrender then { f with used := f.used + 1 } else f)).map HFrame.uncounted =
      l.map HFrame.uncounted := by
  simp only [List.map_map]
  congr 1
  funext f
  simp only [Function.comp]
  split <;> rfl

theorem Group.retired_rest (g : Group) (sn : Nat) (a b k : Bool) :
    { g.retired sn a b k with ic := g.ic, frames := g.frames, hist := g.hist, lastSplit := g.lastSplit } = g := by
  unfold Group.retired; cases a <;> cases b <;> dsimp only <;> repeat' (first | rfl | split)

theorem Tbl.get_upd {α : Type} (t : Tbl α) (a b : Nat) (f : α → α) :
    Tbl.get (t.upd a f) b = if b = a then (t.get a).map f else t.get b := by
  unfold Tbl.upd
  cases h : t.get a with
  | none => by_cases hb : b = a
            · subst hb; simp [h]
            · simp [hb]
  | some x => simp [Tbl.get_put]

/-- A group that halts: nothing of it changes but its clause, kept by its split, and the halt. -/
theorem Group.haltNow_pc (g : Group) (j : Nat) : (g.haltNow.splits.get j).map (·.pc) = (g.splits.get j).map (·.pc) := by
  unfold Group.haltNow
  dsimp only
  split
  · rw [Tbl.get_upd]
    by_cases hj : j = g.cur
    · subst hj; cases g.splits.get g.cur <;> simp
    · simp [hj]
  · rfl

theorem Group.haltNow_other (g : Group) (j : Nat) (h : j ≠ g.cur) : g.haltNow.splits.get j = g.splits.get j := by
  unfold Group.haltNow
  dsimp only
  split
  · simp [Tbl.get_upd, h]
  · rfl

/-- What a step halt does to the device (R416). -/
theorem State.stepHalt_rest (s : State) (gid sn : Nat) :
    { s.stepHalt gid sn with groups := s.groups, ctxs := s.ctxs } = s := by
  unfold State.stepHalt
  repeat' (first | rfl | split | dsimp only)

theorem State.stepHalt_other (s : State) (gid sn i : Nat) (h : i ≠ gid) :
    (s.stepHalt gid sn).groups.get i = s.groups.get i := by
  unfold State.stepHalt
  repeat' (first | split | dsimp only)
  all_goals simp [State.setGroup, State.updCtx, Tbl.get_put, h]

/-- The group after a step halt: itself, or halted. -/
theorem State.stepHalt_group (s : State) (gid sn : Nat) (g : Group) (h : s.groups.get gid = some g) :
    (s.stepHalt gid sn).groups.get gid =
      some (if g.stepBit && !g.inHandler && !g.dir then g.haltNow else g) := by
  unfold State.stepHalt
  simp only [h]
  repeat' (first | split | dsimp only)
  all_goals simp_all [State.setGroup, State.updCtx]

theorem State.stepHalt_ctxs (s : State) (gid sn : Nat) (g : Group) (h : s.groups.get gid = some g)
    (hs : g.stepBit = false) : (s.stepHalt gid sn).ctxs = s.ctxs := by
  unfold State.stepHalt
  simp [h, hs]

/-- The group as it retires in sequence. -/
def Iss.gone (c : Iss) (f : Fin) (g : Group) : Group :=
  ((if f.jump then g else g.advance c.sn c.len).retired c.sn f.count f.sealed (f.count || !c.g.inHandler)).pushed c.sn false

theorem Iss.retire_eq (c : Iss) (f : Fin) (g : Group) :
    c.retire f g = if c.g.inHandler && !f.count then f.s.setGroup c.gid (c.gone f g)
      else (f.s.setGroup c.gid (c.gone f g)).stepHalt c.gid c.sn := rfl

theorem State.setGroup_get (s : State) (i : Nat) (g : Group) : (s.setGroup i g).groups.get i = some g := by
  simp [State.setGroup]

theorem State.setGroup_other (s : State) (i j : Nat) (g : Group) (h : j ≠ i) :
    (s.setGroup i g).groups.get j = s.groups.get j := by simp [State.setGroup, Tbl.get_put, h]

/-- The device around a retirement: nothing but the group and the debug ring of its context. -/
theorem Iss.retire_device (c : Iss) (f : Fin) (g : Group) :
    { c.retire f g with groups := f.s.groups, ctxs := f.s.ctxs } = f.s := by
  rw [Iss.retire_eq]
  split
  · rfl
  · have := State.stepHalt_rest (f.s.setGroup c.gid (c.gone f g)) c.gid c.sn
    exact congrArg (fun s : State => { s with groups := f.s.groups, ctxs := f.s.ctxs }) this

/-- A retirement's group, and the others. -/
theorem Iss.retire_groups (c : Iss) (f : Fin) (g : Group) (i : Nat) :
    (c.retire f g).groups.get i =
      if i = c.gid then
        some (if (c.gone f g).stepBit && !(c.gone f g).inHandler && !(c.gone f g).dir && !(c.g.inHandler && !f.count)
          then (c.gone f g).haltNow else c.gone f g)
      else f.s.groups.get i := by
  rw [Iss.retire_eq]
  by_cases hi : i = c.gid
  · subst hi
    simp only [if_true]
    cases hc : (c.g.inHandler && !f.count)
    · simp [State.stepHalt_group _ c.gid c.sn _ (State.setGroup_get f.s c.gid (c.gone f g))]
    · simp [State.setGroup]
  · simp only [hi, if_false]
    split <;> simp [State.stepHalt_other _ _ _ _ hi, State.setGroup_other _ _ _ _ hi]

theorem Iss.gone_stepBit (c : Iss) (f : Fin) (g : Group) : (c.gone f g).stepBit = g.stepBit := by
  unfold Iss.gone Group.retired
  cases f.jump <;> cases f.count <;> cases f.sealed <;> dsimp only <;> repeat' (first | rfl | split)

theorem Iss.retire_ctxs (c : Iss) (f : Fin) (g : Group) (h : g.stepBit = false) : (c.retire f g).ctxs = f.s.ctxs := by
  have hs := State.stepHalt_ctxs _ c.gid c.sn _ (State.setGroup_get f.s c.gid (c.gone f g)) (by rw [c.gone_stepBit, h])
  rw [Iss.retire_eq]
  split
  · rfl
  · rw [hs]; rfl

theorem Iss.gone_rest (c : Iss) (f : Fin) (g : Group) :
    { c.gone f g with ic := g.ic, splits := g.splits, clause := g.clause, halted := g.halted, resume := g.resume, frames := g.frames, hist := g.hist, lastSplit := g.lastSplit } = g := by
  unfold Iss.gone
  have h := Group.retired_rest (if f.jump then g else g.advance c.sn c.len) c.sn f.count f.sealed (f.count || !c.g.inHandler)
  have h2 := congrArg (fun u : Group => { u with ic := g.ic, splits := g.splits, clause := g.clause, halted := g.halted, resume := g.resume, frames := g.frames, hist := g.hist, lastSplit := g.lastSplit }) h
  refine Eq.trans h2 ?_
  cases f.jump <;> rfl

theorem Iss.gone_ic (c : Iss) (f : Fin) (g : Group) : (c.gone f g).ic = if f.count then g.ic + 1#48 else g.ic := by
  unfold Iss.gone Group.retired
  cases f.jump <;> cases f.count <;> cases f.sealed <;> dsimp only <;> repeat' (first | rfl | split)

theorem Iss.gone_splits (c : Iss) (f : Fin) (g : Group) (h : f.jump = false) :
    (c.gone f g).splits = (g.advance c.sn c.len).splits := by
  unfold Iss.gone Group.retired
  cases f.count <;> cases f.sealed <;> simp only [h] <;> repeat' (first | rfl | contradiction | split)

theorem Iss.gone_clause (c : Iss) (f : Fin) (g : Group) (h : f.jump = false) :
    (c.gone f g).clause = g.nextClause := by
  unfold Iss.gone Group.retired
  cases f.count <;> cases f.sealed <;> simp only [h] <;> repeat' (first | rfl | contradiction | split)

theorem Iss.gone_frames (c : Iss) (f : Fin) (g : Group) :
    (c.gone f g).frames.map HFrame.uncounted = g.frames.map HFrame.uncounted := by
  show (Group.retired _ _ _ _ _).frames.map _ = _
  rw [Group.retired_frames]
  cases f.jump
  · exact uncounted_used _
  · exact uncounted_used _

theorem Iss.gone_inHandler (c : Iss) (f : Fin) (g : Group) : (c.gone f g).inHandler = g.inHandler := by
  have h := congrArg List.isEmpty (c.gone_frames f g)
  simp only [List.isEmpty_map] at h
  simp [Group.inHandler, h]

/-- The retirement of an ordinary instruction, in the terms of the statements. -/
theorem Iss.retires (c : Iss) (f : Fin) (g : Group) (hj : f.jump = false) (hc : f.count = c.counts)
    (hcur : g.cur = c.sn) (hh : g.halted = false) : c.Retires f.s g (c.retire f g) where
  device := c.retire_device f g
  others := fun i hi => by simp [Iss.retire_groups, hi]
  noStep := c.retire_ctxs f g
  group := by
    have hr := c.gone_rest f g
    have hsb := c.gone_stepBit f g
    have hih := c.gone_inHandler f g
    have hdir : (c.gone f g).dir = g.dir := by have := congrArg Group.dir hr; exact this
    have hcur' : (c.gone f g).cur = c.sn := by have := congrArg Group.cur hr; exact this.trans hcur
    have hhalt : (c.gone f g).halted = false := by
      unfold Iss.gone Group.retired
      cases f.count <;> cases f.sealed <;> simp only [hj] <;> repeat' (first | exact hh | contradiction | split)
    have hres : (c.gone f g).resume = g.resume := by
      unfold Iss.gone Group.retired
      cases f.count <;> cases f.sealed <;> simp only [hj] <;> repeat' (first | rfl | contradiction | split)
    have hpc : ((c.gone f g).splits.get c.sn).map (·.pc) =
        (g.splits.get c.sn).map (fun sp => sp.pc + BitVec.ofNat 57 (4 * c.len)) := by
      rw [c.gone_splits f g hj]
      simp [Group.advance, Tbl.get_upd]
      cases g.splits.get c.sn <;> rfl
    have hsp : ∀ j, j ≠ c.sn → (c.gone f g).splits.get j = g.splits.get j := by
      intro j hne
      rw [c.gone_splits f g hj]
      simp [Group.advance, Tbl.get_upd, hne]
    refine ⟨_, by rw [Iss.retire_groups, if_pos rfl], ?_⟩
    rw [hsb, hih, hdir]
    constructor
    · rw [← hc]
      split
      · exact c.gone_ic f g
      · exact c.gone_ic f g
    · split
      · rw [Group.haltNow_pc]; exact hpc
      · exact hpc
    · intro j hne
      split
      · rw [Group.haltNow_other _ _ (by rw [hcur']; exact hne)]; exact hsp j hne
      · exact hsp j hne
    · intro h0
      simp only [h0, Bool.false_and, Bool.false_eq_true, if_false]
      exact c.gone_clause f g hj
    · intro h1
      have : (g.stepBit && !g.inHandler && !g.dir && !(c.g.inHandler && !f.count)) = true := by
        rw [hc]; simp only [Iss.counts, Bool.and_eq_true, Bool.not_eq_true'] at h1 ⊢
        obtain ⟨⟨⟨a1, a2⟩, a3⟩, a4⟩ := h1
        simp [a1, a2, a3, a4]
      rw [if_pos this]
      exact ⟨rfl, rfl⟩
    · intro h0
      simp only [h0, Bool.false_and, Bool.false_eq_true, if_false]
      exact ⟨hhalt.trans hh.symm, hres⟩
    · split
      · exact c.gone_frames f g
      · exact c.gone_frames f g
    · split
      · exact hr
      · exact hr

end Sys2Proof.Machine
end

