-- ==== Sys2Proof/Laws/State.lean ====
section
/-! SUPPORT. Laws/State.lean: each update of the device, field by field. -/

namespace Sys2Proof.Machine

variable (s : State)

@[simp] theorem State.setCore_part (i : Nat) (x : Core) : (s.setCore i x).part = s.part := rfl
@[simp] theorem State.setCore_mem (i : Nat) (x : Core) : (s.setCore i x).mem = s.mem := rfl
@[simp] theorem State.setCore_polder (i : Nat) (x : Core) : (s.setCore i x).polder = s.polder := rfl
@[simp] theorem State.setCore_poison (i : Nat) (x : Core) : (s.setCore i x).poison = s.poison := rfl
@[simp] theorem State.setCore_failed (i : Nat) (x : Core) : (s.setCore i x).failed = s.failed := rfl
@[simp] theorem State.setCore_tiles (i : Nat) (x : Core) : (s.setCore i x).tiles = s.tiles := rfl
@[simp] theorem State.setCore_seals (i : Nat) (x : Core) : (s.setCore i x).seals = s.seals := rfl
@[simp] theorem State.setCore_copies (i : Nat) (x : Core) : (s.setCore i x).copies = s.copies := rfl
@[simp] theorem State.setCore_sweeps (i : Nat) (x : Core) : (s.setCore i x).sweeps = s.sweeps := rfl
@[simp] theorem State.setCore_cores (i : Nat) (x : Core) : (s.setCore i x).cores = s.cores.put i x := rfl
@[simp] theorem State.setCore_homeDir (i : Nat) (x : Core) : (s.setCore i x).homeDir = s.homeDir := rfl
@[simp] theorem State.setCore_filters (i : Nat) (x : Core) : (s.setCore i x).filters = s.filters := rfl
@[simp] theorem State.setCore_pend (i : Nat) (x : Core) : (s.setCore i x).pend = s.pend := rfl
@[simp] theorem State.setCore_ctxs (i : Nat) (x : Core) : (s.setCore i x).ctxs = s.ctxs := rfl
@[simp] theorem State.setCore_grids (i : Nat) (x : Core) : (s.setCore i x).grids = s.grids := rfl
@[simp] theorem State.setCore_teams (i : Nat) (x : Core) : (s.setCore i x).teams = s.teams := rfl
@[simp] theorem State.setCore_groups (i : Nat) (x : Core) : (s.setCore i x).groups = s.groups := rfl
@[simp] theorem State.setCore_growQ (i : Nat) (x : Core) : (s.setCore i x).growQ = s.growQ := rfl
@[simp] theorem State.setCore_sent (i : Nat) (x : Core) : (s.setCore i x).sent = s.sent := rfl
@[simp] theorem State.setCore_rxHeld (i : Nat) (x : Core) : (s.setCore i x).rxHeld = s.rxHeld := rfl
@[simp] theorem State.setCore_rxSeq (i : Nat) (x : Core) : (s.setCore i x).rxSeq = s.rxSeq := rfl
@[simp] theorem State.setCore_txSeq (i : Nat) (x : Core) : (s.setCore i x).txSeq = s.txSeq := rfl
@[simp] theorem State.setCore_mgmt (i : Nat) (x : Core) : (s.setCore i x).mgmt = s.mgmt := rfl
@[simp] theorem State.setCore_field (i : Nat) (x : Core) : (s.setCore i x).field = s.field := rfl
@[simp] theorem State.setCore_dump (i : Nat) (x : Core) : (s.setCore i x).dump = s.dump := rfl
@[simp] theorem State.setCore_hostBuf (i : Nat) (x : Core) : (s.setCore i x).hostBuf = s.hostBuf := rfl
@[simp] theorem State.setCore_deviceNo (i : Nat) (x : Core) : (s.setCore i x).deviceNo = s.deviceNo := rfl
@[simp] theorem State.setCore_cur (i : Nat) (x : Core) : (s.setCore i x).cur = s.cur := rfl
@[simp] theorem State.setCore_inputs (i : Nat) (x : Core) : (s.setCore i x).inputs = s.inputs := rfl
@[simp] theorem State.setCore_engine (i : Nat) (x : Core) : (s.setCore i x).engine = s.engine := rfl
@[simp] theorem State.setCore_timers (i : Nat) (x : Core) : (s.setCore i x).timers = s.timers := rfl
@[simp] theorem State.setCore_nextId (i : Nat) (x : Core) : (s.setCore i x).nextId = s.nextId := rfl
@[simp] theorem State.setCore_fresh (i : Nat) (x : Core) : (s.setCore i x).fresh = s.fresh := rfl
@[simp] theorem State.setCore_ticks (i : Nat) (x : Core) : (s.setCore i x).ticks = s.ticks := rfl
@[simp] theorem State.setCore_decoders (i : Nat) (x : Core) : (s.setCore i x).decoders = s.decoders := rfl
@[simp] theorem State.setCore_pcache (i : Nat) (x : Core) : (s.setCore i x).pcache = s.pcache := rfl
@[simp] theorem State.setCore_routes (i : Nat) (x : Core) : (s.setCore i x).routes = s.routes := rfl
@[simp] theorem State.setCore_wire (i : Nat) (x : Core) : (s.setCore i x).wire = s.wire := rfl
@[simp] theorem State.setCore_heldDumps (i : Nat) (x : Core) : (s.setCore i x).heldDumps = s.heldDumps := rfl
@[simp] theorem State.setCore_goneDbg (i : Nat) (x : Core) : (s.setCore i x).goneDbg = s.goneDbg := rfl
@[simp] theorem State.setCore_ptrs (i : Nat) (x : Core) : (s.setCore i x).ptrs = s.ptrs := rfl
@[simp] theorem State.setCore_quad (i : Nat) (x : Core) : (s.setCore i x).quad = s.quad := rfl

@[simp] theorem State.setGroup_part (i : Nat) (g : Group) : (s.setGroup i g).part = s.part := rfl
@[simp] theorem State.setGroup_mem (i : Nat) (g : Group) : (s.setGroup i g).mem = s.mem := rfl
@[simp] theorem State.setGroup_polder (i : Nat) (g : Group) : (s.setGroup i g).polder = s.polder := rfl
@[simp] theorem State.setGroup_poison (i : Nat) (g : Group) : (s.setGroup i g).poison = s.poison := rfl
@[simp] theorem State.setGroup_failed (i : Nat) (g : Group) : (s.setGroup i g).failed = s.failed := rfl
@[simp] theorem State.setGroup_tiles (i : Nat) (g : Group) : (s.setGroup i g).tiles = s.tiles := rfl
@[simp] theorem State.setGroup_seals (i : Nat) (g : Group) : (s.setGroup i g).seals = s.seals := rfl
@[simp] theorem State.setGroup_copies (i : Nat) (g : Group) : (s.setGroup i g).copies = s.copies := rfl
@[simp] theorem State.setGroup_sweeps (i : Nat) (g : Group) : (s.setGroup i g).sweeps = s.sweeps := rfl
@[simp] theorem State.setGroup_cores (i : Nat) (g : Group) : (s.setGroup i g).cores = s.cores := rfl
@[simp] theorem State.setGroup_homeDir (i : Nat) (g : Group) : (s.setGroup i g).homeDir = s.homeDir := rfl
@[simp] theorem State.setGroup_filters (i : Nat) (g : Group) : (s.setGroup i g).filters = s.filters := rfl
@[simp] theorem State.setGroup_pend (i : Nat) (g : Group) : (s.setGroup i g).pend = s.pend := rfl
@[simp] theorem State.setGroup_ctxs (i : Nat) (g : Group) : (s.setGroup i g).ctxs = s.ctxs := rfl
@[simp] theorem State.setGroup_grids (i : Nat) (g : Group) : (s.setGroup i g).grids = s.grids := rfl
@[simp] theorem State.setGroup_teams (i : Nat) (g : Group) : (s.setGroup i g).teams = s.teams := rfl
@[simp] theorem State.setGroup_groups (i : Nat) (g : Group) : (s.setGroup i g).groups = s.groups.put i g := rfl
@[simp] theorem State.setGroup_growQ (i : Nat) (g : Group) : (s.setGroup i g).growQ = s.growQ := rfl
@[simp] theorem State.setGroup_sent (i : Nat) (g : Group) : (s.setGroup i g).sent = s.sent := rfl
@[simp] theorem State.setGroup_rxHeld (i : Nat) (g : Group) : (s.setGroup i g).rxHeld = s.rxHeld := rfl
@[simp] theorem State.setGroup_rxSeq (i : Nat) (g : Group) : (s.setGroup i g).rxSeq = s.rxSeq := rfl
@[simp] theorem State.setGroup_txSeq (i : Nat) (g : Group) : (s.setGroup i g).txSeq = s.txSeq := rfl
@[simp] theorem State.setGroup_mgmt (i : Nat) (g : Group) : (s.setGroup i g).mgmt = s.mgmt := rfl
@[simp] theorem State.setGroup_field (i : Nat) (g : Group) : (s.setGroup i g).field = s.field := rfl
@[simp] theorem State.setGroup_dump (i : Nat) (g : Group) : (s.setGroup i g).dump = s.dump := rfl
@[simp] theorem State.setGroup_hostBuf (i : Nat) (g : Group) : (s.setGroup i g).hostBuf = s.hostBuf := rfl
@[simp] theorem State.setGroup_deviceNo (i : Nat) (g : Group) : (s.setGroup i g).deviceNo = s.deviceNo := rfl
@[simp] theorem State.setGroup_cur (i : Nat) (g : Group) : (s.setGroup i g).cur = s.cur := rfl
@[simp] theorem State.setGroup_inputs (i : Nat) (g : Group) : (s.setGroup i g).inputs = s.inputs := rfl
@[simp] theorem State.setGroup_engine (i : Nat) (g : Group) : (s.setGroup i g).engine = s.engine := rfl
@[simp] theorem State.setGroup_timers (i : Nat) (g : Group) : (s.setGroup i g).timers = s.timers := rfl
@[simp] theorem State.setGroup_nextId (i : Nat) (g : Group) : (s.setGroup i g).nextId = s.nextId := rfl
@[simp] theorem State.setGroup_fresh (i : Nat) (g : Group) : (s.setGroup i g).fresh = s.fresh := rfl
@[simp] theorem State.setGroup_ticks (i : Nat) (g : Group) : (s.setGroup i g).ticks = s.ticks := rfl
@[simp] theorem State.setGroup_decoders (i : Nat) (g : Group) : (s.setGroup i g).decoders = s.decoders := rfl
@[simp] theorem State.setGroup_pcache (i : Nat) (g : Group) : (s.setGroup i g).pcache = s.pcache := rfl
@[simp] theorem State.setGroup_routes (i : Nat) (g : Group) : (s.setGroup i g).routes = s.routes := rfl
@[simp] theorem State.setGroup_wire (i : Nat) (g : Group) : (s.setGroup i g).wire = s.wire := rfl
@[simp] theorem State.setGroup_heldDumps (i : Nat) (g : Group) : (s.setGroup i g).heldDumps = s.heldDumps := rfl
@[simp] theorem State.setGroup_goneDbg (i : Nat) (g : Group) : (s.setGroup i g).goneDbg = s.goneDbg := rfl
@[simp] theorem State.setGroup_ptrs (i : Nat) (g : Group) : (s.setGroup i g).ptrs = s.ptrs := rfl
@[simp] theorem State.setGroup_quad (i : Nat) (g : Group) : (s.setGroup i g).quad = s.quad := rfl

@[simp] theorem State.updGroup_part (i : Nat) (f : Group → Group) : (s.updGroup i f).part = s.part := rfl
@[simp] theorem State.updGroup_mem (i : Nat) (f : Group → Group) : (s.updGroup i f).mem = s.mem := rfl
@[simp] theorem State.updGroup_polder (i : Nat) (f : Group → Group) : (s.updGroup i f).polder = s.polder := rfl
@[simp] theorem State.updGroup_poison (i : Nat) (f : Group → Group) : (s.updGroup i f).poison = s.poison := rfl
@[simp] theorem State.updGroup_failed (i : Nat) (f : Group → Group) : (s.updGroup i f).failed = s.failed := rfl
@[simp] theorem State.updGroup_tiles (i : Nat) (f : Group → Group) : (s.updGroup i f).tiles = s.tiles := rfl
@[simp] theorem State.updGroup_seals (i : Nat) (f : Group → Group) : (s.updGroup i f).seals = s.seals := rfl
@[simp] theorem State.updGroup_copies (i : Nat) (f : Group → Group) : (s.updGroup i f).copies = s.copies := rfl
@[simp] theorem State.updGroup_sweeps (i : Nat) (f : Group → Group) : (s.updGroup i f).sweeps = s.sweeps := rfl
@[simp] theorem State.updGroup_cores (i : Nat) (f : Group → Group) : (s.updGroup i f).cores = s.cores := rfl
@[simp] theorem State.updGroup_homeDir (i : Nat) (f : Group → Group) : (s.updGroup i f).homeDir = s.homeDir := rfl
@[simp] theorem State.updGroup_filters (i : Nat) (f : Group → Group) : (s.updGroup i f).filters = s.filters := rfl
@[simp] theorem State.updGroup_pend (i : Nat) (f : Group → Group) : (s.updGroup i f).pend = s.pend := rfl
@[simp] theorem State.updGroup_ctxs (i : Nat) (f : Group → Group) : (s.updGroup i f).ctxs = s.ctxs := rfl
@[simp] theorem State.updGroup_grids (i : Nat) (f : Group → Group) : (s.updGroup i f).grids = s.grids := rfl
@[simp] theorem State.updGroup_teams (i : Nat) (f : Group → Group) : (s.updGroup i f).teams = s.teams := rfl
@[simp] theorem State.updGroup_groups (i : Nat) (f : Group → Group) : (s.updGroup i f).groups = s.groups.upd i f := rfl
@[simp] theorem State.updGroup_growQ (i : Nat) (f : Group → Group) : (s.updGroup i f).growQ = s.growQ := rfl
@[simp] theorem State.updGroup_sent (i : Nat) (f : Group → Group) : (s.updGroup i f).sent = s.sent := rfl
@[simp] theorem State.updGroup_rxHeld (i : Nat) (f : Group → Group) : (s.updGroup i f).rxHeld = s.rxHeld := rfl
@[simp] theorem State.updGroup_rxSeq (i : Nat) (f : Group → Group) : (s.updGroup i f).rxSeq = s.rxSeq := rfl
@[simp] theorem State.updGroup_txSeq (i : Nat) (f : Group → Group) : (s.updGroup i f).txSeq = s.txSeq := rfl
@[simp] theorem State.updGroup_mgmt (i : Nat) (f : Group → Group) : (s.updGroup i f).mgmt = s.mgmt := rfl
@[simp] theorem State.updGroup_field (i : Nat) (f : Group → Group) : (s.updGroup i f).field = s.field := rfl
@[simp] theorem State.updGroup_dump (i : Nat) (f : Group → Group) : (s.updGroup i f).dump = s.dump := rfl
@[simp] theorem State.updGroup_hostBuf (i : Nat) (f : Group → Group) : (s.updGroup i f).hostBuf = s.hostBuf := rfl
@[simp] theorem State.updGroup_deviceNo (i : Nat) (f : Group → Group) : (s.updGroup i f).deviceNo = s.deviceNo := rfl
@[simp] theorem State.updGroup_cur (i : Nat) (f : Group → Group) : (s.updGroup i f).cur = s.cur := rfl
@[simp] theorem State.updGroup_inputs (i : Nat) (f : Group → Group) : (s.updGroup i f).inputs = s.inputs := rfl
@[simp] theorem State.updGroup_engine (i : Nat) (f : Group → Group) : (s.updGroup i f).engine = s.engine := rfl
@[simp] theorem State.updGroup_timers (i : Nat) (f : Group → Group) : (s.updGroup i f).timers = s.timers := rfl
@[simp] theorem State.updGroup_nextId (i : Nat) (f : Group → Group) : (s.updGroup i f).nextId = s.nextId := rfl
@[simp] theorem State.updGroup_fresh (i : Nat) (f : Group → Group) : (s.updGroup i f).fresh = s.fresh := rfl
@[simp] theorem State.updGroup_ticks (i : Nat) (f : Group → Group) : (s.updGroup i f).ticks = s.ticks := rfl
@[simp] theorem State.updGroup_decoders (i : Nat) (f : Group → Group) : (s.updGroup i f).decoders = s.decoders := rfl
@[simp] theorem State.updGroup_pcache (i : Nat) (f : Group → Group) : (s.updGroup i f).pcache = s.pcache := rfl
@[simp] theorem State.updGroup_routes (i : Nat) (f : Group → Group) : (s.updGroup i f).routes = s.routes := rfl
@[simp] theorem State.updGroup_wire (i : Nat) (f : Group → Group) : (s.updGroup i f).wire = s.wire := rfl
@[simp] theorem State.updGroup_heldDumps (i : Nat) (f : Group → Group) : (s.updGroup i f).heldDumps = s.heldDumps := rfl
@[simp] theorem State.updGroup_goneDbg (i : Nat) (f : Group → Group) : (s.updGroup i f).goneDbg = s.goneDbg := rfl
@[simp] theorem State.updGroup_ptrs (i : Nat) (f : Group → Group) : (s.updGroup i f).ptrs = s.ptrs := rfl
@[simp] theorem State.updGroup_quad (i : Nat) (f : Group → Group) : (s.updGroup i f).quad = s.quad := rfl

@[simp] theorem State.updCtx_part (i : Nat) (f : Ctx → Ctx) : (s.updCtx i f).part = s.part := rfl
@[simp] theorem State.updCtx_mem (i : Nat) (f : Ctx → Ctx) : (s.updCtx i f).mem = s.mem := rfl
@[simp] theorem State.updCtx_polder (i : Nat) (f : Ctx → Ctx) : (s.updCtx i f).polder = s.polder := rfl
@[simp] theorem State.updCtx_poison (i : Nat) (f : Ctx → Ctx) : (s.updCtx i f).poison = s.poison := rfl
@[simp] theorem State.updCtx_failed (i : Nat) (f : Ctx → Ctx) : (s.updCtx i f).failed = s.failed := rfl
@[simp] theorem State.updCtx_tiles (i : Nat) (f : Ctx → Ctx) : (s.updCtx i f).tiles = s.tiles := rfl
@[simp] theorem State.updCtx_seals (i : Nat) (f : Ctx → Ctx) : (s.updCtx i f).seals = s.seals := rfl
@[simp] theorem State.updCtx_copies (i : Nat) (f : Ctx → Ctx) : (s.updCtx i f).copies = s.copies := rfl
@[simp] theorem State.updCtx_sweeps (i : Nat) (f : Ctx → Ctx) : (s.updCtx i f).sweeps = s.sweeps := rfl
@[simp] theorem State.updCtx_cores (i : Nat) (f : Ctx → Ctx) : (s.updCtx i f).cores = s.cores := rfl
@[simp] theorem State.updCtx_homeDir (i : Nat) (f : Ctx → Ctx) : (s.updCtx i f).homeDir = s.homeDir := rfl
@[simp] theorem State.updCtx_filters (i : Nat) (f : Ctx → Ctx) : (s.updCtx i f).filters = s.filters := rfl
@[simp] theorem State.updCtx_pend (i : Nat) (f : Ctx → Ctx) : (s.updCtx i f).pend = s.pend := rfl
@[simp] theorem State.updCtx_ctxs (i : Nat) (f : Ctx → Ctx) : (s.updCtx i f).ctxs = s.ctxs.upd i f := rfl
@[simp] theorem State.updCtx_grids (i : Nat) (f : Ctx → Ctx) : (s.updCtx i f).grids = s.grids := rfl
@[simp] theorem State.updCtx_teams (i : Nat) (f : Ctx → Ctx) : (s.updCtx i f).teams = s.teams := rfl
@[simp] theorem State.updCtx_groups (i : Nat) (f : Ctx → Ctx) : (s.updCtx i f).groups = s.groups := rfl
@[simp] theorem State.updCtx_growQ (i : Nat) (f : Ctx → Ctx) : (s.updCtx i f).growQ = s.growQ := rfl
@[simp] theorem State.updCtx_sent (i : Nat) (f : Ctx → Ctx) : (s.updCtx i f).sent = s.sent := rfl
@[simp] theorem State.updCtx_rxHeld (i : Nat) (f : Ctx → Ctx) : (s.updCtx i f).rxHeld = s.rxHeld := rfl
@[simp] theorem State.updCtx_rxSeq (i : Nat) (f : Ctx → Ctx) : (s.updCtx i f).rxSeq = s.rxSeq := rfl
@[simp] theorem State.updCtx_txSeq (i : Nat) (f : Ctx → Ctx) : (s.updCtx i f).txSeq = s.txSeq := rfl
@[simp] theorem State.updCtx_mgmt (i : Nat) (f : Ctx → Ctx) : (s.updCtx i f).mgmt = s.mgmt := rfl
@[simp] theorem State.updCtx_field (i : Nat) (f : Ctx → Ctx) : (s.updCtx i f).field = s.field := rfl
@[simp] theorem State.updCtx_dump (i : Nat) (f : Ctx → Ctx) : (s.updCtx i f).dump = s.dump := rfl
@[simp] theorem State.updCtx_hostBuf (i : Nat) (f : Ctx → Ctx) : (s.updCtx i f).hostBuf = s.hostBuf := rfl
@[simp] theorem State.updCtx_deviceNo (i : Nat) (f : Ctx → Ctx) : (s.updCtx i f).deviceNo = s.deviceNo := rfl
@[simp] theorem State.updCtx_cur (i : Nat) (f : Ctx → Ctx) : (s.updCtx i f).cur = s.cur := rfl
@[simp] theorem State.updCtx_inputs (i : Nat) (f : Ctx → Ctx) : (s.updCtx i f).inputs = s.inputs := rfl
@[simp] theorem State.updCtx_engine (i : Nat) (f : Ctx → Ctx) : (s.updCtx i f).engine = s.engine := rfl
@[simp] theorem State.updCtx_timers (i : Nat) (f : Ctx → Ctx) : (s.updCtx i f).timers = s.timers := rfl
@[simp] theorem State.updCtx_nextId (i : Nat) (f : Ctx → Ctx) : (s.updCtx i f).nextId = s.nextId := rfl
@[simp] theorem State.updCtx_fresh (i : Nat) (f : Ctx → Ctx) : (s.updCtx i f).fresh = s.fresh := rfl
@[simp] theorem State.updCtx_ticks (i : Nat) (f : Ctx → Ctx) : (s.updCtx i f).ticks = s.ticks := rfl
@[simp] theorem State.updCtx_decoders (i : Nat) (f : Ctx → Ctx) : (s.updCtx i f).decoders = s.decoders := rfl
@[simp] theorem State.updCtx_pcache (i : Nat) (f : Ctx → Ctx) : (s.updCtx i f).pcache = s.pcache := rfl
@[simp] theorem State.updCtx_routes (i : Nat) (f : Ctx → Ctx) : (s.updCtx i f).routes = s.routes := rfl
@[simp] theorem State.updCtx_wire (i : Nat) (f : Ctx → Ctx) : (s.updCtx i f).wire = s.wire := rfl
@[simp] theorem State.updCtx_heldDumps (i : Nat) (f : Ctx → Ctx) : (s.updCtx i f).heldDumps = s.heldDumps := rfl
@[simp] theorem State.updCtx_goneDbg (i : Nat) (f : Ctx → Ctx) : (s.updCtx i f).goneDbg = s.goneDbg := rfl
@[simp] theorem State.updCtx_ptrs (i : Nat) (f : Ctx → Ctx) : (s.updCtx i f).ptrs = s.ptrs := rfl
@[simp] theorem State.updCtx_quad (i : Nat) (f : Ctx → Ctx) : (s.updCtx i f).quad = s.quad := rfl

@[simp] theorem State.updTeam_part (i : Nat) (f : Team → Team) : (s.updTeam i f).part = s.part := rfl
@[simp] theorem State.updTeam_mem (i : Nat) (f : Team → Team) : (s.updTeam i f).mem = s.mem := rfl
@[simp] theorem State.updTeam_polder (i : Nat) (f : Team → Team) : (s.updTeam i f).polder = s.polder := rfl
@[simp] theorem State.updTeam_poison (i : Nat) (f : Team → Team) : (s.updTeam i f).poison = s.poison := rfl
@[simp] theorem State.updTeam_failed (i : Nat) (f : Team → Team) : (s.updTeam i f).failed = s.failed := rfl
@[simp] theorem State.updTeam_tiles (i : Nat) (f : Team → Team) : (s.updTeam i f).tiles = s.tiles := rfl
@[simp] theorem State.updTeam_seals (i : Nat) (f : Team → Team) : (s.updTeam i f).seals = s.seals := rfl
@[simp] theorem State.updTeam_copies (i : Nat) (f : Team → Team) : (s.updTeam i f).copies = s.copies := rfl
@[simp] theorem State.updTeam_sweeps (i : Nat) (f : Team → Team) : (s.updTeam i f).sweeps = s.sweeps := rfl
@[simp] theorem State.updTeam_cores (i : Nat) (f : Team → Team) : (s.updTeam i f).cores = s.cores := rfl
@[simp] theorem State.updTeam_homeDir (i : Nat) (f : Team → Team) : (s.updTeam i f).homeDir = s.homeDir := rfl
@[simp] theorem State.updTeam_filters (i : Nat) (f : Team → Team) : (s.updTeam i f).filters = s.filters := rfl
@[simp] theorem State.updTeam_pend (i : Nat) (f : Team → Team) : (s.updTeam i f).pend = s.pend := rfl
@[simp] theorem State.updTeam_ctxs (i : Nat) (f : Team → Team) : (s.updTeam i f).ctxs = s.ctxs := rfl
@[simp] theorem State.updTeam_grids (i : Nat) (f : Team → Team) : (s.updTeam i f).grids = s.grids := rfl
@[simp] theorem State.updTeam_teams (i : Nat) (f : Team → Team) : (s.updTeam i f).teams = s.teams.upd i f := rfl
@[simp] theorem State.updTeam_groups (i : Nat) (f : Team → Team) : (s.updTeam i f).groups = s.groups := rfl
@[simp] theorem State.updTeam_growQ (i : Nat) (f : Team → Team) : (s.updTeam i f).growQ = s.growQ := rfl
@[simp] theorem State.updTeam_sent (i : Nat) (f : Team → Team) : (s.updTeam i f).sent = s.sent := rfl
@[simp] theorem State.updTeam_rxHeld (i : Nat) (f : Team → Team) : (s.updTeam i f).rxHeld = s.rxHeld := rfl
@[simp] theorem State.updTeam_rxSeq (i : Nat) (f : Team → Team) : (s.updTeam i f).rxSeq = s.rxSeq := rfl
@[simp] theorem State.updTeam_txSeq (i : Nat) (f : Team → Team) : (s.updTeam i f).txSeq = s.txSeq := rfl
@[simp] theorem State.updTeam_mgmt (i : Nat) (f : Team → Team) : (s.updTeam i f).mgmt = s.mgmt := rfl
@[simp] theorem State.updTeam_field (i : Nat) (f : Team → Team) : (s.updTeam i f).field = s.field := rfl
@[simp] theorem State.updTeam_dump (i : Nat) (f : Team → Team) : (s.updTeam i f).dump = s.dump := rfl
@[simp] theorem State.updTeam_hostBuf (i : Nat) (f : Team → Team) : (s.updTeam i f).hostBuf = s.hostBuf := rfl
@[simp] theorem State.updTeam_deviceNo (i : Nat) (f : Team → Team) : (s.updTeam i f).deviceNo = s.deviceNo := rfl
@[simp] theorem State.updTeam_cur (i : Nat) (f : Team → Team) : (s.updTeam i f).cur = s.cur := rfl
@[simp] theorem State.updTeam_inputs (i : Nat) (f : Team → Team) : (s.updTeam i f).inputs = s.inputs := rfl
@[simp] theorem State.updTeam_engine (i : Nat) (f : Team → Team) : (s.updTeam i f).engine = s.engine := rfl
@[simp] theorem State.updTeam_timers (i : Nat) (f : Team → Team) : (s.updTeam i f).timers = s.timers := rfl
@[simp] theorem State.updTeam_nextId (i : Nat) (f : Team → Team) : (s.updTeam i f).nextId = s.nextId := rfl
@[simp] theorem State.updTeam_fresh (i : Nat) (f : Team → Team) : (s.updTeam i f).fresh = s.fresh := rfl
@[simp] theorem State.updTeam_ticks (i : Nat) (f : Team → Team) : (s.updTeam i f).ticks = s.ticks := rfl
@[simp] theorem State.updTeam_decoders (i : Nat) (f : Team → Team) : (s.updTeam i f).decoders = s.decoders := rfl
@[simp] theorem State.updTeam_pcache (i : Nat) (f : Team → Team) : (s.updTeam i f).pcache = s.pcache := rfl
@[simp] theorem State.updTeam_routes (i : Nat) (f : Team → Team) : (s.updTeam i f).routes = s.routes := rfl
@[simp] theorem State.updTeam_wire (i : Nat) (f : Team → Team) : (s.updTeam i f).wire = s.wire := rfl
@[simp] theorem State.updTeam_heldDumps (i : Nat) (f : Team → Team) : (s.updTeam i f).heldDumps = s.heldDumps := rfl
@[simp] theorem State.updTeam_goneDbg (i : Nat) (f : Team → Team) : (s.updTeam i f).goneDbg = s.goneDbg := rfl
@[simp] theorem State.updTeam_ptrs (i : Nat) (f : Team → Team) : (s.updTeam i f).ptrs = s.ptrs := rfl
@[simp] theorem State.updTeam_quad (i : Nat) (f : Team → Team) : (s.updTeam i f).quad = s.quad := rfl

@[simp] theorem State.updGrid_part (i : Nat) (f : Grid → Grid) : (s.updGrid i f).part = s.part := rfl
@[simp] theorem State.updGrid_mem (i : Nat) (f : Grid → Grid) : (s.updGrid i f).mem = s.mem := rfl
@[simp] theorem State.updGrid_polder (i : Nat) (f : Grid → Grid) : (s.updGrid i f).polder = s.polder := rfl
@[simp] theorem State.updGrid_poison (i : Nat) (f : Grid → Grid) : (s.updGrid i f).poison = s.poison := rfl
@[simp] theorem State.updGrid_failed (i : Nat) (f : Grid → Grid) : (s.updGrid i f).failed = s.failed := rfl
@[simp] theorem State.updGrid_tiles (i : Nat) (f : Grid → Grid) : (s.updGrid i f).tiles = s.tiles := rfl
@[simp] theorem State.updGrid_seals (i : Nat) (f : Grid → Grid) : (s.updGrid i f).seals = s.seals := rfl
@[simp] theorem State.updGrid_copies (i : Nat) (f : Grid → Grid) : (s.updGrid i f).copies = s.copies := rfl
@[simp] theorem State.updGrid_sweeps (i : Nat) (f : Grid → Grid) : (s.updGrid i f).sweeps = s.sweeps := rfl
@[simp] theorem State.updGrid_cores (i : Nat) (f : Grid → Grid) : (s.updGrid i f).cores = s.cores := rfl
@[simp] theorem State.updGrid_homeDir (i : Nat) (f : Grid → Grid) : (s.updGrid i f).homeDir = s.homeDir := rfl
@[simp] theorem State.updGrid_filters (i : Nat) (f : Grid → Grid) : (s.updGrid i f).filters = s.filters := rfl
@[simp] theorem State.updGrid_pend (i : Nat) (f : Grid → Grid) : (s.updGrid i f).pend = s.pend := rfl
@[simp] theorem State.updGrid_ctxs (i : Nat) (f : Grid → Grid) : (s.updGrid i f).ctxs = s.ctxs := rfl
@[simp] theorem State.updGrid_grids (i : Nat) (f : Grid → Grid) : (s.updGrid i f).grids = s.grids.upd i f := rfl
@[simp] theorem State.updGrid_teams (i : Nat) (f : Grid → Grid) : (s.updGrid i f).teams = s.teams := rfl
@[simp] theorem State.updGrid_groups (i : Nat) (f : Grid → Grid) : (s.updGrid i f).groups = s.groups := rfl
@[simp] theorem State.updGrid_growQ (i : Nat) (f : Grid → Grid) : (s.updGrid i f).growQ = s.growQ := rfl
@[simp] theorem State.updGrid_sent (i : Nat) (f : Grid → Grid) : (s.updGrid i f).sent = s.sent := rfl
@[simp] theorem State.updGrid_rxHeld (i : Nat) (f : Grid → Grid) : (s.updGrid i f).rxHeld = s.rxHeld := rfl
@[simp] theorem State.updGrid_rxSeq (i : Nat) (f : Grid → Grid) : (s.updGrid i f).rxSeq = s.rxSeq := rfl
@[simp] theorem State.updGrid_txSeq (i : Nat) (f : Grid → Grid) : (s.updGrid i f).txSeq = s.txSeq := rfl
@[simp] theorem State.updGrid_mgmt (i : Nat) (f : Grid → Grid) : (s.updGrid i f).mgmt = s.mgmt := rfl
@[simp] theorem State.updGrid_field (i : Nat) (f : Grid → Grid) : (s.updGrid i f).field = s.field := rfl
@[simp] theorem State.updGrid_dump (i : Nat) (f : Grid → Grid) : (s.updGrid i f).dump = s.dump := rfl
@[simp] theorem State.updGrid_hostBuf (i : Nat) (f : Grid → Grid) : (s.updGrid i f).hostBuf = s.hostBuf := rfl
@[simp] theorem State.updGrid_deviceNo (i : Nat) (f : Grid → Grid) : (s.updGrid i f).deviceNo = s.deviceNo := rfl
@[simp] theorem State.updGrid_cur (i : Nat) (f : Grid → Grid) : (s.updGrid i f).cur = s.cur := rfl
@[simp] theorem State.updGrid_inputs (i : Nat) (f : Grid → Grid) : (s.updGrid i f).inputs = s.inputs := rfl
@[simp] theorem State.updGrid_engine (i : Nat) (f : Grid → Grid) : (s.updGrid i f).engine = s.engine := rfl
@[simp] theorem State.updGrid_timers (i : Nat) (f : Grid → Grid) : (s.updGrid i f).timers = s.timers := rfl
@[simp] theorem State.updGrid_nextId (i : Nat) (f : Grid → Grid) : (s.updGrid i f).nextId = s.nextId := rfl
@[simp] theorem State.updGrid_fresh (i : Nat) (f : Grid → Grid) : (s.updGrid i f).fresh = s.fresh := rfl
@[simp] theorem State.updGrid_ticks (i : Nat) (f : Grid → Grid) : (s.updGrid i f).ticks = s.ticks := rfl
@[simp] theorem State.updGrid_decoders (i : Nat) (f : Grid → Grid) : (s.updGrid i f).decoders = s.decoders := rfl
@[simp] theorem State.updGrid_pcache (i : Nat) (f : Grid → Grid) : (s.updGrid i f).pcache = s.pcache := rfl
@[simp] theorem State.updGrid_routes (i : Nat) (f : Grid → Grid) : (s.updGrid i f).routes = s.routes := rfl
@[simp] theorem State.updGrid_wire (i : Nat) (f : Grid → Grid) : (s.updGrid i f).wire = s.wire := rfl
@[simp] theorem State.updGrid_heldDumps (i : Nat) (f : Grid → Grid) : (s.updGrid i f).heldDumps = s.heldDumps := rfl
@[simp] theorem State.updGrid_goneDbg (i : Nat) (f : Grid → Grid) : (s.updGrid i f).goneDbg = s.goneDbg := rfl
@[simp] theorem State.updGrid_ptrs (i : Nat) (f : Grid → Grid) : (s.updGrid i f).ptrs = s.ptrs := rfl
@[simp] theorem State.updGrid_quad (i : Nat) (f : Grid → Grid) : (s.updGrid i f).quad = s.quad := rfl

@[simp] theorem State.newId_part : (s.newId.2).part = s.part := rfl
@[simp] theorem State.newId_mem : (s.newId.2).mem = s.mem := rfl
@[simp] theorem State.newId_polder : (s.newId.2).polder = s.polder := rfl
@[simp] theorem State.newId_poison : (s.newId.2).poison = s.poison := rfl
@[simp] theorem State.newId_failed : (s.newId.2).failed = s.failed := rfl
@[simp] theorem State.newId_tiles : (s.newId.2).tiles = s.tiles := rfl
@[simp] theorem State.newId_seals : (s.newId.2).seals = s.seals := rfl
@[simp] theorem State.newId_copies : (s.newId.2).copies = s.copies := rfl
@[simp] theorem State.newId_sweeps : (s.newId.2).sweeps = s.sweeps := rfl
@[simp] theorem State.newId_cores : (s.newId.2).cores = s.cores := rfl
@[simp] theorem State.newId_homeDir : (s.newId.2).homeDir = s.homeDir := rfl
@[simp] theorem State.newId_filters : (s.newId.2).filters = s.filters := rfl
@[simp] theorem State.newId_pend : (s.newId.2).pend = s.pend := rfl
@[simp] theorem State.newId_ctxs : (s.newId.2).ctxs = s.ctxs := rfl
@[simp] theorem State.newId_grids : (s.newId.2).grids = s.grids := rfl
@[simp] theorem State.newId_teams : (s.newId.2).teams = s.teams := rfl
@[simp] theorem State.newId_groups : (s.newId.2).groups = s.groups := rfl
@[simp] theorem State.newId_growQ : (s.newId.2).growQ = s.growQ := rfl
@[simp] theorem State.newId_sent : (s.newId.2).sent = s.sent := rfl
@[simp] theorem State.newId_rxHeld : (s.newId.2).rxHeld = s.rxHeld := rfl
@[simp] theorem State.newId_rxSeq : (s.newId.2).rxSeq = s.rxSeq := rfl
@[simp] theorem State.newId_txSeq : (s.newId.2).txSeq = s.txSeq := rfl
@[simp] theorem State.newId_mgmt : (s.newId.2).mgmt = s.mgmt := rfl
@[simp] theorem State.newId_field : (s.newId.2).field = s.field := rfl
@[simp] theorem State.newId_dump : (s.newId.2).dump = s.dump := rfl
@[simp] theorem State.newId_hostBuf : (s.newId.2).hostBuf = s.hostBuf := rfl
@[simp] theorem State.newId_deviceNo : (s.newId.2).deviceNo = s.deviceNo := rfl
@[simp] theorem State.newId_cur : (s.newId.2).cur = s.cur := rfl
@[simp] theorem State.newId_inputs : (s.newId.2).inputs = s.inputs := rfl
@[simp] theorem State.newId_engine : (s.newId.2).engine = s.engine := rfl
@[simp] theorem State.newId_timers : (s.newId.2).timers = s.timers := rfl
@[simp] theorem State.newId_nextId : (s.newId.2).nextId = s.nextId + 1 := rfl
@[simp] theorem State.newId_fresh : (s.newId.2).fresh = s.fresh := rfl
@[simp] theorem State.newId_ticks : (s.newId.2).ticks = s.ticks := rfl
@[simp] theorem State.newId_decoders : (s.newId.2).decoders = s.decoders := rfl
@[simp] theorem State.newId_pcache : (s.newId.2).pcache = s.pcache := rfl
@[simp] theorem State.newId_routes : (s.newId.2).routes = s.routes := rfl
@[simp] theorem State.newId_wire : (s.newId.2).wire = s.wire := rfl
@[simp] theorem State.newId_heldDumps : (s.newId.2).heldDumps = s.heldDumps := rfl
@[simp] theorem State.newId_goneDbg : (s.newId.2).goneDbg = s.goneDbg := rfl
@[simp] theorem State.newId_ptrs : (s.newId.2).ptrs = s.ptrs := rfl
@[simp] theorem State.newId_quad : (s.newId.2).quad = s.quad := rfl

@[simp] theorem State.post_part (i : Instr) : (s.post i).part = s.part := rfl
@[simp] theorem State.post_mem (i : Instr) : (s.post i).mem = s.mem := rfl
@[simp] theorem State.post_polder (i : Instr) : (s.post i).polder = s.polder := rfl
@[simp] theorem State.post_poison (i : Instr) : (s.post i).poison = s.poison := rfl
@[simp] theorem State.post_failed (i : Instr) : (s.post i).failed = s.failed := rfl
@[simp] theorem State.post_tiles (i : Instr) : (s.post i).tiles = s.tiles := rfl
@[simp] theorem State.post_seals (i : Instr) : (s.post i).seals = s.seals := rfl
@[simp] theorem State.post_copies (i : Instr) : (s.post i).copies = s.copies := rfl
@[simp] theorem State.post_sweeps (i : Instr) : (s.post i).sweeps = s.sweeps := rfl
@[simp] theorem State.post_cores (i : Instr) : (s.post i).cores = s.cores := rfl
@[simp] theorem State.post_homeDir (i : Instr) : (s.post i).homeDir = s.homeDir := rfl
@[simp] theorem State.post_filters (i : Instr) : (s.post i).filters = s.filters := rfl
@[simp] theorem State.post_pend (i : Instr) : (s.post i).pend = s.pend := rfl
@[simp] theorem State.post_ctxs (i : Instr) : (s.post i).ctxs = s.ctxs := rfl
@[simp] theorem State.post_grids (i : Instr) : (s.post i).grids = s.grids := rfl
@[simp] theorem State.post_teams (i : Instr) : (s.post i).teams = s.teams := rfl
@[simp] theorem State.post_groups (i : Instr) : (s.post i).groups = s.groups := rfl
@[simp] theorem State.post_growQ (i : Instr) : (s.post i).growQ = s.growQ := rfl
@[simp] theorem State.post_sent (i : Instr) : (s.post i).sent = s.sent := rfl
@[simp] theorem State.post_rxHeld (i : Instr) : (s.post i).rxHeld = s.rxHeld := rfl
@[simp] theorem State.post_rxSeq (i : Instr) : (s.post i).rxSeq = s.rxSeq := rfl
@[simp] theorem State.post_txSeq (i : Instr) : (s.post i).txSeq = s.txSeq := rfl
@[simp] theorem State.post_mgmt (i : Instr) : (s.post i).mgmt = s.mgmt := rfl
@[simp] theorem State.post_field (i : Instr) : (s.post i).field = s.field := rfl
@[simp] theorem State.post_dump (i : Instr) : (s.post i).dump = s.dump := rfl
@[simp] theorem State.post_hostBuf (i : Instr) : (s.post i).hostBuf = s.hostBuf := rfl
@[simp] theorem State.post_deviceNo (i : Instr) : (s.post i).deviceNo = s.deviceNo := rfl
@[simp] theorem State.post_cur (i : Instr) : (s.post i).cur = s.cur := rfl
@[simp] theorem State.post_inputs (i : Instr) : (s.post i).inputs = s.inputs := rfl
@[simp] theorem State.post_engine (i : Instr) : (s.post i).engine = s.engine ++ [i] := rfl
@[simp] theorem State.post_timers (i : Instr) : (s.post i).timers = s.timers := rfl
@[simp] theorem State.post_nextId (i : Instr) : (s.post i).nextId = s.nextId := rfl
@[simp] theorem State.post_fresh (i : Instr) : (s.post i).fresh = s.fresh := rfl
@[simp] theorem State.post_ticks (i : Instr) : (s.post i).ticks = s.ticks := rfl
@[simp] theorem State.post_decoders (i : Instr) : (s.post i).decoders = s.decoders := rfl
@[simp] theorem State.post_pcache (i : Instr) : (s.post i).pcache = s.pcache := rfl
@[simp] theorem State.post_routes (i : Instr) : (s.post i).routes = s.routes := rfl
@[simp] theorem State.post_wire (i : Instr) : (s.post i).wire = s.wire := rfl
@[simp] theorem State.post_heldDumps (i : Instr) : (s.post i).heldDumps = s.heldDumps := rfl
@[simp] theorem State.post_goneDbg (i : Instr) : (s.post i).goneDbg = s.goneDbg := rfl
@[simp] theorem State.post_ptrs (i : Instr) : (s.post i).ptrs = s.ptrs := rfl
@[simp] theorem State.post_quad (i : Instr) : (s.post i).quad = s.quad := rfl

variable (g : Group)

@[simp] theorem Group.setSplit_ctx (n : Nat) (sp : Split) : (g.setSplit n sp).ctx = g.ctx := rfl
@[simp] theorem Group.setSplit_grid (n : Nat) (sp : Split) : (g.setSplit n sp).grid = g.grid := rfl
@[simp] theorem Group.setSplit_team (n : Nat) (sp : Split) : (g.setSplit n sp).team = g.team := rfl
@[simp] theorem Group.setSplit_core (n : Nat) (sp : Split) : (g.setSplit n sp).core = g.core := rfl
@[simp] theorem Group.setSplit_slot (n : Nat) (sp : Split) : (g.setSplit n sp).slot = g.slot := rfl
@[simp] theorem Group.setSplit_mode (n : Nat) (sp : Split) : (g.setSplit n sp).mode = g.mode := rfl
@[simp] theorem Group.setSplit_v (n : Nat) (sp : Split) : (g.setSplit n sp).v = g.v := rfl
@[simp] theorem Group.setSplit_k (n : Nat) (sp : Split) : (g.setSplit n sp).k = g.k := rfl
@[simp] theorem Group.setSplit_p (n : Nat) (sp : Split) : (g.setSplit n sp).p = g.p := rfl
@[simp] theorem Group.setSplit_flags (n : Nat) (sp : Split) : (g.setSplit n sp).flags = g.flags := rfl
@[simp] theorem Group.setSplit_ic (n : Nat) (sp : Split) : (g.setSplit n sp).ic = g.ic := rfl
@[simp] theorem Group.setSplit_cmark (n : Nat) (sp : Split) : (g.setSplit n sp).cmark = g.cmark := rfl
@[simp] theorem Group.setSplit_dir (n : Nat) (sp : Split) : (g.setSplit n sp).dir = g.dir := rfl
@[simp] theorem Group.setSplit_grade (n : Nat) (sp : Split) : (g.setSplit n sp).grade = g.grade := rfl
@[simp] theorem Group.setSplit_hsp (n : Nat) (sp : Split) : (g.setSplit n sp).hsp = g.hsp := rfl
@[simp] theorem Group.setSplit_hbase (n : Nat) (sp : Split) : (g.setSplit n sp).hbase = g.hbase := rfl
@[simp] theorem Group.setSplit_hlim (n : Nat) (sp : Split) : (g.setSplit n sp).hlim = g.hlim := rfl
@[simp] theorem Group.setSplit_hbuf (n : Nat) (sp : Split) : (g.setSplit n sp).hbuf = g.hbuf := rfl
@[simp] theorem Group.setSplit_rvinfo (n : Nat) (sp : Split) : (g.setSplit n sp).rvinfo = g.rvinfo := rfl
@[simp] theorem Group.setSplit_sat (n : Nat) (sp : Split) : (g.setSplit n sp).sat = g.sat := rfl
@[simp] theorem Group.setSplit_satarm (n : Nat) (sp : Split) : (g.setSplit n sp).satarm = g.satarm := rfl
@[simp] theorem Group.setSplit_launched (n : Nat) (sp : Split) : (g.setSplit n sp).launched = g.launched := rfl
@[simp] theorem Group.setSplit_groupNo (n : Nat) (sp : Split) : (g.setSplit n sp).groupNo = g.groupNo := rfl
@[simp] theorem Group.setSplit_teamNo (n : Nat) (sp : Split) : (g.setSplit n sp).teamNo = g.teamNo := rfl
@[simp] theorem Group.setSplit_clusterNo (n : Nat) (sp : Split) : (g.setSplit n sp).clusterNo = g.clusterNo := rfl
@[simp] theorem Group.setSplit_gridNo (n : Nat) (sp : Split) : (g.setSplit n sp).gridNo = g.gridNo := rfl
@[simp] theorem Group.setSplit_stepBit (n : Nat) (sp : Split) : (g.setSplit n sp).stepBit = g.stepBit := rfl
@[simp] theorem Group.setSplit_privbase (n : Nat) (sp : Split) : (g.setSplit n sp).privbase = g.privbase := rfl
@[simp] theorem Group.setSplit_privlim (n : Nat) (sp : Split) : (g.setSplit n sp).privlim = g.privlim := rfl
@[simp] theorem Group.setSplit_regs (n : Nat) (sp : Split) : (g.setSplit n sp).regs = g.regs := rfl
@[simp] theorem Group.setSplit_window (n : Nat) (sp : Split) : (g.setSplit n sp).window = g.window := rfl
@[simp] theorem Group.setSplit_splits (n : Nat) (sp : Split) : (g.setSplit n sp).splits = g.splits.put n sp := rfl
@[simp] theorem Group.setSplit_parked (n : Nat) (sp : Split) : (g.setSplit n sp).parked = g.parked := rfl
@[simp] theorem Group.setSplit_cur (n : Nat) (sp : Split) : (g.setSplit n sp).cur = g.cur := rfl
@[simp] theorem Group.setSplit_lastStart (n : Nat) (sp : Split) : (g.setSplit n sp).lastStart = g.lastStart := rfl
@[simp] theorem Group.setSplit_inARow (n : Nat) (sp : Split) : (g.setSplit n sp).inARow = g.inARow := rfl
@[simp] theorem Group.setSplit_yielded (n : Nat) (sp : Split) : (g.setSplit n sp).yielded = g.yielded := rfl
@[simp] theorem Group.setSplit_clause (n : Nat) (sp : Split) : (g.setSplit n sp).clause = g.clause := rfl
@[simp] theorem Group.setSplit_hist (n : Nat) (sp : Split) : (g.setSplit n sp).hist = g.hist := rfl
@[simp] theorem Group.setSplit_frames (n : Nat) (sp : Split) : (g.setSplit n sp).frames = g.frames := rfl
@[simp] theorem Group.setSplit_scratch (n : Nat) (sp : Split) : (g.setSplit n sp).scratch = g.scratch := rfl
@[simp] theorem Group.setSplit_drops (n : Nat) (sp : Split) : (g.setSplit n sp).drops = g.drops := rfl
@[simp] theorem Group.setSplit_halted (n : Nat) (sp : Split) : (g.setSplit n sp).halted = g.halted := rfl
@[simp] theorem Group.setSplit_haltReq (n : Nat) (sp : Split) : (g.setSplit n sp).haltReq = g.haltReq := rfl
@[simp] theorem Group.setSplit_stopped (n : Nat) (sp : Split) : (g.setSplit n sp).stopped = g.stopped := rfl
@[simp] theorem Group.setSplit_lastSplit (n : Nat) (sp : Split) : (g.setSplit n sp).lastSplit = g.lastSplit := rfl
@[simp] theorem Group.setSplit_barCount (n : Nat) (sp : Split) : (g.setSplit n sp).barCount = g.barCount := rfl
@[simp] theorem Group.setSplit_growOld (n : Nat) (sp : Split) : (g.setSplit n sp).growOld = g.growOld := rfl
@[simp] theorem Group.setSplit_relied (n : Nat) (sp : Split) : (g.setSplit n sp).relied = g.relied := rfl
@[simp] theorem Group.setSplit_grants (n : Nat) (sp : Split) : (g.setSplit n sp).grants = g.grants := rfl
@[simp] theorem Group.setSplit_growFail (n : Nat) (sp : Split) : (g.setSplit n sp).growFail = g.growFail := rfl
@[simp] theorem Group.setSplit_spawnHold (n : Nat) (sp : Split) : (g.setSplit n sp).spawnHold = g.spawnHold := rfl
@[simp] theorem Group.setSplit_abortDue (n : Nat) (sp : Split) : (g.setSplit n sp).abortDue = g.abortDue := rfl
@[simp] theorem Group.setSplit_winV (n : Nat) (sp : Split) : (g.setSplit n sp).winV = g.winV := rfl
@[simp] theorem Group.setSplit_winW (n : Nat) (sp : Split) : (g.setSplit n sp).winW = g.winW := rfl
@[simp] theorem Group.setSplit_resume (n : Nat) (sp : Split) : (g.setSplit n sp).resume = g.resume := rfl

@[simp] theorem Group.push_ctx (k : HKind) (sn : Nat) : (g.push k sn).ctx = g.ctx := rfl
@[simp] theorem Group.push_grid (k : HKind) (sn : Nat) : (g.push k sn).grid = g.grid := rfl
@[simp] theorem Group.push_team (k : HKind) (sn : Nat) : (g.push k sn).team = g.team := rfl
@[simp] theorem Group.push_core (k : HKind) (sn : Nat) : (g.push k sn).core = g.core := rfl
@[simp] theorem Group.push_slot (k : HKind) (sn : Nat) : (g.push k sn).slot = g.slot := rfl
@[simp] theorem Group.push_mode (k : HKind) (sn : Nat) : (g.push k sn).mode = g.mode := rfl
@[simp] theorem Group.push_v (k : HKind) (sn : Nat) : (g.push k sn).v = g.v := rfl
@[simp] theorem Group.push_k (k : HKind) (sn : Nat) : (g.push k sn).k = g.k := rfl
@[simp] theorem Group.push_p (k : HKind) (sn : Nat) : (g.push k sn).p = g.p := rfl
@[simp] theorem Group.push_flags (k : HKind) (sn : Nat) : (g.push k sn).flags = g.flags := rfl
@[simp] theorem Group.push_ic (k : HKind) (sn : Nat) : (g.push k sn).ic = g.ic := rfl
@[simp] theorem Group.push_cmark (k : HKind) (sn : Nat) : (g.push k sn).cmark = g.cmark := rfl
@[simp] theorem Group.push_dir (k : HKind) (sn : Nat) : (g.push k sn).dir = g.dir := rfl
@[simp] theorem Group.push_grade (k : HKind) (sn : Nat) : (g.push k sn).grade = g.grade := rfl
@[simp] theorem Group.push_hbase (k : HKind) (sn : Nat) : (g.push k sn).hbase = g.hbase := rfl
@[simp] theorem Group.push_hlim (k : HKind) (sn : Nat) : (g.push k sn).hlim = g.hlim := rfl
@[simp] theorem Group.push_hbuf (k : HKind) (sn : Nat) : (g.push k sn).hbuf = g.hbuf := rfl
@[simp] theorem Group.push_rvinfo (k : HKind) (sn : Nat) : (g.push k sn).rvinfo = g.rvinfo := rfl
@[simp] theorem Group.push_sat (k : HKind) (sn : Nat) : (g.push k sn).sat = g.sat := rfl
@[simp] theorem Group.push_satarm (k : HKind) (sn : Nat) : (g.push k sn).satarm = g.satarm := rfl
@[simp] theorem Group.push_launched (k : HKind) (sn : Nat) : (g.push k sn).launched = g.launched := rfl
@[simp] theorem Group.push_groupNo (k : HKind) (sn : Nat) : (g.push k sn).groupNo = g.groupNo := rfl
@[simp] theorem Group.push_teamNo (k : HKind) (sn : Nat) : (g.push k sn).teamNo = g.teamNo := rfl
@[simp] theorem Group.push_clusterNo (k : HKind) (sn : Nat) : (g.push k sn).clusterNo = g.clusterNo := rfl
@[simp] theorem Group.push_gridNo (k : HKind) (sn : Nat) : (g.push k sn).gridNo = g.gridNo := rfl
@[simp] theorem Group.push_stepBit (k : HKind) (sn : Nat) : (g.push k sn).stepBit = g.stepBit := rfl
@[simp] theorem Group.push_privbase (k : HKind) (sn : Nat) : (g.push k sn).privbase = g.privbase := rfl
@[simp] theorem Group.push_privlim (k : HKind) (sn : Nat) : (g.push k sn).privlim = g.privlim := rfl
@[simp] theorem Group.push_regs (k : HKind) (sn : Nat) : (g.push k sn).regs = g.regs := rfl
@[simp] theorem Group.push_window (k : HKind) (sn : Nat) : (g.push k sn).window = g.window := rfl
@[simp] theorem Group.push_splits (k : HKind) (sn : Nat) : (g.push k sn).splits = g.splits := rfl
@[simp] theorem Group.push_parked (k : HKind) (sn : Nat) : (g.push k sn).parked = g.parked := rfl
@[simp] theorem Group.push_cur (k : HKind) (sn : Nat) : (g.push k sn).cur = g.cur := rfl
@[simp] theorem Group.push_lastStart (k : HKind) (sn : Nat) : (g.push k sn).lastStart = g.lastStart := rfl
@[simp] theorem Group.push_inARow (k : HKind) (sn : Nat) : (g.push k sn).inARow = g.inARow := rfl
@[simp] theorem Group.push_yielded (k : HKind) (sn : Nat) : (g.push k sn).yielded = g.yielded := rfl
@[simp] theorem Group.push_clause (k : HKind) (sn : Nat) : (g.push k sn).clause = g.clause := rfl
@[simp] theorem Group.push_frames (k : HKind) (sn : Nat) : (g.push k sn).frames = g.frames := rfl
@[simp] theorem Group.push_scratch (k : HKind) (sn : Nat) : (g.push k sn).scratch = g.scratch := rfl
@[simp] theorem Group.push_drops (k : HKind) (sn : Nat) : (g.push k sn).drops = g.drops := rfl
@[simp] theorem Group.push_halted (k : HKind) (sn : Nat) : (g.push k sn).halted = g.halted := rfl
@[simp] theorem Group.push_haltReq (k : HKind) (sn : Nat) : (g.push k sn).haltReq = g.haltReq := rfl
@[simp] theorem Group.push_stopped (k : HKind) (sn : Nat) : (g.push k sn).stopped = g.stopped := rfl
@[simp] theorem Group.push_lastSplit (k : HKind) (sn : Nat) : (g.push k sn).lastSplit = g.lastSplit := rfl
@[simp] theorem Group.push_barCount (k : HKind) (sn : Nat) : (g.push k sn).barCount = g.barCount := rfl
@[simp] theorem Group.push_growOld (k : HKind) (sn : Nat) : (g.push k sn).growOld = g.growOld := rfl
@[simp] theorem Group.push_relied (k : HKind) (sn : Nat) : (g.push k sn).relied = g.relied := rfl
@[simp] theorem Group.push_grants (k : HKind) (sn : Nat) : (g.push k sn).grants = g.grants := rfl
@[simp] theorem Group.push_growFail (k : HKind) (sn : Nat) : (g.push k sn).growFail = g.growFail := rfl
@[simp] theorem Group.push_spawnHold (k : HKind) (sn : Nat) : (g.push k sn).spawnHold = g.spawnHold := rfl
@[simp] theorem Group.push_abortDue (k : HKind) (sn : Nat) : (g.push k sn).abortDue = g.abortDue := rfl
@[simp] theorem Group.push_winV (k : HKind) (sn : Nat) : (g.push k sn).winV = g.winV := rfl
@[simp] theorem Group.push_winW (k : HKind) (sn : Nat) : (g.push k sn).winW = g.winW := rfl
@[simp] theorem Group.push_resume (k : HKind) (sn : Nat) : (g.push k sn).resume = g.resume := rfl
@[simp] theorem Group.push_stack (k : HKind) (sn : Nat) :
    (g.push k sn).hist.stack = ⟨g.ic.setWidth 32, sn, k⟩ :: g.hist.stack := rfl

/-! A spill (R195, R234). -/

/-- It never lowers the window, changes no entry, and stops at an incomplete MEMW entry. -/
theorem Hist.spillTo_winLo (h : Hist) (lo : Nat) : h.winLo ≤ (h.spillTo lo).winLo := Nat.le_max_left _ _
theorem Hist.spillTo_hold (h : Hist) (lo n : Nat) (hn : h.hold = some n) (hw : h.winLo ≤ n) : (h.spillTo lo).winLo ≤ n := by
  simp only [Hist.spillTo, hn, Option.elim]; omega
@[simp] theorem Hist.spillTo_stack (h : Hist) (lo : Nat) : (h.spillTo lo).stack = h.stack := rfl
@[simp] theorem Hist.spillTo_heldAt (h : Hist) (lo : Nat) : (h.spillTo lo).hold = h.hold := rfl
@[simp] theorem Hist.spillTo_bad (h : Hist) (lo : Nat) : (h.spillTo lo).bad = h.bad := rfl
@[simp] theorem Group.holdSpill_hsp (g : Group) : g.holdSpill.hsp = g.hsp := rfl
@[simp] theorem Group.holdSpill_stack (g : Group) : g.holdSpill.hist.stack = g.hist.stack := rfl
/-- With every entry complete nothing waits to be spilled. -/
@[simp] theorem Group.freeSpill_overfull (g : Group) : g.freeSpill.overfull = false := by
  unfold Group.freeSpill Group.overfull; cases h : g.hist.hold <;> simp [h, Hist.spillTo]

/-! Budgets granted (R72, R75). -/

@[simp] theorem Group.withGrants_relied (g : Group) (n : Nat) : (g.withGrants n []).relied = 0 := rfl
@[simp] theorem Group.withGrants_growOld (g : Group) (n : Nat) (gs : Tbl Nat) : (g.withGrants n gs).growOld = n := rfl

@[simp] theorem Group.withGrants_regs (g : Group) (n : Nat) : (g.withGrants n []).regs = n := rfl
@[simp] theorem Group.withGrants_grants (g : Group) (n : Nat) (gs : Tbl Nat) : (g.withGrants n gs).grants = gs := rfl
@[simp] theorem Group.withGrants_v (g : Group) (n : Nat) (gs : Tbl Nat) : (g.withGrants n gs).v = g.v := rfl
@[simp] theorem Group.withGrants_k (g : Group) (n : Nat) (gs : Tbl Nat) : (g.withGrants n gs).k = g.k := rfl
@[simp] theorem Group.withGrants_p (g : Group) (n : Nat) (gs : Tbl Nat) : (g.withGrants n gs).p = g.p := rfl
@[simp] theorem Group.withGrants_splits (g : Group) (n : Nat) (gs : Tbl Nat) : (g.withGrants n gs).splits = g.splits := rfl
@[simp] theorem Group.withGrants_hist (g : Group) (n : Nat) (gs : Tbl Nat) : (g.withGrants n gs).hist = g.hist := rfl
@[simp] theorem Group.withGrants_ic (g : Group) (n : Nat) (gs : Tbl Nat) : (g.withGrants n gs).ic = g.ic := rfl

end Sys2Proof.Machine
end

