-- ==== Sys2Proof/Laws/Faults.lean ====
section
/-! SUPPORT. Laws/Faults.lean: what taking a fault to Berm, entering a handler and leaving one can do (17_traps R384, R385,
R390). -/

namespace Sys2Proof.Machine

/-! Fault records. -/

/-- A record's bytes in its ring; every byte outside them is as it was (R384). -/
theorem State.ringMem_get (s : State) (c : Ctx) (r : FaultRec) (a : Nat)
    (h : ¬(c.ringAt c.faultTail ≤ a ∧ a < c.ringAt c.faultTail + 64)) : (s.ringMem c r).get a = s.mem.get a := by
  unfold State.ringMem
  split
  · rfl
  · rw [Cells.get_writeN, if_neg h]

theorem State.ringMem_readN (s : State) (c : Ctx) (r : FaultRec) (h : s.portDown (c.ringAt c.faultTail) = false) :
    (s.ringMem c r).readN (c.ringAt c.faultTail) 64 = FaultRec.num r % 256 ^ 64 := by
  rw [State.ringMem, h, if_neg (by simp), Cells.readN_writeN]

theorem State.ringMem_wf (s : State) (c : Ctx) (r : FaultRec) (h : s.mem.wf = true) : (s.ringMem c r).wf = true := by
  unfold State.ringMem
  split
  · exact h
  · exact Cells.wf_writeN _ _ _ _ h

/-- A record takes the next key and changes nothing but its context. -/
theorem State.appendFault_eq (s : State) (ctx : Nat) (r : FaultRec) :
    (s.appendFault ctx r).1 = s.nextId ∧
    { (s.appendFault ctx r).2 with mem := s.mem, ctxs := s.ctxs, nextId := s.nextId } = s := by
  simp [State.appendFault, State.newId, State.updCtx]

/-- Where a ring is to be written never depends on the keys given out. -/
@[simp] theorem State.ringed_newId (s : State) (c : Ctx) (r : FaultRec) : s.newId.2.ringed c r = s.ringed c r := rfl
@[simp] theorem State.ringOpen_newId (s : State) (c : Ctx) : s.newId.2.ringOpen c = s.ringOpen c := rfl

/-- In its context the record stands in the queue, or is held back while the ring cannot take it. -/
theorem State.appendFault_ctx (s : State) (ctx : Nat) (r : FaultRec) (c : Ctx) (h : s.ctxs.get ctx = some c) :
    (s.appendFault ctx r).2.ctxs.get ctx = some
      (if s.ringOpen c then c.pushFault s.nextId (s.ringed c r)
       else { c with faultHold := c.faultHold.put s.nextId r }) := by
  simp only [State.appendFault, State.updCtx, Tbl.get_upd, if_true, State.ringed_newId, State.ringOpen_newId]
  have h1 : s.newId.2.ctxs.get ctx = some c := h
  simp only [h1, Option.map_some]
  rfl

/-- Other contexts see nothing of it. -/
theorem State.appendFault_other (s : State) (ctx i : Nat) (r : FaultRec) (h : i ≠ ctx) :
    (s.appendFault ctx r).2.ctxs.get i = s.ctxs.get i := by
  simp [State.appendFault, State.newId, State.updCtx, Tbl.get_upd, h]

/-! A precise fault. -/

/-- Nothing changes but the group, its context's records and the key. -/
theorem State.toBerm_rest (s : State) (gid : Nat) (g : Group) (sn : Nat) (cause : Cause) (m : Mask) (a : CAddr)
    (x y : DWord) (n : Nat) (k : Option KReg) :
    { s.toBerm gid g sn cause m a x y n k with mem := s.mem, groups := s.groups, ctxs := s.ctxs, nextId := s.nextId } = s := by
  simp [State.toBerm, State.appendFault, State.newId, State.updCtx, State.setGroup]

/-- Other groups are as they were. -/
theorem State.toBerm_other (s : State) (gid i : Nat) (g : Group) (sn : Nat) (cause : Cause) (m : Mask) (a : CAddr)
    (x y : DWord) (n : Nat) (k : Option KReg) (h : i ≠ gid) :
    (s.toBerm gid g sn cause m a x y n k).groups.get i = s.groups.get i := by
  simp [State.toBerm, State.appendFault, State.newId, State.updCtx, State.setGroup, Tbl.get_put, h]

/-- The split that raises the fault is parked with the record; the clause in flight stays with it. -/
theorem State.toBerm_group (s : State) (gid : Nat) (g : Group) (sn : Nat) (cause : Cause) (m : Mask) (a : CAddr)
    (x y : DWord) (n : Nat) (k : Option KReg) :
    (s.toBerm gid g sn cause m a x y n k).groups.get gid = some { g with
      splits := g.splits.upd sn (fun sp =>
        { sp with wait := .parked s.nextId, mid := if g.cur = sn ∧ g.clause.isSome then g.clause else sp.mid })
      clause := if g.cur = sn then none else g.clause
      stopped := g.stopped || g.inHandler || cause == 0x0204#16 } := by
  simp [State.toBerm, State.appendFault, State.newId, State.updCtx, State.setGroup]

/-- The record itself. -/
theorem State.toBerm_ctx (s : State) (gid : Nat) (g : Group) (sn : Nat) (cause : Cause) (m : Mask) (a : CAddr)
    (x y : DWord) (n : Nat) (k : Option KReg) :
    (s.toBerm gid g sn cause m a x y n k).ctxs =
      (s.appendFault g.ctx (s.faultRec gid g sn cause true m a x y n k)).2.ctxs := by
  simp [State.toBerm, State.setGroup]

/-- An imprecise fault leaves every group as it is. -/
theorem State.impreciseWith_rest (s : State) (gid : Nat) (g : Group) (cause : Cause) (m : Mask) (x : DWord)
    (ws : List DWord) : { s.impreciseWith gid g cause m x ws with mem := s.mem, ctxs := s.ctxs, nextId := s.nextId } = s := by
  simp [State.impreciseWith, State.appendFault, State.newId, State.updCtx]

theorem State.imprecise_rest (s : State) (gid : Nat) (g : Group) (cause : Cause) (m : Mask) (x : DWord) :
    { s.imprecise gid g cause m x with mem := s.mem, ctxs := s.ctxs, nextId := s.nextId } = s := by
  exact s.impreciseWith_rest gid g cause m x []

/-! Handlers. -/

/-- An entry keeps the registers, the counts and the flags of the group: it adds a frame, and in STEP grade an entry to the
history. -/
theorem Group.enter_rest (g : Group) (e : Entry) :
    { g.enter e with frames := g.frames, splits := g.splits, parked := g.parked, clause := g.clause, hsp := g.hsp,
                     hist := g.hist } = g := by
  unfold Group.enter Group.pushOpen
  by_cases hk : e.kind = .historyFull
  · simp [hk]
  · by_cases h : (g.pushed g.cur (e.parcels == 0)).recGrade = .step
    · simp [hk, h, Group.push]; rfl
    · simp [hk, h]; rfl

/-- One frame more; the handler's one split holds the entry's lanes at its address. -/
theorem Group.enter_frame (g : Group) (e : Entry) :
    (g.enter e).depth = g.depth + 1 ∧ (g.enter e).splits = [(g.cur, handlerSplit e)] ∧ (g.enter e).parked = [] ∧
    (g.enter e).clause = none ∧ (g.enter e).topKind = some e.kind := by
  unfold Group.enter Group.pushOpen
  by_cases hk : e.kind = .historyFull
  · simp [hk, Group.depth, Group.topKind, Group.entryFrame]
  · by_cases h : (g.pushed g.cur (e.parcels == 0)).recGrade = .step
    · simp [hk, h, Group.push, Group.depth, Group.topKind, Group.entryFrame]; simp [Group.pushed]
    · simp [hk, h, Group.depth, Group.topKind, Group.entryFrame]; simp [Group.pushed]

/-- Leaving keeps the group's registers, counts, flags and history; the window's registers stay for the next handler. -/
theorem Group.leave_rest (g : Group) (f : HFrame) (pc : CAddr) (mid : Option Clause) :
    { g.leave f pc mid with
      frames := g.frames, winV := g.winV, winW := g.winW, lastStart := g.lastStart, inARow := g.inARow, yielded := g.yielded,
      splits := g.splits, parked := g.parked, clause := g.clause, cur := g.cur } = g := by
  simp [Group.leave]

end Sys2Proof.Machine
end

