-- ==== Sys2Proof/Laws/Regs.lean ====
section
/-! SUPPORT. Laws/Regs.lean: what a recorded write of registers does, and that it fits where there is room. -/

namespace Sys2Proof.Machine

/-- At most `n` bytes of entries lie on `g'` beyond those of `g`, and the window's lower end has not gone down. -/
def Group.Within (g g' : Group) (n : Nat) : Prop := g'.hsp.toNat ≤ g.hsp.toNat + n ∧ g.hist.winLo ≤ g'.hist.winLo

theorem Group.Within.refl (g : Group) (n : Nat) : g.Within g n := ⟨by omega, Nat.le_refl _⟩

/-- `g'` is `g` after at most `n` bytes of entries. -/
structure Group.Rec (g g' : Group) (n : Nat) : Prop where
  rest : { g' with hsp := g.hsp, hist := g.hist } = g
  room : g.Within g' n
  off  : g.recGrade = .off → g'.hsp = g.hsp

theorem Group.Rec.refl (g : Group) (n : Nat) : g.Rec g n := ⟨rfl, .refl g n, fun _ => rfl⟩

theorem Group.Rec.recGrade {g g' : Group} {n : Nat} (h : g.Rec g' n) : g'.recGrade = g.recGrade := by
  have h1 := congrArg Group.recGrade h.rest
  exact h1

theorem Group.Rec.trans {a b c : Group} {m n : Nat} (h : a.Rec b m) (k : b.Rec c n) : a.Rec c (m + n) where
  rest := by
    have h1 := congrArg (fun u : Group => { u with hsp := a.hsp, hist := a.hist }) k.rest
    exact h1.trans h.rest
  room := ⟨by have := h.room.1; have := k.room.1; omega, h.room.2.trans k.room.2⟩
  off := fun h0 => (k.off (h.recGrade.trans h0)).trans (h.off h0)

theorem Group.Rec.mono {a b : Group} {m n : Nat} (h : a.Rec b m) (hn : m ≤ n) : a.Rec b n :=
  ⟨h.rest, ⟨by have := h.room.1; omega, h.room.2⟩, h.off⟩

theorem Group.push_rec (g : Group) (k : HKind) (sn : Nat) (h : g.recGrade ≠ .off) : g.Rec (g.push k sn) k.size := by
  refine ⟨rfl, ⟨?_, ?_⟩, fun h0 => absurd h0 h⟩
  rotate_left
  · simp only [Group.push, Hist.spillTo]; omega
  simp only [Group.push, BitVec.toNat_add, BitVec.toNat_ofNat]
  calc (g.hsp.toNat + k.size % 2 ^ 57) % 2 ^ 57 ≤ g.hsp.toNat + k.size % 2 ^ 57 := Nat.mod_le _ _
    _ ≤ g.hsp.toNat + k.size := by have := Nat.mod_le k.size (2 ^ 57); omega

theorem Group.push_touch_rec (g : Group) (k : HKind) (sn : Nat) (f : Touched → Touched) (h : g.recGrade ≠ .off) :
    g.Rec ((g.push k sn).touch f) k.size := by
  have := g.push_rec k sn h
  exact ⟨rfl, this.room, this.off⟩

theorem Group.recV_rec (g : Group) (l : Loc) (m : Mask) (x : Bool) : g.Rec (g.recV l m x) 144 := by
  unfold Group.recV
  split
  · split
    · exact .refl _ _
    · split
      · exact .refl _ _
      · split
        · exact .refl _ _
        · exact g.push_touch_rec (.vreg _ _ _) _ _ (by simp_all)
      · split
        · exact .refl _ _
        · exact g.push_rec (.vreg _ _ _) _ (by simp_all)
  · exact .refl _ _

theorem Group.recK_rec (g : Group) (n : Nat) (x : Bool) : g.Rec (g.recK n x) 24 := by
  unfold Group.recK
  split
  · exact .refl _ _
  · split
    · exact .refl _ _
    · split
      · exact .refl _ _
      · exact g.push_touch_rec (.kreg _ _) _ _ (by simp_all)
    · split
      · exact .refl _ _
      · exact g.push_rec (.kreg _ _) _ (by simp_all)

theorem Group.recP_rec (g : Group) (n : Nat) (m : Mask) (x : Bool) : g.Rec (g.recP n m x) 16 := by
  unfold Group.recP
  split
  · exact .refl _ _
  · split
    · exact .refl _ _
    · split
      · exact .refl _ _
      · exact g.push_touch_rec (.pred _ _) _ _ (by simp_all)
    · split
      · exact .refl _ _
      · exact g.push_rec (.pred _ _) _ (by simp_all)

theorem Group.recSat_rec (g : Group) : g.Rec g.recSat 16 := by
  unfold Group.recSat
  split
  · exact .refl _ _
  · split
    · exact .refl _ _
    · exact g.push_touch_rec (.flags _ _ _ _ _) _ _ (by simp_all)
  · exact g.push_rec (.flags _ _ _ _ _) _ (by simp_all)

/-- Entries that fit: no history-full trap. -/
theorem Iss.fits (c : Iss) (f : Fin) (g' : Group) (n : Nat) (hf : f.count = c.counts) (hr : c.Room n)
    (h1 : g'.hsp.toNat ≤ c.g.hsp.toNat + n) (h2 : g'.hlim = c.g.hlim) : c.misfit f g' = none := by
  unfold Iss.misfit
  rcases hr with h | ⟨h3, -, h4⟩
  · simp [h]
  · split
    · rfl
    · have a : ¬ g'.hlim.toNat < g'.hsp.toNat := by rw [h2]; omega
      by_cases hc : c.counts = true
      · have := h4 hc
        have b : ¬ 2 ^ 32 ≤ (c.g.ic + 1#48 - c.g.cmark).toNat := by omega
        simp only [hf, hc, b, a, decide_false, Bool.and_false, Bool.false_eq_true, if_false]
      · simp only [hf, hc, a, Bool.false_and, Bool.false_eq_true, if_false]

/-- Entries that fit do not wait for a spill. -/
theorem Iss.fits_buffer (c : Iss) (g' : Group) (n : Nat) (hr : c.Room n) (h1 : c.g.Within g' n) (h2 : g'.hbuf = c.g.hbuf) :
    c.crowded g' = false := by
  rcases hr with h | ⟨-, h, -⟩
  · simp [Iss.crowded, h]
  · exact c.not_crowded g' n h h1.1 (fun _ => h1.2) h2

/-! Reading what was written. -/

/-- A location that a write reaches. -/
def Group.holds (g : Group) : Loc → Prop
  | .own _ => True
  | .win _ => g.frames ≠ []
  | .saved _ => 2 ≤ g.frames.length

theorem Group.loc_holds {g : Group} {n : Nat} {l : Loc} (h : g.loc n = .ok l) : g.holds l := by
  unfold Group.loc at h
  split at h
  · split at h
    · cases h; rename_i h0 _; simp [Group.inHandler] at h0; simpa [Group.holds] using h0
    · simp [raise] at h
  · split at h
    · cases h; trivial
    · simp [raise] at h

theorem lane_key (n m l k : Nat) (hl : l < 32) : (32 * n ≤ 32 * m + l ∧ 32 * m + l < 32 * n + 32 ∧ k = k) ↔ m = n := by
  constructor
  · rintro ⟨a, b, _⟩; omega
  · rintro rfl; omega

theorem Cells.get_lane {w : Nat} (t : Cells w) (n m : Nat) (mask : Mask) (f : Nat → BitVec w) (l : Nat) (hl : l < 32) :
    Cells.get (t.setLanes (32 * n) mask f) (32 * m + l) =
      if m = n ∧ mask.getLsbD l = true then f l else Cells.get t (32 * m + l) := by
  rw [Cells.get_setLanes]
  by_cases h : m = n
  · subst h
    have h1 : 32 * m + l - 32 * m = l := by omega
    have h2 : 32 * m ≤ 32 * m + l := by omega
    have h3 : 32 * m + l < 32 * m + 32 := by omega
    rw [h1]
    by_cases hm : mask.getLsbD l = true
    · rw [if_pos ⟨h2, h3, hm⟩, if_pos ⟨rfl, hm⟩]
    · rw [if_neg (fun h => hm h.2.2), if_neg (fun h => hm h.2)]
  · rw [if_neg, if_neg (fun h' => h h'.1)]
    rintro ⟨a, b, -⟩
    omega

/-- Read after a write of lanes, every location. -/
theorem Group.rdV_wrV (g : Group) (d e : Loc) (m : Mask) (x : Nat → Word) (l : Nat) (hl : l < 32) (hd : g.holds d) :
    (g.wrV d m x).rdV e l = if e = d ∧ m.getLsbD l = true then x l else g.rdV e l := by
  cases d with
  | own n =>
    cases e with
    | own k => simp [Group.wrV, Group.rdV, Cells.get_lane _ _ _ _ _ _ hl]
    | win k => cases hf : g.frames <;> simp [Group.wrV, Group.rdV, hf]
    | saved k => rcases hf : g.frames with _ | ⟨f, _ | ⟨f', t⟩⟩ <;> simp [Group.wrV, Group.rdV, hf]
  | win n =>
    rcases hf : g.frames with _ | ⟨f, t⟩
    · exact absurd hf hd
    · cases e with
      | own k => simp [Group.wrV, Group.rdV, hf]
      | win k => simp [Group.wrV, Group.rdV, hf, HFrame.wrV, Cells.get_lane _ _ _ _ _ _ hl]
      | saved k => cases t <;> simp [Group.wrV, Group.rdV, hf, HFrame.wrV]
  | saved n =>
    rcases hf : g.frames with _ | ⟨f, _ | ⟨f', t⟩⟩
    · simp [Group.holds, hf] at hd
    · simp [Group.holds, hf] at hd
    · cases e with
      | own k => simp [Group.wrV, Group.rdV, hf]
      | win k => simp [Group.wrV, Group.rdV, hf]
      | saved k => simp [Group.wrV, Group.rdV, hf, HFrame.wrV, Cells.get_lane _ _ _ _ _ _ hl]

theorem Group.wrV_rest (g : Group) (d : Loc) (m : Mask) (x : Nat → Word) :
    { g.wrV d m x with v := g.v, frames := g.frames } = g := by
  unfold Group.wrV; split <;> rfl

theorem Group.wrV_frames (g : Group) (d : Loc) (m : Mask) (x : Nat → Word) :
    (g.wrV d m x).frames.map (fun f => { f with winV := [] }) = g.frames.map (fun f => { f with winV := [] }) := by
  unfold Group.wrV; split <;> simp_all [HFrame.wrV]

theorem Group.wrV_rdK (g : Group) (d : Loc) (m : Mask) (x : Nat → Word) (n : Nat) : (g.wrV d m x).rdK n = g.rdK n := by
  unfold Group.wrV
  split <;> simp_all [Group.rdK, HFrame.wrV]

theorem Group.wrV_rdP (g : Group) (d : Loc) (m : Mask) (x : Nat → Word) (n : Nat) : (g.wrV d m x).rdP n = g.rdP n := by
  unfold Group.wrV
  split <;> simp_all [Group.rdP, HFrame.wrV]

theorem Group.wrV_holds (g : Group) (d e : Loc) (m : Mask) (x : Nat → Word) (h : g.holds e) : (g.wrV d m x).holds e := by
  have hf := congrArg List.length (g.wrV_frames d m x)
  simp only [List.length_map] at hf
  cases e with
  | own n => trivial
  | win n =>
    simp only [Group.holds] at h ⊢
    intro h0; rw [h0] at hf
    exact h (List.length_eq_zero_iff.1 hf.symm)
  | saved n => simp only [Group.holds] at h ⊢; omega

/-! What the recorded writes do, in the terms of the statements. -/

theorem Group.Rec.rdV {g g' : Group} {n : Nat} (h : g.Rec g' n) (d : Loc) (l : Nat) : g'.rdV d l = g.rdV d l := by
  have h1 := congrArg (fun u : Group => u.rdV d l) h.rest
  exact h1

theorem Group.Rec.holds {g g' : Group} {n : Nat} (h : g.Rec g' n) {d : Loc} (hd : g.holds d) : g'.holds d := by
  have h1 := congrArg Group.frames h.rest
  have h2 : g'.frames = g.frames := h1
  cases d <;> simp_all [Group.holds]

/-- Two writes one after another. -/
structure Group.Wrote (g g' : Group) : Prop where
  frames : g'.frames.map (fun f => { f with winV := [] }) = g.frames.map (fun f => { f with winV := [] })
  rest   : { g' with v := g.v, frames := g.frames, hsp := g.hsp, hist := g.hist } = g

theorem strip_frames {a b : List HFrame}
    (h : a.map (fun f => { f with winV := [] }) = b.map (fun f => { f with winV := [] })) :
    a.map (fun f => { f with winV := [], winW := [], winP := [] }) =
      b.map (fun f => { f with winV := [], winW := [], winP := [] }) := by
  have h1 := congrArg (List.map (fun f : HFrame => { f with winV := [], winW := [], winP := [] })) h
  simpa [List.map_map, Function.comp_def] using h1

theorem frames_W {a b : List HFrame}
    (h : a.map (fun f => { f with winV := [] }) = b.map (fun f => { f with winV := [] })) :
    a.map (·.winW) = b.map (·.winW) ∧ a.map (·.winP) = b.map (·.winP) := by
  have h1 := congrArg (List.map (fun f : HFrame => f.winW)) h
  have h2 := congrArg (List.map (fun f : HFrame => f.winP)) h
  simp [List.map_map, Function.comp_def] at h1 h2
  exact ⟨h1, h2⟩

theorem Group.rdK_frames {g g' : Group} (hk : g'.k = g.k) (hf : g'.frames.map (·.winW) = g.frames.map (·.winW)) (n : Nat) :
    g'.rdK n = g.rdK n := by
  unfold Group.rdK
  rcases h : g.frames with _ | ⟨f, t⟩ <;> rcases h' : g'.frames with _ | ⟨f', t'⟩ <;> simp_all

theorem Group.rdP_frames {g g' : Group} (hk : g'.p = g.p) (hf : g'.frames.map (·.winP) = g.frames.map (·.winP)) (n : Nat) :
    g'.rdP n = g.rdP n := by
  unfold Group.rdP
  rcases h : g.frames with _ | ⟨f, t⟩ <;> rcases h' : g'.frames with _ | ⟨f', t'⟩ <;> simp_all

theorem Group.did_of_wrote {g g' : Group} {m : Mask} {vs : List (Loc × (Nat → Word))} (w : g.Wrote g')
    (h1 : ∀ w ∈ vs, ∀ l, l < 32 → g'.rdV w.1 l = if m.getLsbD l then w.2 l else g.rdV w.1 l)
    (h2 : ∀ d, (∀ w ∈ vs, w.1 ≠ d) → ∀ l, l < 32 → g'.rdV d l = g.rdV d l) : g.Did g' m { v := vs } where
  lanes := h1
  lanesKept := h2
  unis := by simp
  unisKept := fun n _ _ => Group.rdK_frames (by have := congrArg Group.k w.rest; exact this) (frames_W w.frames).1 n
  preds := by simp
  predsKept := fun n _ _ => Group.rdP_frames (by have := congrArg Group.p w.rest; exact this) (frames_W w.frames).2 n
  sat := by have := congrArg Group.sat w.rest; exact this
  frames := strip_frames w.frames
  rest := by
    have hk : g'.k = g.k := by have := congrArg Group.k w.rest; exact this
    have hp : g'.p = g.p := by have := congrArg Group.p w.rest; exact this
    have hs : g'.sat = g.sat := by have := congrArg Group.sat w.rest; exact this
    have := w.rest
    rw [← hk, ← hp, ← hs]
    rw [← hk, ← hp, ← hs] at *
    exact w.rest

theorem Group.Rec.wrote {g g' : Group} {n : Nat} (h : g.Rec g' n) : g.Wrote g' where
  frames := by have := congrArg Group.frames h.rest; have h2 : g'.frames = g.frames := this; rw [h2]
  rest := by
    have h1 : g'.v = g.v := by have := congrArg Group.v h.rest; exact this
    have h2 : g'.frames = g.frames := by have := congrArg Group.frames h.rest; exact this
    rw [← h1, ← h2]; exact h.rest

theorem Group.wrote_wrV (g : Group) (d : Loc) (m : Mask) (x : Nat → Word) : g.Wrote (g.wrV d m x) where
  frames := g.wrV_frames d m x
  rest := by
    have h := g.wrV_rest d m x
    exact congrArg (fun u : Group => { u with hsp := g.hsp, hist := g.hist }) h

theorem Group.Wrote.trans {a b c : Group} (h : a.Wrote b) (k : b.Wrote c) : a.Wrote c where
  frames := k.frames.trans h.frames
  rest := by
    have h1 := congrArg (fun u : Group => { u with v := a.v, frames := a.frames, hsp := a.hsp, hist := a.hist }) k.rest
    exact h1.trans h.rest

theorem Group.setV_did (g : Group) (d : Loc) (m : Mask) (x : Nat → Word) (ex : Bool) (hd : g.holds d) :
    g.Did (g.setV d m x ex) m { v := [(d, x)] } := by
  have hr := g.recV_rec d m ex
  refine Group.did_of_wrote (hr.wrote.trans (Group.wrote_wrV _ d m x)) ?_ ?_
  · intro w hw l hl
    simp only [List.mem_singleton] at hw
    subst hw
    unfold Group.setV
    rw [Group.rdV_wrV _ _ _ _ _ _ hl (hr.holds hd), hr.rdV]
    simp
  · intro e he l hl
    unfold Group.setV
    rw [Group.rdV_wrV _ _ _ _ _ _ hl (hr.holds hd), hr.rdV]
    have : e ≠ d := fun h => he (d, x) (List.mem_singleton.2 rfl) h.symm
    simp [this]

theorem Group.wrV_hsp (g : Group) (d : Loc) (m : Mask) (x : Nat → Word) : (g.wrV d m x).hsp = g.hsp := by
  have := congrArg Group.hsp (g.wrV_rest d m x); exact this

theorem Group.wrV_hist (g : Group) (d : Loc) (m : Mask) (x : Nat → Word) : (g.wrV d m x).hist = g.hist := by
  have := congrArg Group.hist (g.wrV_rest d m x); exact this

theorem Group.wrV_hlim (g : Group) (d : Loc) (m : Mask) (x : Nat → Word) : (g.wrV d m x).hlim = g.hlim := by
  have := congrArg Group.hlim (g.wrV_rest d m x); exact this

theorem Group.setV_within (g : Group) (d : Loc) (m : Mask) (x : Nat → Word) (ex : Bool) :
    g.Within (g.setV d m x ex) 144 := by
  unfold Group.setV Group.Within; rw [Group.wrV_hsp, Group.wrV_hist]; exact (g.recV_rec d m ex).room

theorem Group.Did.hlim {g g' : Group} {m : Mask} {e : Effect} (h : g.Did g' m e) : g'.hlim = g.hlim := by
  have := congrArg Group.hlim h.rest; exact this

theorem Group.Did.hbuf {g g' : Group} {m : Mask} {e : Effect} (h : g.Did g' m e) : g'.hbuf = g.hbuf := by
  have := congrArg Group.hbuf h.rest; exact this

/-- A register-only instruction whose entries wait for no spill completes with what its group did. -/
theorem regOp_completes_of {len : Nat} {gd : Guard} {s : State} {body : Iss → Run Group} {c : Iss} {g' : Group} {e : Effect}
    {n : Nat} (h : s.Issues len gd c) (hr : c.Room n) (hb : body c = .ok g') (hd : c.g.Did g' c.ex e)
    (hn : g'.hsp.toNat ≤ c.g.hsp.toNat + n) (hx : c.crowded g' = false) :
    ∃ t, regOp len gd s body = .next t ∧ c.Completes e t := by
  refine ⟨_, regOp_next h hb (c.fits _ g' n rfl hr hn hd.hlim) hx, g', hd, ?_⟩
  obtain ⟨g, sp, cl, h1, -, -, rfl⟩ := h
  have hc : g'.cur = g.cur := by have := congrArg Group.cur hd.rest; exact this
  have hh : g'.halted = g.halted := by have := congrArg Group.halted hd.rest; exact this
  have hg : g.halted = false := by
    unfold State.issuer at h1
    simp only [Option.bind_eq_bind, Option.bind_eq_some_iff] at h1
    obtain ⟨g0, -, cl0, -, sp0, -, h2⟩ := h1
    split at h2
    · rename_i h3
      simp only [Option.some.injEq, Prod.mk.injEq] at h2
      obtain ⟨rfl, -, -⟩ := h2
      simp [Group.runs] at h3
      exact h3.1.1.1.1
    · cases h2
  have hret := Iss.retires (s.iss g sp cl gd len) ((s.iss g sp cl gd len).done g') g' rfl rfl hc (hh.trans hg)
  have hs : ((s.iss g sp cl gd len).done g').s = s.setGroup s.cur g' := rfl
  constructor
  · have := hret.device; rw [hs] at this
    have h2 := congrArg (fun u : State => { u with groups := s.groups }) this
    exact h2
  · intro i hi
    rw [hret.others i hi, hs]
    exact State.setGroup_other s s.cur i g' hi
  · intro h0
    rw [hret.noStep h0, hs]; rfl
  · exact hret.group

/-- A register-only instruction completes with what its group did. -/
theorem regOp_completes {len : Nat} {gd : Guard} {s : State} {body : Iss → Run Group} {c : Iss} {g' : Group} {e : Effect}
    {n : Nat} (h : s.Issues len gd c) (hr : c.Room n) (hb : body c = .ok g') (hd : c.g.Did g' c.ex e)
    (hn : c.g.Within g' n) : ∃ t, regOp len gd s body = .next t ∧ c.Completes e t :=
  regOp_completes_of h hr hb hd hn.1 (c.fits_buffer g' n hr hn hd.hbuf)

end Sys2Proof.Machine
end

