-- ==== Sys2Proof/Laws/Storage.lean ====
section
/-! SUPPORT. Laws/Storage.lean: every operation over memory keeps the storage canonical. -/

namespace Sys2Proof.Machine

/-! Tables. -/

theorem Tbl.mem_of_get {α : Type} {t : Tbl α} {a : Nat} {x : α} (h : Tbl.get t a = some x) : (a, x) ∈ t := by
  induction t with
  | nil => simp [Tbl.get] at h
  | cons c t ih =>
    obtain ⟨k, y⟩ := c
    simp only [Tbl.get] at h
    split at h
    · cases h
    · split at h
      · rename_i h2; cases h; subst h2; exact List.mem_cons_self
      · exact List.mem_cons_of_mem _ (ih h)

theorem Tbl.mem_put {α : Type} {t : Tbl α} {a : Nat} {x : α} {c : Nat × α} (h : c ∈ t.put a x) : c = (a, x) ∨ c ∈ t := by
  induction t with
  | nil => simpa [Tbl.put] using h
  | cons d t ih =>
    obtain ⟨k, y⟩ := d
    simp only [Tbl.put] at h
    split at h
    · simpa using h
    · split at h
      · rcases List.mem_cons.mp h with h | h
        · exact .inl h
        · exact .inr (List.mem_cons_of_mem _ h)
      · rcases List.mem_cons.mp h with h | h
        · exact .inr (by simp [h])
        · exact (ih h).imp id (List.mem_cons_of_mem _)

theorem Tbl.wf_tail {α : Type} {c : Nat × α} {t : Tbl α} (h : Tbl.wf (c :: t) = true) : Tbl.wf t = true := by
  cases t with
  | nil => rfl
  | cons d t => simp only [Tbl.wf, Bool.and_eq_true] at h; exact h.2

theorem Tbl.wf_put {α : Type} (t : Tbl α) (a : Nat) (x : α) (h : Tbl.wf t = true) : Tbl.wf (t.put a x) = true := by
  induction t with
  | nil => rfl
  | cons c t ih =>
    obtain ⟨k, y⟩ := c
    have ht := ih (Tbl.wf_tail h)
    simp only [Tbl.put]
    split
    · rename_i h1; simp only [Tbl.wf, Bool.and_eq_true, decide_eq_true_eq]; exact ⟨h1, h⟩
    · split
      · rename_i h1 h2; subst h2
        cases t with
        | nil => rfl
        | cons d t => exact h
      · rename_i h1 h2
        cases t with
        | nil => simp only [Tbl.put, Tbl.wf, Bool.and_eq_true, decide_eq_true_eq, and_true]; omega
        | cons d t =>
          obtain ⟨k', y'⟩ := d
          have hk : k < k' := by
            simp only [Tbl.wf, Bool.and_eq_true, decide_eq_true_eq] at h
            exact h.1
          simp only [Tbl.put] at ht ⊢
          split
          · rename_i h3; simp only [h3, if_true] at ht
            simp only [Tbl.wf, Bool.and_eq_true, decide_eq_true_eq] at ht ⊢
            exact ⟨by omega, ht⟩
          · rename_i h3; simp only [h3, if_false] at ht
            split
            · rename_i h4; subst h4; simp only [if_true] at ht
              simp only [Tbl.wf, Bool.and_eq_true, decide_eq_true_eq]
              exact ⟨by omega, ht⟩
            · rename_i h4; simp only [h4, if_false] at ht
              simp only [Tbl.wf, Bool.and_eq_true, decide_eq_true_eq]
              exact ⟨hk, ht⟩

/-! The invariant, taken apart. -/

theorem State.storageWf_iff (s : State) : s.storageWf = true ↔
    s.mem.wf = true ∧ s.polder.wf = true ∧ ∀ c ∈ s.cores, ∀ w ∈ c.2.wcb, Tbl.wf w.bytes = true := by
  simp [State.storageWf, and_assoc]

theorem State.storageWf_congr {s t : State} (hm : t.mem = s.mem) (hp : t.polder = s.polder) (hc : t.cores = s.cores) :
    t.storageWf = s.storageWf := by simp [State.storageWf, hm, hp, hc]

/-- Every line of a core's buffer holds each byte once. -/
theorem State.wcb_wf {s : State} (h : s.storageWf = true) (i : Nat) : ∀ w ∈ (s.core i).wcb, Tbl.wf w.bytes = true := by
  intro w hw
  unfold State.core at hw
  cases hg : s.cores.get i with
  | none => simp [hg, Core.empty] at hw
  | some c => exact ((s.storageWf_iff.mp h).2.2) _ (Tbl.mem_of_get hg) w (by simpa [hg] using hw)

theorem State.storageWf_setCore {s : State} (h : s.storageWf = true) (i : Nat) (x : Core)
    (hx : ∀ w ∈ x.wcb, Tbl.wf w.bytes = true) : (s.setCore i x).storageWf = true := by
  obtain ⟨h1, h2, h3⟩ := s.storageWf_iff.mp h
  refine (State.storageWf_iff _).mpr ⟨h1, h2, fun c hc => ?_⟩
  rcases Tbl.mem_put hc with rfl | hc
  · exact hx
  · exact h3 c hc

/-- A fold of steps that each keep the storage canonical. -/
theorem storageWf_foldl {α : Type} (f : State → α → State) (hf : ∀ s a, s.storageWf = true → (f s a).storageWf = true)
    (l : List α) : ∀ s : State, s.storageWf = true → (l.foldl f s).storageWf = true := by
  induction l with
  | nil => exact fun s h => h
  | cons a l ih => exact fun s h => ih _ (hf s a h)

/-! The directories and copies of L1: none of them touches the storage. -/

theorem State.storageWf_untrack {s : State} (h : s.storageWf = true) (core line : Nat) :
    (s.untrack core line).storageWf = true := h

theorem State.storageWf_dropCopy {s : State} (h : s.storageWf = true) (core line : Nat) :
    (s.dropCopy core line).storageWf = true := by
  refine State.storageWf_untrack (State.storageWf_setCore h core _ ?_) core line
  exact s.wcb_wf h core

theorem State.storageWf_settleIn {s : State} (h : s.storageWf = true) (p : Nat → Bool) :
    (s.settleIn p).storageWf = true :=
  storageWf_foldl _ (fun t c ht => storageWf_foldl _ (fun u _ hu => State.storageWf_dropCopy hu _ _) _ t ht) _ s h

theorem State.storageWf_settle {s : State} (h : s.storageWf = true) : s.settle.storageWf = true :=
  State.storageWf_settleIn h _

theorem State.storageWf_dropAll {s : State} (h : s.storageWf = true) (line : Nat) (p : Nat → Bool) :
    (s.dropAll line p).storageWf = true :=
  storageWf_foldl _ (fun _ _ ht => State.storageWf_dropCopy ht _ _) _ s h

theorem State.storageWf_dropRegion {s : State} (h : s.storageWf = true) (region : Nat) :
    (s.dropRegion region).storageWf = true :=
  storageWf_foldl (fun s i => s.dropAll (4 * region + i) (fun _ => true))
    (fun _ _ ht => State.storageWf_dropAll ht _ _) (List.range 4) s h

theorem State.storageWf_pickVictim {s : State} (h : s.storageWf = true) (l : List Nat) :
    (s.pickVictim l).2.storageWf = true := h

theorem State.storageWf_track {s : State} (h : s.storageWf = true) (core line : Nat) :
    (s.track core line).storageWf = true := by
  have h1 : (s.roomInDir (line / 4)).storageWf = true := by
    unfold State.roomInDir
    dsimp only
    split
    · exact h
    · exact State.storageWf_dropRegion (State.storageWf_pickVictim h _) _
  have h2 : ((s.roomInDir (line / 4)).roomInFilter (blockOfCore core) line).storageWf = true := by
    unfold State.roomInFilter
    dsimp only
    split
    · exact h1
    · exact State.storageWf_dropAll (State.storageWf_pickVictim h1 _) _ _
  exact h2

/-! The polder caches. -/

theorem State.storageWf_cacheLine {s : State} (h : s.storageWf = true) (line : Nat) :
    (s.cacheLine line).storageWf = true := by
  unfold State.cacheLine
  dsimp only
  split
  · exact h
  · split
    · exact h
    · exact h

/-- Taking a line into the polder cache changes no byte and no core. -/
theorem State.cacheLine_keeps (s : State) (line : Nat) :
    (s.cacheLine line).mem = s.mem ∧ (s.cacheLine line).polder = s.polder ∧ (s.cacheLine line).cores = s.cores := by
  unfold State.cacheLine State.pickVictim
  dsimp only
  split
  · simp
  · split <;> simp

theorem State.storageWf_writeHome {s : State} (h : s.storageWf = true) : s.writeHome.storageWf = true := h

theorem State.storageWf_invalidate {s : State} (h : s.storageWf = true) (writer line : Nat) :
    (s.invalidate writer line).storageWf = true := by
  refine storageWf_foldl _ (fun t c ht => ?_) _ s h
  split
  · exact ht
  · exact State.storageWf_setCore ht c _ (t.wcb_wf ht c)

theorem State.storageWf_scrub {s : State} (h : s.storageWf = true) (ps : List Place) : (s.scrub ps).storageWf = true := h

/-! Bytes at their homes. -/

theorem State.storageWf_homeByte {s : State} (h : s.storageWf = true) (writer pa : Nat) (b : Byte) :
    (s.homeByte writer pa b).storageWf = true := by
  obtain ⟨h1, h2, h3⟩ := (State.storageWf_iff _).mp (State.storageWf_cacheLine h (lineOf pa))
  refine (State.storageWf_iff _).mpr ⟨Cells.wf_set _ _ _ h1, h2, fun c hc => ?_⟩
  obtain ⟨d, hd, rfl⟩ := List.mem_map.mp hc
  exact h3 d hd

theorem State.storageWf_homeWrite {s : State} (h : s.storageWf = true) (writer : Nat) (bs : List (Nat × Byte)) :
    (s.homeWrite writer bs).storageWf = true :=
  State.storageWf_scrub (storageWf_foldl _ (fun _ _ ht => State.storageWf_invalidate ht _ _) _ _
    (storageWf_foldl _ (fun _ _ ht => State.storageWf_homeByte ht _ _ _) _ s h)) _

theorem State.storageWf_putByte {s : State} (h : s.storageWf = true) (writer : Nat) (p : Place) (b : Byte) :
    (s.putByte writer p b).storageWf = true := by
  cases p with
  | glob pa => exact State.storageWf_homeByte h writer pa b
  | pol i =>
    obtain ⟨h1, h2, h3⟩ := s.storageWf_iff.mp h
    exact (State.storageWf_iff _).mpr ⟨h1, Cells.wf_set _ _ _ h2, h3⟩
  | cs t o => exact h
  | scr g o => exact h

theorem State.storageWf_putBytes {s : State} (h : s.storageWf = true) (writer : Nat) (bs : List (Place × Byte)) :
    (s.putBytes writer bs).storageWf = true :=
  State.storageWf_scrub (storageWf_foldl _ (fun _ _ ht => State.storageWf_invalidate ht _ _) _ _
    (storageWf_foldl _ (fun _ _ ht => State.storageWf_putByte ht _ _ _) _ s h)) _

/-! The write-combining buffer. -/

theorem State.storageWf_drainLine {s : State} (h : s.storageWf = true) (core line : Nat) :
    (s.drainLine core line).storageWf = true := by
  unfold State.drainLine
  split
  · exact h
  · refine State.storageWf_homeWrite ?_ _ _
    exact State.storageWf_setCore h core _ (fun w hw => s.wcb_wf h core w (List.mem_filter.mp hw).1)

theorem State.storageWf_drainGroup {s : State} (h : s.storageWf = true) (core gid : Nat) :
    (s.drainGroup core gid).storageWf = true :=
  storageWf_foldl _ (fun _ _ ht => State.storageWf_drainLine ht _ _) _ s h

theorem State.storageWf_drainCore {s : State} (h : s.storageWf = true) (core : Nat) : (s.drainCore core).storageWf = true :=
  storageWf_foldl _ (fun _ _ ht => State.storageWf_drainLine ht _ _) _ s h

theorem State.storageWf_visible {s : State} (h : s.storageWf = true) (core gid : Nat) (sc : Scope) :
    (s.visible core gid sc).storageWf = true := by
  have h1 := State.storageWf_settleIn h (s.inScope core gid sc)
  unfold State.visible
  dsimp only
  split
  · exact State.storageWf_writeHome h1
  · exact h1

theorem State.storageWf_release {s : State} (h : s.storageWf = true) (core gid : Nat) (sc : Scope) :
    (s.release core gid sc).storageWf = true := State.storageWf_visible (State.storageWf_drainGroup h core gid) core gid sc

theorem State.storageWf_wcbByte {s : State} (h : s.storageWf = true) (core gid pa : Nat) (b : Byte) :
    (s.wcbByte core gid pa b).storageWf = true := by
  unfold State.wcbByte
  dsimp only
  split
  · refine State.storageWf_setCore h core _ (fun w hw => ?_)
    obtain ⟨x, hx, rfl⟩ := List.mem_map.mp hw
    have hx' := s.wcb_wf h core x hx
    split
    · exact Tbl.wf_put _ _ _ hx'
    · exact hx'
  · have h' : State.storageWf (if (s.core core).wcb.length < 4 then s else
        match (s.core core).wcb.head? with
        | some w => s.drainLine core w.line
        | none => s) = true := by
      split
      · exact h
      · split
        · exact State.storageWf_drainLine h _ _
        · exact h
    refine State.storageWf_setCore h' core _ (fun w hw => ?_)
    rcases List.mem_append.mp hw with hw | hw
    · exact State.wcb_wf h' core w hw
    · cases List.mem_singleton.mp hw; rfl

theorem State.storageWf_wcbWrite {s : State} (h : s.storageWf = true) (core gid : Nat) (fl : Bool) (bs : List (Nat × Byte)) :
    (s.wcbWrite core gid fl bs).storageWf = true := by
  unfold State.wcbWrite
  refine storageWf_foldl _ (fun t l ht => ?_) _ _ (storageWf_foldl _ (fun t c ht => State.storageWf_wcbByte ht _ _ _ _) _ s h)
  split
  · split
    · exact State.storageWf_drainLine ht _ _
    · exact ht
  · exact ht

theorem State.storageWf_preLoad {s : State} (h : s.storageWf = true) (core gid : Nat) (ps : List Place) :
    (s.preLoad core gid ps).storageWf = true := by
  refine storageWf_foldl _ (fun t p ht => ?_) _ s h
  split
  · split
    · split
      · exact State.storageWf_drainLine ht _ _
      · exact ht
    · exact ht
  · exact ht

theorem State.storageWf_preBypass {s : State} (h : s.storageWf = true) (core : Nat) (ps : List Place) :
    (s.preBypass core ps).storageWf = true := by
  refine storageWf_foldl _ (fun t p ht => ?_) _ s h
  split
  · split
    · exact State.storageWf_drainLine ht _ _
    · exact ht
  · exact ht

/-! Stores, private bytes, tiles, pages. -/

theorem State.storageWf_dropPriv {s : State} (h : s.storageWf = true) (core : Nat) (which : Nat → Bool) :
    (s.dropPriv core which).storageWf = true := by
  refine State.storageWf_homeWrite (State.storageWf_setCore h core _ ?_) _ _
  exact s.wcb_wf h core

theorem State.storageWf_roomInL1 {s : State} (h : s.storageWf = true) (core : Nat) :
    (s.roomInL1 core).storageWf = true := by
  unfold State.roomInL1
  dsimp only
  split
  · exact h
  · split
    · split
      · exact State.storageWf_dropPriv (State.storageWf_pickVictim h _) _ _
      · exact State.storageWf_setCore (State.storageWf_pickVictim h _) core _ (s.wcb_wf h core)
    · exact State.storageWf_pickVictim h _

theorem State.storageWf_fillPriv {s : State} (h : s.storageWf = true) (core : Nat) (ps : List Place) :
    (s.fillPriv core ps).storageWf = true := by
  refine storageWf_foldl _ (fun t l ht => ?_) _ s h
  split
  · exact ht
  · have h1 := State.storageWf_cacheLine (State.storageWf_roomInL1 ht core) l
    exact State.storageWf_setCore h1 core _ (State.wcb_wf h1 core)

theorem State.storageWf_storeBytes {s : State} (h : s.storageWf = true) (core gid : Nat) (sp : Space) (pol : Policy) (fl : Bool)
    (bs : List (Place × Byte)) : (s.storeBytes core gid sp pol fl bs).storageWf = true := by
  have hb := State.storageWf_putBytes (State.storageWf_preBypass h core (bs.map (·.1))) core bs
  unfold State.storeBytes
  split
  · refine storageWf_foldl _ (fun t b ht => ?_) _ _ (State.storageWf_fillPriv h core _)
    split
    · exact State.storageWf_setCore ht core _ (t.wcb_wf ht core)
    · exact State.storageWf_putByte ht _ _ _
  · dsimp only
    split
    · exact State.storageWf_wcbWrite h _ _ _ _
    · exact State.storageWf_wcbWrite h _ _ _ _
    · exact storageWf_foldl _ (fun t l ht => State.storageWf_dropCopy ht _ _) _ _ hb
    · exact hb
  · exact State.storageWf_putBytes h _ _

theorem State.storageWf_writeBack {s : State} (h : s.storageWf = true) (core : Nat) : (s.writeBack core).storageWf = true := by
  exact State.storageWf_dropPriv h core _

theorem State.storageWf_askFills {s : State} (h : s.storageWf = true) (core : Nat) (b : Bool) (l : List Nat) :
    (s.askFills core b l).storageWf = true := by
  refine storageWf_foldl _ (fun t _ ht => ?_) _ s h
  refine State.storageWf_setCore ht core _ ?_
  exact t.wcb_wf ht core

theorem State.storageWf_refresh {s : State} (h : s.storageWf = true) (core : Nat) (pol : Policy) (ps : List Place) :
    (s.refresh core pol ps).storageWf = true := by
  unfold State.refresh
  split
  · exact State.storageWf_setCore h core _ (s.wcb_wf h core)
  · exact h

theorem State.storageWf_clearTile {s : State} (h : s.storageWf = true) (t : Nat) : (s.clearTile t).storageWf = true := by
  obtain ⟨h1, h2, h3⟩ := s.storageWf_iff.mp h
  exact (State.storageWf_iff _).mpr ⟨h1, Cells.wf_clear _ _ _ h2, h3⟩

theorem wf_moveBytes (m : Cells 8) (a dst len : Nat) (h : m.wf = true) : (moveBytes m a dst len).wf = true := by
  unfold moveBytes
  generalize m.filter _ = l
  have h0 := Cells.wf_clear m dst (dst + len) h
  generalize m.clear dst (dst + len) = x at h0
  induction l generalizing x with
  | nil => exact h0
  | cons c l ih => exact ih _ (Cells.wf_set _ _ _ h0)

theorem State.storageWf_flushRange {s : State} (h : s.storageWf = true) (a len : Nat) :
    (s.flushRange a len).storageWf = true := by
  unfold State.flushRange
  refine storageWf_foldl _ (fun t c ht => storageWf_foldl _ (fun u x hu => State.storageWf_dropCopy hu _ _) _ t ht) _ _ ?_
  refine storageWf_foldl _ (fun t c ht => storageWf_foldl _ (fun u x hu => State.storageWf_drainLine hu _ _) _ t ht) _ _ ?_
  exact storageWf_foldl _ (fun t c ht => State.storageWf_writeBack ht _) _ s h

end Sys2Proof.Machine
end

