-- ==== Sys2Proof/Laws/Uni.lean ====
section
/-! SUPPORT. Laws/Uni.lean: what the recorded writes of pairs, uniform registers, predicates and %sat do. -/

namespace Sys2Proof.Machine

/-! Pairs of lane registers. -/

theorem Group.setV2_within (g : Group) (a b : Loc) (m : Mask) (x y : Nat → Word) (ex : Bool) :
    g.Within (g.setV2 a b m x y ex) 288 := by
  unfold Group.setV2 Group.Within
  rw [Group.wrV_hsp, Group.wrV_hsp, Group.wrV_hist, Group.wrV_hist]
  exact ((g.recV_rec a m ex).trans (Group.recV_rec _ b m ex)).room

theorem Group.setV2_did (g : Group) (a b : Loc) (m : Mask) (x y : Nat → Word) (ex : Bool) (ha : g.holds a) (hb : g.holds b)
    (hxy : a = b → x = y) : g.Did (g.setV2 a b m x y ex) m { v := [(a, x), (b, y)] } := by
  have hr := (g.recV_rec a m ex).trans (Group.recV_rec (g.recV a m ex) b m ex)
  have ha' := hr.holds ha
  have hb' := hr.holds hb
  have hk : ∀ e l, l < 32 → (g.setV2 a b m x y ex).rdV e l =
      if e = b ∧ m.getLsbD l = true then y l else if e = a ∧ m.getLsbD l = true then x l else g.rdV e l := by
    intro e l hl
    unfold Group.setV2
    rw [Group.rdV_wrV _ _ _ _ _ _ hl (Group.wrV_holds _ _ _ _ _ hb'), Group.rdV_wrV _ _ _ _ _ _ hl ha', hr.rdV]
  refine Group.did_of_wrote ((hr.wrote.trans (Group.wrote_wrV _ a m x)).trans (Group.wrote_wrV _ b m y)) ?_ ?_
  · intro w hw l hl
    simp only [List.mem_cons, List.not_mem_nil, or_false] at hw
    rcases hw with rfl | rfl
    · rw [hk a l hl]
      by_cases h : a = b
      · simp only [h, true_and, hxy h]
        split <;> rfl
      · simp only [h, false_and, if_false, true_and]
    · rw [hk b l hl]
      by_cases hm : m.getLsbD l = true
      · simp only [hm, and_self, if_true]
      · simp only [hm, and_false, if_false]
        simp
  · intro e he l hl
    rw [hk e l hl]
    have h1 : e ≠ a := fun h => he (a, x) (by simp) h.symm
    have h2 : e ≠ b := fun h => he (b, y) (by simp) h.symm
    simp only [h1, h2, false_and, if_false]

/-! Uniform registers. -/

theorem Group.rdK_wrK (g : Group) (n k : Nat) (x : DWord) :
    (g.wrK n x).rdK k = if k = n ∧ n ≠ 0 then x else g.rdK k := by
  unfold Group.wrK Group.rdK
  by_cases hn : n = 0
  · simp [hn]
  · rcases hf : g.frames with _ | ⟨f, t⟩
    · by_cases hk : k = 0
      · have : k ≠ n := by omega
        simp [hk, hn]; intro h; exact absurd h.symm hn
      · by_cases h : k = n <;> simp [hn, hk, hf, Cells.get_set, h]
    · by_cases h56 : 56 ≤ n
      · by_cases hk : k = 0
        · simp [hn, h56, hk]; intro h; exact absurd h.symm hn
        · by_cases hk56 : 56 ≤ k
          · have e : (k - 56 = n - 56) ↔ k = n := by omega
            simp [hn, h56, hk, hk56, Cells.get_set, e]
          · have : k ≠ n := by omega
            simp [hn, h56, hk, hk56, this]
      · by_cases hk : k = 0
        · simp [hn, h56, hk]; intro h; exact absurd h.symm hn
        · by_cases hk56 : 56 ≤ k
          · have : k ≠ n := by omega
            simp [hn, h56, hk, hf, hk56, this]
          · simp [hn, h56, hk, hk56, hf, Cells.get_set]

theorem Group.wrK_rest (g : Group) (n : Nat) (x : DWord) : { g.wrK n x with k := g.k, frames := g.frames } = g := by
  unfold Group.wrK; repeat' (first | rfl | split)

theorem Group.wrK_frames (g : Group) (n : Nat) (x : DWord) :
    (g.wrK n x).frames.map (fun f => { f with winW := [] }) = g.frames.map (fun f => { f with winW := [] }) := by
  unfold Group.wrK
  split
  · rfl
  · split
    · split <;> simp_all
    · simp_all

/-- What a change of registers leaves alone, whichever file it is in. -/
structure Group.Touches (g g' : Group) : Prop where
  frames : g'.frames.map (fun f => { f with winV := [], winW := [], winP := [] }) =
    g.frames.map (fun f => { f with winV := [], winW := [], winP := [] })
  rest   : { g' with v := g.v, k := g.k, p := g.p, sat := g.sat, frames := g.frames, hsp := g.hsp, hist := g.hist } = g

theorem Group.Touches.trans {a b c : Group} (h : a.Touches b) (k : b.Touches c) : a.Touches c where
  frames := k.frames.trans h.frames
  rest := by
    have h1 := congrArg (fun u : Group =>
      { u with v := a.v, k := a.k, p := a.p, sat := a.sat, frames := a.frames, hsp := a.hsp, hist := a.hist }) k.rest
    exact h1.trans h.rest

theorem Group.Rec.touches {g g' : Group} {n : Nat} (h : g.Rec g' n) : g.Touches g' where
  frames := by have h2 : g'.frames = g.frames := by (have := congrArg Group.frames h.rest; exact this)
               rw [h2]
  rest := by
    have h1 := congrArg (fun u : Group =>
      { u with v := g.v, k := g.k, p := g.p, sat := g.sat, frames := g.frames, hsp := g.hsp, hist := g.hist }) h.rest
    exact h1

theorem Group.touches_wrK (g : Group) (n : Nat) (x : DWord) : g.Touches (g.wrK n x) where
  frames := by
    have h1 := congrArg (List.map (fun f : HFrame => { f with winV := [], winW := [], winP := [] })) (g.wrK_frames n x)
    simpa [List.map_map, Function.comp_def] using h1
  rest := by
    have h1 := congrArg (fun u : Group =>
      { u with v := g.v, k := g.k, p := g.p, sat := g.sat, frames := g.frames, hsp := g.hsp, hist := g.hist }) (g.wrK_rest n x)
    exact h1

theorem Group.wrK_rdV (g : Group) (n : Nat) (x : DWord) (d : Loc) (l : Nat) : (g.wrK n x).rdV d l = g.rdV d l := by
  unfold Group.wrK
  split
  · rfl
  · split
    · split
      · rename_i f t hf _; rcases t with _ | ⟨f', t'⟩ <;> cases d <;> simp [Group.rdV, hf]
      · cases d <;> rfl
    · cases d <;> rfl

theorem Group.wrK_rdP (g : Group) (n : Nat) (x : DWord) (k : Nat) : (g.wrK n x).rdP k = g.rdP k := by
  unfold Group.wrK
  split
  · rfl
  · split
    · split <;> simp_all [Group.rdP]
    · simp_all [Group.rdP]

theorem Group.wrK_hsp (g : Group) (n : Nat) (x : DWord) : (g.wrK n x).hsp = g.hsp := by
  have := congrArg Group.hsp (g.wrK_rest n x); exact this

theorem Group.wrK_hist (g : Group) (n : Nat) (x : DWord) : (g.wrK n x).hist = g.hist := by
  have := congrArg Group.hist (g.wrK_rest n x); exact this

theorem Group.Rec.rdK {g g' : Group} {n : Nat} (h : g.Rec g' n) (k : Nat) : g'.rdK k = g.rdK k := by
  have h1 := congrArg (fun u : Group => u.rdK k) h.rest
  exact h1
theorem Group.Rec.rdP {g g' : Group} {n : Nat} (h : g.Rec g' n) (k : Nat) : g'.rdP k = g.rdP k := by
  have h1 := congrArg (fun u : Group => u.rdP k) h.rest
  exact h1
theorem Group.Rec.sat {g g' : Group} {n : Nat} (h : g.Rec g' n) : g'.sat = g.sat := by
  have := congrArg Group.sat h.rest; exact this

theorem Group.setK_within (g : Group) (m : Mask) (n : Nat) (x : DWord) (ex : Bool) :
    g.Within (g.setK m n x ex) 24 := by
  unfold Group.setK
  split
  · exact .refl g _
  · unfold Group.Within; rw [Group.wrK_hsp, Group.wrK_hist]; exact (g.recK_rec n ex).room

theorem Group.Did.same (g : Group) (m : Mask) : g.Did g m {} where
  lanes := by simp
  lanesKept := fun _ _ _ _ => rfl
  unis := by simp
  unisKept := fun _ _ _ => rfl
  preds := by simp
  predsKept := fun _ _ _ => rfl
  sat := rfl
  frames := rfl
  rest := rfl

theorem Group.setK_did (g : Group) (m : Mask) (n : Nat) (x : DWord) (ex : Bool) :
    g.Did (g.setK m n x ex) m { k := [(n, x)] } := by
  unfold Group.setK
  split
  · rename_i h
    exact ⟨by simp, fun _ _ _ _ => rfl, by simp [h], fun _ _ _ => rfl, by simp, fun _ _ _ => rfl, rfl, rfl, rfl⟩
  · rename_i h
    have hr := g.recK_rec n ex
    have ht := hr.touches.trans (Group.touches_wrK _ n x)
    refine ⟨by simp, ?_, ?_, ?_, by simp, ?_, ?_, ht.frames, ht.rest⟩
    · intro d _ l _; rw [Group.wrK_rdV, hr.rdV]
    · intro w hw
      simp only [List.mem_singleton] at hw
      subst hw
      rw [Group.rdK_wrK, hr.rdK]
      by_cases hn : n = 0 <;> simp [hn, h]
    · intro k _ hk
      rw [Group.rdK_wrK, hr.rdK]
      have : k ≠ n := fun e => hk (n, x) (by simp) e.symm
      simp [this]
    · intro k _ _; rw [Group.wrK_rdP, hr.rdP]
    · have : ((g.recK n ex).wrK n x).sat = (g.recK n ex).sat := by
        have := congrArg Group.sat (Group.wrK_rest (g.recK n ex) n x); exact this
      rw [this, hr.sat]; rfl

theorem Group.setK2_within (g : Group) (m : Mask) (n : Nat) (x y : DWord) :
    g.Within (g.setK2 m n x y) 48 := by
  unfold Group.setK2
  split
  · exact .refl g _
  · unfold Group.Within; rw [Group.wrK_hsp, Group.wrK_hsp, Group.wrK_hist, Group.wrK_hist]; exact ((g.recK_rec n false).trans (Group.recK_rec _ (n + 1) false)).room

theorem Group.setK2_did (g : Group) (m : Mask) (n : Nat) (x y : DWord) :
    g.Did (g.setK2 m n x y) m { k := [(n, x), (n + 1, y)] } := by
  unfold Group.setK2
  split
  · rename_i h
    exact ⟨by simp, fun _ _ _ _ => rfl, by simp [h], fun _ _ _ => rfl, by simp, fun _ _ _ => rfl, rfl, rfl, rfl⟩
  · rename_i h
    have hr := (g.recK_rec n false).trans (Group.recK_rec _ (n + 1) false)
    have ht := (hr.touches.trans (Group.touches_wrK _ n x)).trans (Group.touches_wrK _ (n + 1) y)
    refine ⟨by simp, ?_, ?_, ?_, by simp, ?_, ?_, ht.frames, ht.rest⟩
    · intro d _ l _; rw [Group.wrK_rdV, Group.wrK_rdV, hr.rdV]
    · intro w hw
      simp only [List.mem_cons, List.not_mem_nil, or_false] at hw
      rcases hw with rfl | rfl
      · rw [Group.rdK_wrK, Group.rdK_wrK, hr.rdK]
        have : n ≠ n + 1 := by omega
        by_cases hn : n = 0 <;> simp [hn, h]
      · rw [Group.rdK_wrK]
        simp [h]
    · intro k _ hk
      rw [Group.rdK_wrK, Group.rdK_wrK, hr.rdK]
      have h1 : k ≠ n := fun e => hk (n, x) (by simp) e.symm
      have h2 : k ≠ n + 1 := fun e => hk (n + 1, y) (by simp) e.symm
      simp [h1, h2]
    · intro k _ _; rw [Group.wrK_rdP, Group.wrK_rdP, hr.rdP]
    · have h1 : ∀ (u : Group) a b, (u.wrK a b).sat = u.sat := fun u a b => by
        have := congrArg Group.sat (u.wrK_rest a b); exact this
      rw [h1, h1, hr.sat]; rfl

/-! Predicates. -/

theorem Group.rdP_wrP (g : Group) (n k : Nat) (m x : Mask) :
    (g.wrP n m x).rdP k = if k = n ∧ n ≠ 63 then (g.rdP n &&& ~~~m) ||| (x &&& m) else g.rdP k := by
  unfold Group.wrP Group.rdP
  by_cases hn : n = 63
  · simp [hn]
  · rcases hf : g.frames with _ | ⟨f, t⟩
    · by_cases hk : k = 63
      · have : k ≠ n := by omega
        simp [hk, hn]; intro h; exact absurd h.symm hn
      · by_cases h : k = n <;> simp [hn, hk, hf, Cells.get_set, h]
    · by_cases h56 : 56 ≤ n
      · by_cases hk : k = 63
        · simp [hn, h56, hk]; intro h; exact absurd h.symm hn
        · by_cases hk56 : 56 ≤ k
          · have e : (k - 56 = n - 56) ↔ k = n := by omega
            simp [hn, h56, hk, hk56, Cells.get_set, e]
          · have : k ≠ n := by omega
            simp [hn, h56, hk, hk56, this]
      · by_cases hk : k = 63
        · simp [hn, h56, hk]; intro h; exact absurd h.symm hn
        · by_cases hk56 : 56 ≤ k
          · have : k ≠ n := by omega
            simp [hn, h56, hk, hf, hk56, this]
          · simp [hn, h56, hk, hk56, hf, Cells.get_set]

theorem Group.wrP_rest (g : Group) (n : Nat) (m x : Mask) : { g.wrP n m x with p := g.p, frames := g.frames } = g := by
  unfold Group.wrP; repeat' (first | rfl | split)

theorem Group.touches_wrP (g : Group) (n : Nat) (m x : Mask) : g.Touches (g.wrP n m x) where
  frames := by
    unfold Group.wrP
    split
    · rfl
    · split
      · split <;> simp_all
      · simp_all
  rest := by
    have h1 := congrArg (fun u : Group =>
      { u with v := g.v, k := g.k, p := g.p, sat := g.sat, frames := g.frames, hsp := g.hsp, hist := g.hist }) (g.wrP_rest n m x)
    exact h1

theorem Group.wrP_rdV (g : Group) (n : Nat) (m x : Mask) (d : Loc) (l : Nat) : (g.wrP n m x).rdV d l = g.rdV d l := by
  unfold Group.wrP
  split
  · rfl
  · split
    · split
      · rename_i f t hf _; rcases t with _ | ⟨f', t'⟩ <;> cases d <;> simp [Group.rdV, hf]
      · cases d <;> rfl
    · cases d <;> rfl

theorem Group.wrP_rdK (g : Group) (n : Nat) (m x : Mask) (k : Nat) : (g.wrP n m x).rdK k = g.rdK k := by
  unfold Group.wrP
  split
  · rfl
  · split
    · split <;> simp_all [Group.rdK]
    · simp_all [Group.rdK]

theorem Group.wrP_hsp (g : Group) (n : Nat) (m x : Mask) : (g.wrP n m x).hsp = g.hsp := by
  have := congrArg Group.hsp (g.wrP_rest n m x); exact this

theorem Group.wrP_hist (g : Group) (n : Nat) (m x : Mask) : (g.wrP n m x).hist = g.hist := by
  have := congrArg Group.hist (g.wrP_rest n m x); exact this

theorem Group.setP_within (g : Group) (m : Mask) (n : Nat) (x : Mask) (ex : Bool) :
    g.Within (g.setP m n x ex) 16 := by
  unfold Group.setP Group.Within; rw [Group.wrP_hsp, Group.wrP_hist]; exact (g.recP_rec n m ex).room

theorem Group.rdP_63 (g : Group) : g.rdP 63 = fullMask := by simp [Group.rdP]

theorem Group.setP_did (g : Group) (m : Mask) (n : Nat) (x : Mask) (ex : Bool) :
    g.Did (g.setP m n x ex) m { p := [(n, x)] } := by
  have hr := g.recP_rec n m ex
  have ht := hr.touches.trans (Group.touches_wrP _ n m x)
  refine ⟨by simp, ?_, by simp, ?_, ?_, ?_, ?_, ht.frames, ht.rest⟩
  · intro d _ l _; unfold Group.setP; rw [Group.wrP_rdV, hr.rdV]
  · intro k _ _; unfold Group.setP; rw [Group.wrP_rdK, hr.rdK]
  · intro w hw
    simp only [List.mem_singleton] at hw
    subst hw
    unfold Group.setP
    rw [Group.rdP_wrP, hr.rdP]
    by_cases hn : n = 63
    · subst hn; simp
    · simp [hn]
  · intro k _ hk
    unfold Group.setP
    rw [Group.rdP_wrP, hr.rdP]
    have : k ≠ n := fun e => hk (n, x) (by simp) e.symm
    simp [this, hr.rdP]
  · have : (g.setP m n x ex).sat = (g.recP n m ex).sat := by
      have := congrArg Group.sat (Group.wrP_rest (g.recP n m ex) n m x); exact this
    rw [this, hr.sat]; rfl

/-! %sat. -/

/-- Two changes one after another, the first of %sat alone. -/
theorem Group.Did.after_sat {g u g' : Group} {m : Mask} {e : Effect} (hs : g.Touches u) (hv : ∀ d l, u.rdV d l = g.rdV d l)
    (hk : ∀ n, u.rdK n = g.rdK n) (hp : ∀ n, u.rdP n = g.rdP n) (h : u.Did g' m e) (he : e.sat = none) :
    g.Did g' m { e with sat := some u.sat } where
  lanes := fun w hw l hl => by rw [h.lanes w hw l hl, hv]
  lanesKept := fun d hd l hl => by rw [h.lanesKept d hd l hl, hv]
  unis := fun w hw => by rw [h.unis w hw, hk]
  unisKept := fun n hn hw => by rw [h.unisKept n hn hw, hk]
  preds := fun w hw => by rw [h.preds w hw, hp, hp]
  predsKept := fun n hn hw => by rw [h.predsKept n hn hw, hp]
  sat := by rw [h.sat, he]; rfl
  frames := h.frames.trans hs.frames
  rest := by
    have h1 := congrArg (fun u : Group =>
      { u with v := g.v, k := g.k, p := g.p, sat := g.sat, frames := g.frames, hsp := g.hsp, hist := g.hist }) h.rest
    exact h1.trans hs.rest

/-- %sat with bit i set where a result was limited (R88, R98). -/
theorem Group.satHit_sat (g : Group) (i : Nat) (hit : Bool) :
    (g.satHit i hit).sat = if hit = true ∧ g.sat.getLsbD i = false then g.sat ||| BitVec.twoPow 8 i else g.sat := by
  unfold Group.satHit
  cases hit <;> cases g.sat.getLsbD i <;> simp

theorem Group.satHit_touches (g : Group) (i : Nat) (hit : Bool) : g.Touches (g.satHit i hit) := by
  unfold Group.satHit
  split
  · have h := g.recSat_rec.touches
    exact ⟨h.frames, h.rest⟩
  · exact ⟨rfl, rfl⟩

theorem Group.satHit_within (g : Group) (i : Nat) (hit : Bool) : g.Within (g.satHit i hit) 16 := by
  unfold Group.satHit
  split
  · exact g.recSat_rec.room
  · exact .refl g _

theorem Group.satHit_rdV (g : Group) (i : Nat) (hit : Bool) (d : Loc) (l : Nat) : (g.satHit i hit).rdV d l = g.rdV d l := by
  unfold Group.satHit
  split
  · have := g.recSat_rec.rdV d l; exact this
  · rfl
theorem Group.satHit_rdK (g : Group) (i : Nat) (hit : Bool) (n : Nat) : (g.satHit i hit).rdK n = g.rdK n := by
  unfold Group.satHit
  split
  · have := g.recSat_rec.rdK n; exact this
  · rfl
theorem Group.satHit_rdP (g : Group) (i : Nat) (hit : Bool) (n : Nat) : (g.satHit i hit).rdP n = g.rdP n := by
  unfold Group.satHit
  split
  · have := g.recSat_rec.rdP n; exact this
  · rfl
theorem Group.satHit_holds (g : Group) (i : Nat) (hit : Bool) (d : Loc) (h : g.holds d) : (g.satHit i hit).holds d := by
  unfold Group.satHit
  split
  · have := g.recSat_rec.holds h; cases d <;> exact this
  · exact h

end Sys2Proof.Machine
end

