-- ==== Sys2Proof/Tests/Slice0.lean ====
section
/-! SUPPORT. Tests/Slice0.lean: words written out from the encoding tables, ill-formed terms that the checks refuse, single
steps whose results the spec's worked examples give, and states that meet the hypotheses of the statements. -/

namespace Sys2Proof.Tests

-- The witnesses are checked one after another: checked side by side they take more memory than a check has.
set_option Elab.async false

open Sys2Proof Sys2Proof.Machine

/-! Words: the fields of each at the bit places of 02 R43 to R47, OP and FN7 from the entry's table; the instruction is the
entry's own example. -/

/-- IMAD v9, v1, 12, v9: OP 08, D 9, A 1, C 9, literal 12 (04). -/
theorem test_word_imad : decodeTableWord 96 0x8000000C0004BF0000042422 = some (.imadL96 ⟨always, 9#8, .v 1#8, 12#32, 9#8⟩) := by decide
/-- SHF.r v6, v1, v0, 12: OP 15, D 6, A 1, B 0, C 12, FN7 3 (04). -/
theorem test_word_shf : decodeTableWord 64 0x41863F0000041855 = some (.shf true always 6#8 (.v 1#8) (.v 0#8) (.imm 12#6)) := by decide
/-- TRIL v7, v1, v2, v3, 0xAC: OP 24, D 7, A 1, B 2, C 3, literal the table (04). -/
theorem test_word_tril : decodeTableWord 96 0x800000AC0001BF0200041C92 = some (.tril always 7#8 (.v 1#8) (.v 2#8) 3#8 0xAC#8) := by decide
/-- FSETP.ge.or p2, v4, v5, p2: OP 31, D 2, A 4, B 5, C 2, FN7 ge 5, or 1 (04). -/
theorem test_word_fsetp : decodeTableWord 64 0x4A813F05001008C5 = some (.fsetp .ge false .or ⟨always, 2#6, .v 4#8, .v 5#8, 2#6⟩) := by decide
/-- CALLI v2:v3, v4:v5: OP 84, D 2, A 4 (04). -/
theorem test_word_calli : decodeTableWord 64 0x40003F0000100A11 = some (.calli always 2#8 (.v 4#8)) := by decide
/-- FFMA v6, v1, v2, v6: OP 43, D 6, A 1, B 2, C 6 (05). -/
theorem test_word_ffma : decodeTableWord 64 0x40033F020004190D = some (.ffma ⟨.rn, false, false⟩ ⟨always, 6#8, .v 1#8, .v 2#8, 6#8⟩) := by decide
/-- PKFMA.bf16.x v5, v1, k2, v5: OP 52, BU, FN7 .bf16 and .x (05). -/
theorem test_word_pkfma : decodeTableWord 64 0x4A02BF0208041549 = some (.pkfma ⟨.rn, true, false, true⟩ ⟨always, 5#8, .v 1#8, .k 2#6, 5#8⟩) := by decide
/-- UNPACK.b8.z v4, v9, 2: OP 66, D 4, A 9, C 2, FN7 .z (05). -/
theorem test_word_unpack : decodeTableWord 64 0x41013F0000241199 = some (.unpack false true always 4#8 (.v 9#8) 2#2) := by decide
/-- VOTE.any p4, !p1: OP 72, D 4, A 1, FN7 01 and the negation (05). -/
theorem test_word_vote : decodeTableWord 64 0x44803F00000411C9 = some (.vote (.any 4#6) true always 1#6) := by decide
/-- SCAN.exc v8, v3, k5: OP 74, D 8, A 3, C 5, FN7 .exc and .k (05). -/
theorem test_word_scan : decodeTableWord 64 0x4182BF00000C21D1 = some (.scan true always 8#8 (.v 3#8) (some 5#6)) := by decide
/-- GROW p5, 128: OP E6, D 5, C 7 (14). -/
theorem test_word_grow : decodeTableWord 64 0x4003BF0000001799 = some (.grow always 5#6 7#4) := by decide
/-- GRIDL k6, k4, k5: OP E8, D 6, A 4, B 5 (14). -/
theorem test_word_gridl : decodeTableWord 64 0x40003F0500101BA1 = some (.gridl always 6#6 4#6 5#6) := by decide
/-- CBPUSH on stream 3 with three bodies: OP ED, FN7 stream and bodies less one (15). -/
theorem test_word_cbpush : decodeTableWord 64 0x49803F0900200BB5 = some (.cbpush 3#3 2#2 always 2#6 8#8 9#8) := by decide
/-- TRAP k10, k4, 0x21 (17). -/
theorem test_word_trap : decodeTableWord 64 0x4010BF0000102BC1 = some (.trap always 10#6 4#6 0x21#8) := by decide
/-- REVG k20, k4, k6, k7 (17). -/
theorem test_word_revg : decodeTableWord 64 0x4003BF06001053DD = some (.revg always 20#6 4#6 6#6 7#6) := by decide
/-- SEAL k4, k5: OP D3, A 4, B 5 (12). -/
theorem test_word_seal : decodeTableWord 64 0x40003F050010034D = some (.seal always 4#6 5#6) := by decide
/-- EVWAIT.cluster k4, v6, 2: OP E3, A 4, B 6, C 2, FN7 binding 1 (14). -/
theorem test_word_evwait : decodeTableWord 64 0x41013F060010038D = some (.evwait false .cluster always 4#6 6#8 2#5) := by decide
/-- ERET.skip: OP F1, FN 1 (17). -/
theorem test_word_eretSkip : decodeTableWord 32 0x040003C4 = some (.eretSkip) := by decide
/-- BKPT 5: OP F3, A 5 (17). -/
theorem test_word_bkpt : decodeTableWord 32 0x001403CC = some (.bkpt 5#8) := by decide
/-- BAR: OP E5 (14). -/
theorem test_word_bar : decodeTableWord 32 0x00000394 = some (.bar) := by decide

/-- 02 R52: FN7 of VOTE 11 is not assigned; 02 R46: an unused field of COMMIT; 02 R51: OP 0x0E is no cell. -/
theorem test_word_refused : decode true 0x00041DC9#32 0x41803F00#32 0#32 = .error 0x0002#16 ∧
    decode true 0x00000640#32 0#32 0#32 = .error 0x0004#16 := by
  constructor <;> rfl

/-! Ill-formed terms, one for each check. -/

def smoke : List Instr :=
  [.iadd64 false false ⟨always, 3#8, .v 2#8, .v 4#8⟩, .ptov always 4#8 1#6 33#8, .vtop always 40#6 (.v 1#8) 30#8,
   .ptov always 4#8 1#6 0#8, .fsetp .num true .and ⟨always, 1#6, .v 1#8, .v 2#8, 63#6⟩, .mfs always (.lane 1#8 false) 0x77#8,
   .mfs always (.uni 2#6) 0x22#8, .mfs always (.uni 3#6) 0x01#8, .mts always 0x09#8 2#6, .brx always (.v 3#8),
   .call always 5#8 16#32, .calli always 2#8 (.v 5#8), .ret 7#8, .rdcf always 9#6, .fclass .f32 true ⟨always, 2#8, .v 1#8⟩,
   .cvt ⟨.rn, false, true, false, false⟩ .i32 .f32 always 2#8 (.v 1#8), .cvt ⟨.rn, false, false, true, false⟩ .i32 .f16 always 2#8 (.v 1#8),
   .cvt ⟨.rn, false, false, false, true⟩ .i32 .f32 always 2#8 (.v 1#8), .cvt ⟨.rn, false, false, false, false⟩ .i64 .f32 always 3#8 (.v 1#8),
   .cvt ⟨.rn, false, false, false, false⟩ .f32 .i64 always 3#8 (.v 1#8), .cvt8 (.from_ false always 3#8 (.v 2#8) 1#3),
   .cvtx .e3m2 false true ⟨always, 2#8, .v 1#8⟩, .unpack true false always 2#8 (.v 1#8) 2#2,
   .redux .and true always 2#6 (.v 1#8), .scan false always 2#8 (.ind 1#6 2#8) (some 3#6), .match_ true always 2#8 3#8 none,
   .ld ⟨.i32, .global, .none⟩ always 2#8 ⟨.v 4#8, .v 6#8, 0#8⟩, .ld ⟨.b64, .global, .none⟩ always 3#8 ⟨.v 4#8, .v 6#8, 0#8⟩,
   .ld ⟨.b32, .cs, .nl1⟩ always 3#8 ⟨.v 4#8, .v 6#8, 0#8⟩, .ld ⟨.b32, .global, .none⟩ always 3#8 ⟨.v 5#8, .v 6#8, 0#8⟩,
   .st ⟨.i8, .global, .none⟩ ⟨false, false⟩ always 2#8 ⟨.v 4#8, .v 6#8, 0#8⟩, .kld ⟨.b128, .global, .none⟩ always 2#6 4#6 0#6 0#8,
   .kld ⟨.b32, .priv, .none⟩ always 2#6 4#6 0#6 0#8, .ldx ⟨.b128, .global, .none⟩ always 4#8 ⟨.v 4#8, .v 6#8, 0#8⟩,
   .stx ⟨.b32, .global, .stream⟩ ⟨false, false⟩ always 4#8 ⟨.v 4#8, .v 6#8, 0#8⟩,
   .xchg ⟨.b128, .global, .none⟩ always 4#8 ⟨.v 4#8, .v 6#8, 0#8⟩, .pref false .polder ⟨false, false⟩ always ⟨.v 4#8, .v 6#8, 0#8⟩,
   .atom .add ⟨true, .global, .device, .relaxed⟩ always 3#8 (.v 4#8) (.v 6#8), .atomcas ⟨false, .global, .device, .relaxed⟩ always 3#8 (.v 5#8) (.v 6#8),
   .red .exch ⟨false, .global, .device, .relaxed⟩ ⟨false, false⟩ always (.v 4#8) (.v 6#8),
   .redL96 .exch ⟨false, .global, .device, .relaxed⟩ ⟨false, false⟩ always (.v 4#8) 1#32, .hquery .used always 3#6 0#6,
   .hquery .used always 4#6 1#6, .mma none false always 48#6 0#8 32#8 0#3 1#3, .mmas false always 50#6 0#8 32#8 0#3 1#3,
   .mmax false always 63#6 0#8 32#8 0#3 1#3, .accz always 48#6 0#3, .accld .global always 48#6 2#6 3#6 1#3,
   .accst .rn .global ⟨false, false⟩ always 48#6 2#6 3#6 1#3, .accmov always (.cc 0#6 48#6), .accmov always (.rd 0#2 0#8 48#6),
   .accmov always (.wr 0#2 48#6 0#8), .cpy ⟨.global, .cs, .team, ⟨false, false⟩, always, 61#6, 0#6⟩,
   .cpyL96 ⟨.global, .cs, .team, ⟨false, false⟩, always, 7#6, 0#6⟩ 64#32, .cpym ⟨.cs, .cs, .cluster, ⟨false, false⟩, always, 8#6, 0#6⟩ 2#6,
   .cpym ⟨.global, .cs, .team, ⟨false, false⟩, always, 8#6, 0#6⟩ 2#6, .cpyg ⟨.global, .polder, .team, ⟨false, false⟩, always, 8#6, 0#6⟩ 2#6,
   .tileget .neg always 3#6 4#6 5#6 0#6, .tileget .held always 4#6 4#6 5#6 0#6, .tileget .neg always 4#6 4#6 5#6 6#6,
   .spawn .team always 2#6 4#6 6#8 17#5, .spawnL96 .team always 2#6 16#32 6#8 17#5, .evsig .group always 4#6,
   .evwait false .team always 4#6 6#8 17#5, .cntdec .global always 2#6 (.v 5#8), .mfg always 3#6 4#6 5#6, .mtg always 3#6 4#6 5#6,
   .revg always 3#6 4#6 5#6 6#6, .launch always 3#6 4#6 5#6 6#6]

theorem test_wf_refuses : smoke.all (fun i => !i.wf) = true := by decide

/-- What the checks refuse has no words that decode to it: here for two of them (02 R58). -/
theorem test_wf_admits : (Instr.iadd64 false false ⟨always, 2#8, .v 4#8, .v 6#8⟩).wf = true ∧
    (Instr.hquery .mark always 4#6 3#6).wf = true := by decide

/-! Single steps. The state is a group of two lanes at an instruction; results are the spec's own. -/

/-- The group of the loaded state with two lanes and in OFF grade. -/
def small : Group :=
  { loadGroup with launched := 3#32, grade := .off, splits := [(0, initialSplit 0x1004#57 3#32)] }

def world (g : Group) : State := { State.loaded State.reset with groups := [(3, g)] }

/-- What a query finds in the state and the group after an instruction. -/
def after {α : Type} (i : Instr) (s : State) (q : State → Group → α) : Option α :=
  match exec i s with
  | .next t => (t.groups.get 3).map (q t)
  | _ => none

/-- Lane registers 1, 2 and so on of lane 0, and uniform register 2. -/
def operands (xs : List Word) (k2 : DWord) : Group :=
  { small with v := (Cells.setRun [] 0 (fun i => if i % 32 = 0 then xs.getD (i / 32) 0#32 else 0#32) (32 * xs.length)),
               k := Cells.set [] 2 k2 }

def lane0 (n : Nat) : State → Group → Word := fun _ g => g.rdV (.own n) 0

/-- 04, borderline integer values: IADD.sat. -/
theorem test_iadd_sat : after (.iadd false true ⟨always, 3#8, .v 1#8, .v 2#8⟩)
    (world (operands [0, 0x7FFFFFF0, 0x20] 0)) (fun _ g => (g.rdV (.own 3) 0, g.sat)) = some (0x7FFFFFFF#32, 2#8) := by
  decide

/-- 04, borderline integer values: IADD. -/
theorem test_iadd_wraps : after (.iadd false false ⟨always, 3#8, .v 1#8, .v 2#8⟩)
    (world (operands [0, 0x7FFFFFF0, 0x20] 0)) (fun _ g => (g.rdV (.own 3) 0, g.sat)) = some (0x80000010#32, 0#8) := by decide

/-- 04, borderline integer values: IDIV and IREM of 0x8000_0000 and −1. -/
theorem test_idiv : after (.idiv false ⟨always, 3#8, .v 1#8, .v 2#8⟩) (world (operands [0, 0x80000000, 0xFFFFFFFF] 0))
    (lane0 3) = some 0x80000000#32 := by decide

theorem test_irem_zero : after (.irem false ⟨always, 3#8, .v 1#8, .v 2#8⟩) (world (operands [0, 9, 0] 0))
    (lane0 3) = some 9#32 := by decide

theorem test_imulhi : after (.imulhi true ⟨always, 3#8, .v 1#8, .v 2#8⟩)
    (world (operands [0, 0xFFFFFFFF, 0xFFFFFFFF] 0)) (lane0 3) = some 0xFFFFFFFE#32 := by decide

/-- 04, borderline integer values: SAR by 40, ROTL by 33, CLZ, BFE.sx. -/
theorem test_sar : after (.sar (.src ⟨always, 3#8, .v 1#8, .v 2#8⟩)) (world (operands [0, 0x80000000, 40] 0))
    (lane0 3) = some 0xFFFFFFFF#32 := by decide

theorem test_rotl : after (.rotl (.src ⟨always, 3#8, .v 1#8, .v 2#8⟩)) (world (operands [0, 0x80000001, 33] 0))
    (lane0 3) = some 3#32 := by decide

theorem test_clz : after (.clz ⟨always, 3#8, .v 1#8⟩) (world (operands [0, 0x10000] 0)) (lane0 3) = some 15#32 := by decide

theorem test_bfe : after (.bfe true ⟨always, 3#8, .v 1#8, .k 2#6⟩) (world (operands [0, 0xF00] 0x408)) (lane0 3) =
    some 0xFFFFFFFF#32 := by decide

/-- 05: PKFMA.bf16.x v5, v1, k2, v5 with the operands of the example. -/
theorem test_pkfma : after (.pkfma ⟨.rn, true, false, true⟩ ⟨always, 5#8, .v 1#8, .k 2#6, 5#8⟩)
    (world (operands [0, 0x40003F80] 0x40404080)) (lane0 5) = some 0x41004040#32 := by decide

/-- 05: a signalling NaN after FADD with 1.0. -/
theorem test_fadd_nan : after (.fadd ⟨.rn, false, false⟩ ⟨always, 3#8, .v 1#8, .v 2#8⟩)
    (world (operands [0, 0x7F800001, 0x3F800000] 0)) (lane0 3) = some 0x7FC00000#32 := by decide

/-- 05: 1.5 × 2^−24 in FP16 is two subnormal steps. -/
theorem test_cvt_f16 : after (.cvt ⟨.rn, false, false, false, false⟩ .f16 .f32 always 3#8 (.v 1#8))
    (world (operands [0, 0x33C00000] 0)) (lane0 3) = some 2#32 := by decide

/-- 04 R123: KMOVI.hi keeps the low half. -/
theorem test_kmovi_hi : after (.kmovi always 2#6 .hi 3#32) (world (operands [] 0x1122334455667788)) (fun _ g => g.rdK 2) =
    some 0x0000000355667788#64 := by decide

/-- 03 R67: k0 discards a write. -/
theorem test_k0 : after (.kmovi always 0#6 .zx 3#32) (world (operands [] 0)) (fun _ g => (g.rdK 0, g.ic)) =
    some (0#64, 1#48) := by decide

/-- 04 R117: ISETP.lt against 8, as in the guarded branch. -/
theorem test_isetp : after (.isetpL96 .lt false .and ⟨always, 1#6, .v 1#8, 8#32, 63#6⟩) (world (operands [0, 9] 0))
    (fun _ g => g.rdP 1) = some 2#32 := by decide

/-- 04 R127: the lanes that branch take a new split, the others keep number 0 behind the instruction. -/
theorem test_bra : after (.bra ⟨1#6, false⟩ 0x20#32)
    { world { small with p := [(1, 2#32)] } with mem := Cells.writeN [] 0x1024 4 0xE13FC003 }
    (fun _ g => g.splits.map (fun x => (x.1, x.2.pc, x.2.mask))) = some [(0, 0x1010#57, 1#32), (1, 0x1024#57, 2#32)] := by
  decide

/-- 04 R128: a target that is no header parks the split with 0x0101. -/
theorem test_bra_fault : after (.bra ⟨63#6, false⟩ 0x20#32) (world small)
    (fun t _ => (t.ctxs.get 0).map (fun c => c.faults.map (fun r => (r.2.cause, r.2.addr, r.2.detA)))) =
    some (some [(0x0101#16, 0x1004#57, 0x1024#64)]) := by decide

/-- 06 R191: a store that streams puts the low byte at the lowest address. -/
theorem test_st : after (.stL96 ⟨.b32, .global, .stream⟩ ⟨false, false⟩ ⟨63#6, false⟩ 1#8 ⟨.k 2#6, .v 2#8, 0#32⟩)
    (world { operands [0, 0x11223344] 0x8000 with splits := [(0, initialSplit 0x1004#57 1#32)] })
    (fun t _ => (t.core 0).wcb.map (fun w => w.bytes.map (fun b => (b.1, b.2.val)))) =
    some [[(0x8000, 0x44#8), (0x8001, 0x33#8), (0x8002, 0x22#8), (0x8003, 0x11#8)]] := by decide

/-- 06 R188: a load takes its value and leaves the register until it returns. -/
theorem test_ld : after (.ldL96 ⟨.i8, .global, .none⟩ ⟨63#6, false⟩ 3#8 ⟨.k 2#6, .v 2#8, 0#32⟩)
    { world { operands [] 0x8000 with splits := [(0, initialSplit 0x1004#57 1#32)] } with mem := [(0x8000, 0x80#8)] }
    (fun t g => (t.pend, g.rdV (.own 3) 0)) =
    some ([(4, .load 3 0 1#32 [⟨.own 3, 0, 0xFFFFFF80#32⟩] [])], 0#32) := by decide

/-- 09 R220, R224: a recorded write pushes the old value and the instruction counts. -/
theorem test_recorded : after (.movi always 1#8 7#32) (world { operands [0, 5] 0 with grade := .step })
    (fun _ g => (g.ic, g.hsp - g.hbase, g.hist.stack.length)) = some (1#48, 144#57, 1) := by decide

/-- 11 R304: SATCLR clears the bits of its mask alone. -/
theorem test_satclr : after (.satclr always (.imm 2#8)) (world { small with sat := 3#8 }) (fun _ g => g.sat) = some 1#8 := by
  decide

/-- 14 R353: the first name is 1. -/
theorem test_evnew : after (.evnew always 2#6) (world small) (fun _ g => g.rdK 2) = some 1#64 := by decide

/-- 15: a free stream opens with 0, an open one answers 1. -/
theorem test_cbopen : after (.cbopen 3#3 always 2#6) (world { small with k := [(2, 9#64)] }) (fun _ g => g.rdK 2) = some 0#64 := by
  decide

/-- 17 R400: TRAP is the service request 0x0903 with its operand and its code. -/
theorem test_trap : after (.trap always 10#6 2#6 0x21#8) (world (operands [] 77))
    (fun t g => ((t.ctxs.get 0).map (fun c => c.faults.map (fun r => (r.2.cause, r.2.detA, r.2.detB.extractLsb' 32 8))), g.ic)) =
    some (some [(0x0903#16, 77#64, 0x21#8)], 0#48) := by decide

/-- 02 R55, R58: an opcode cell without an instruction vectors to emulation, here to Berm. -/
theorem test_emulation : after (.emulationEntry 0x0001#16 0x3FD#32 0x40003F00#32 0#32) (world small)
    (fun t _ => (t.ctxs.get 0).map (fun c => c.faults.map (fun r => r.2.cause))) = some (some [0x0001#16]) := by decide

/-- 17 R401: ERET outside a handler in user mode. -/
theorem test_eret_user : after .eret (world small)
    (fun t _ => (t.ctxs.get 0).map (fun c => c.faults.map (fun r => r.2.cause))) = some (some [0x0901#16]) := by decide

/-- 02 R36, R43: a step fetches the word that stands at the group and runs it: MOVI v9, 0xC123_4567 of the worked kernel. -/
theorem test_step_movi : (match step ((State.loaded State.reset).withFetchWord 96 0x81234567C0003F00000024D6) with
    | .next t => (t.groups.get 3).map (fun g => (g.rdV (.own 9) 31, g.ic, g.clause))
    | _ => none) = some (0xC1234567#32, 1#48, none) := by decide

/-- 19 R434: after reset nothing is due, and a step changes nothing. -/
theorem test_step_reset : step State.reset = .next State.reset := rfl

/-! States and operands that meet the hypotheses of the statements. -/

/-- The surroundings of an instruction of the state. -/
def at_ (s : State) (len : Nat) (gd : Guard) : Iss :=
  match s.issuer with
  | some (g, sp, cl) => s.iss g sp cl gd len
  | none => s.iss small (initialSplit 0#57 0#32) ⟨0#57, none, none, 1, false⟩ gd len

theorem issues_of {s : State} {len : Nat} {gd : Guard}
    (h : (match s.issuer with
      | some (g, _, _) => !g.overBudget
      | none => false) = true) : s.Issues len gd (at_ s len gd) := by
  unfold State.Issues at_
  cases hs : s.issuer with
  | none => simp [hs] at h
  | some x => obtain ⟨g, sp, cl⟩ := x; exact ⟨g, sp, cl, rfl, by simpa [hs] using h⟩

theorem room_of {c : Iss} {n : Nat} (h : (c.g.recGrade == .off || (decide (c.g.hsp.toNat + n ≤ c.g.hlim.toNat) &&
    c.g.hist.hold.isNone && (!c.counts || decide ((c.g.ic + 1#48 - c.g.cmark).toNat < 2 ^ 32)))) = true) : c.Room n := by
  unfold Iss.Room
  by_cases hg : c.g.recGrade = .off
  · exact .inl hg
  · refine .inr ?_
    simp only [Bool.or_eq_true, Bool.and_eq_true, beq_iff_eq, hg, false_or, decide_eq_true_eq, Bool.not_eq_true',
      Option.isNone_iff_eq_none] at h
    exact ⟨h.1.1, .inl h.1.2, fun hc => h.2.resolve_left (by simp [hc])⟩

/-- The surroundings after the commit. -/
def committed (c : Iss) : Iss :=
  match c.s.commit c.gid with
  | .ok s1 => match s1.groups.get c.gid with
    | some g1 => { c with s := s1, g := g1 }
    | none => c
  | _ => c

theorem commits_of {c : Iss} (h : (match c.s.commit c.gid with
    | .ok s1 => (s1.groups.get c.gid).isSome
    | _ => false) = true) : c.Commits (committed c) := by
  unfold Iss.Commits committed
  cases hs : c.s.commit c.gid with
  | error e => simp [hs] at h
  | ok s1 =>
    cases hg : s1.groups.get c.gid with
    | none => simp [hs, hg] at h
    | some g1 => exact ⟨s1, g1, rfl, by simp [hg], by simp [hg]⟩

/-- A group of 32 lanes in STEP grade with 64 registers, and in OFF grade. -/
def W : State := world loadGroup
def Woff : State := world { loadGroup with grade := .off }

theorem meets_IntegerSums : W.Issues 2 always (at_ W 2 always) ∧ (at_ W 2 always).Room 304 ∧
    (∃ d a b, (at_ W 2 always).Reads2 ⟨always, 3#8, .v 1#8, .v 2#8⟩ d a b) ∧
    W.Issues 3 always (at_ W 3 always) ∧ (at_ W 3 always).Room 160 ∧
    (∃ d a, (at_ W 3 always).Reads2L ⟨always, 3#8, .ind 1#6 2#8, 7#32⟩ d a) ∧
    (∃ d a, (at_ W 2 always).Reads1 ⟨always, 63#8, .k 2#6⟩ d a) ∧
    (∃ d a b, (at_ W 2 always).Reads2W ⟨always, 62#8, .v 2#8, .v 4#8⟩ d a b) :=
  ⟨issues_of (by decide), room_of (by decide), ⟨_, _, _, rfl, rfl, rfl⟩, issues_of (by decide), room_of (by decide),
    ⟨_, _, rfl, rfl⟩, ⟨_, _, rfl, rfl⟩, ⟨_, _, _, rfl, rfl, rfl⟩⟩

theorem meets_IntegerResults : W.Issues 2 always (at_ W 2 always) ∧ (at_ W 2 always).Room 144 ∧
    (∃ d a b, (at_ W 2 always).Reads2 ⟨always, 3#8, .v 1#8, .v 2#8⟩ d a b) ∧
    W.Issues 3 always (at_ W 3 always) ∧ (at_ W 3 always).Room 144 ∧
    (∃ d a, (at_ W 3 always).Reads2L ⟨always, 3#8, .v 1#8, 7#32⟩ d a) ∧
    (∃ d a b e, (at_ W 2 always).Reads3 ⟨always, 3#8, .v 1#8, .k 2#6, 63#8⟩ d a b e) ∧
    (∃ d a e, (at_ W 3 always).Reads3L ⟨always, 3#8, .v 1#8, 7#32, 2#8⟩ d a e) ∧
    (∃ d a b e, (at_ W 3 always).g.loc 7 = .ok d ∧ (at_ W 3 always).g.src (.v 1#8) = .ok a ∧
      (at_ W 3 always).g.src (.v 2#8) = .ok b ∧ (at_ W 3 always).g.src (.v 3#8) = .ok e) :=
  ⟨issues_of (by decide), room_of (by decide), ⟨_, _, _, rfl, rfl, rfl⟩, issues_of (by decide), room_of (by decide),
    ⟨_, _, rfl, rfl⟩, ⟨_, _, _, _, rfl, rfl, rfl, rfl⟩, ⟨_, _, _, rfl, rfl, rfl⟩, ⟨_, _, _, _, rfl, rfl, rfl, rfl⟩⟩

/-- BitLogic, FloatFunctions, FloatSums and Shifts have the hypotheses of IntegerResults; the amounts of SHF. -/
theorem meets_Shifts : W.Issues 2 always (at_ W 2 always) ∧ (at_ W 2 always).Room 144 ∧
    (∃ d hi lo v, (at_ W 2 always).g.loc 3 = .ok d ∧ (at_ W 2 always).g.src (.v 1#8) = .ok hi ∧
      (at_ W 2 always).g.src (.v 2#8) = .ok lo ∧ (at_ W 2 always).g.src (.v 4#8) = .ok v) :=
  ⟨issues_of (by decide), room_of (by decide), ⟨_, _, _, _, rfl, rfl, rfl, rfl⟩⟩

theorem meets_MovesInPlace : W.Issues 1 always (at_ W 1 always) ∧ (at_ W 1 always).Room 288 ∧
    (∃ d a, (at_ W 1 always).g.loc 0 = .ok d ∧ (at_ W 1 always).g.loc 63 = .ok a) ∧
    (∃ d a, (at_ W 2 always).g.loc 0 = .ok d ∧ (at_ W 2 always).g.lloc (.v 63#8) = .ok a) ∧
    W.Issues 3 always (at_ W 3 always) :=
  ⟨issues_of (by decide), room_of (by decide), ⟨_, _, rfl, rfl⟩, ⟨_, _, rfl, rfl⟩, issues_of (by decide)⟩

/-- PTOV and VTOP at the ends of their ranges. -/
theorem meets_Predicates : W.Issues 2 always (at_ W 2 always) ∧ (at_ W 2 always).Room 512 ∧
    (∃ d, (at_ W 2 always).g.loc 63 = .ok d) ∧ (32#8).toNat ≤ 32 ∧ (32#6).toNat + (32#8).toNat ≤ 64 ∧
    (∃ a b, (at_ W 2 always).g.src (.v 1#8) = .ok a ∧ (at_ W 2 always).g.src (.k 2#6) = .ok b) ∧
    W.Issues 3 always (at_ W 3 always) ∧ (at_ W 3 always).Room 16 :=
  ⟨issues_of (by decide), room_of (by decide), ⟨_, rfl⟩, by decide, by decide, ⟨_, _, rfl, rfl⟩, issues_of (by decide),
    room_of (by decide)⟩

theorem meets_UniformArithmetic : W.Issues 2 always (at_ W 2 always) ∧ (at_ W 2 always).Room 24 ∧
    W.Issues 3 always (at_ W 3 always) ∧ (at_ W 3 always).Room 24 :=
  ⟨issues_of (by decide), room_of (by decide), issues_of (by decide), room_of (by decide)⟩

theorem meets_SpecialRegisters : W.Issues 2 always (at_ W 2 always) ∧ (at_ W 2 always).Room 144 ∧
    (∃ d, (at_ W 2 always).g.loc 5 = .ok d) ∧ (at_ W 2 always).ex ≠ 0#32 :=
  ⟨issues_of (by decide), room_of (by decide), ⟨_, rfl⟩, by decide⟩

def Wsys (m : Mode) : State := world { loadGroup with mode := m }

theorem meets_SpecialWrites : W.Issues 2 always (at_ W 2 always) ∧ (at_ W 2 always).Room 32 ∧
    (at_ W 2 always).g.mode = .user ∧ (Wsys .system).Issues 2 always (at_ (Wsys .system) 2 always) ∧
    (at_ (Wsys .system) 2 always).ex ≠ 0#32 ∧ (at_ (Wsys .system) 2 always).g.mode = .system ∧
    (at_ (Wsys .system) 2 always).Commits (committed (at_ (Wsys .system) 2 always)) ∧
    (at_ (Wsys .monitor) 2 always).g.mode = .monitor :=
  ⟨issues_of (by decide), room_of (by decide), rfl, issues_of (by decide), by decide, rfl, commits_of (by decide), rfl⟩

/-- A slot that names E4M3 and a slot per tensor; a destination pair. -/
def Wslot : State :=
  { W with grids := [(1, { loadGrid with lrec := { loadRecord with slots := [⟨1#8, 0#8, 1#8, 0#8, 0#32, 0#64⟩] } })] }

theorem meets_Conversions : Wslot.Issues 2 always (at_ Wslot 2 always) ∧ (at_ Wslot 2 always).Room 304 ∧
    (∃ x, (at_ Wslot 2 always).g.src64 (.v 2#8) = .ok x) ∧ (∃ v, (at_ Wslot 2 always).g.src (.v 2#8) = .ok v) ∧
    (∃ d, (at_ Wslot 2 always).g.locPair 62 = .ok d) ∧ (∃ d, (at_ Wslot 2 always).g.loc 63 = .ok d) ∧
    cvtWide .i64 = true ∧ cvtWide .f16 = false ∧
    (∃ f bit, (Wslot.slot (at_ Wslot 2 always).g.grid (0#3 : Slot).toNat).fp8 = some (f, bit)) :=
  ⟨issues_of (by decide), room_of (by decide), ⟨_, rfl⟩, ⟨_, rfl⟩, ⟨_, rfl⟩, ⟨_, rfl⟩, rfl, rfl, ⟨_, _, rfl⟩⟩

theorem meets_CrossLane : W.Issues 2 always (at_ W 2 always) ∧ (at_ W 2 always).Room 168 ∧
    (∃ d a b, (at_ W 2 always).g.loc 3 = .ok d ∧ (at_ W 2 always).g.loc 1 = .ok a ∧
      (at_ W 2 always).g.lgB (.imm 31#5) = .ok b) ∧
    (∃ a, (at_ W 2 always).g.lloc (.v 1#8) = .ok a) ∧ (∃ x, (at_ W 2 always).g.src64 (.v 2#8) = .ok x) ∧
    (∃ x y, (at_ W 2 always).g.src (.v 2#8) = .ok x ∧ (at_ W 2 always).g.src (.v 1#8) = .ok y) :=
  ⟨issues_of (by decide), room_of (by decide), ⟨_, _, _, rfl, rfl, rfl⟩, ⟨_, rfl⟩, ⟨_, rfl⟩, ⟨_, _, rfl, rfl⟩⟩

theorem ok_of {α : Type} {r : Run α} (h : (match r with | .ok _ => true | .error _ => false) = true) : ∃ x, r = .ok x := by
  cases r with
  | ok x => exact ⟨x, rfl⟩
  | error e => simp at h

theorem ok_with {α : Type} {r : Run α} {p : α → Bool} (h : (match r with | .ok x => p x | .error _ => false) = true) :
    ∃ x, r = .ok x ∧ p x = true := by
  cases r with
  | ok x => exact ⟨x, rfl, h⟩
  | error e => simp at h

theorem ok_eq {α : Type} [DecidableEq α] {r : Run α} {x : α}
    (h : (match r with | .ok y => decide (y = x) | .error _ => false) = true) : r = .ok x := by
  cases r with
  | ok y => simp only [decide_eq_true_eq] at h; rw [h]
  | error e => simp at h

/-- One lane in OFF grade: registers 0 to 2 of lane 0 and uniform register 2, and bytes of memory. -/
def lone (xs : List Word) (k2 : DWord) : Group :=
  { operands xs k2 with launched := 1#32, splits := [(0, initialSplit 0x1004#57 1#32)] }

def header : Cells 8 → Nat → Cells 8 := fun m a => m.writeN a 4 0xE13FC003

/-- Two lanes, with a header at 0x1024 and lane 0 under p1. -/
def Wbra : State := { world { small with p := [(1, 1#32)] } with mem := header [] 0x1024 }
/-- One lane whose pair v2:v3 holds 0x1024. -/
def Wret : State := { world (lone [0, 0, 0x1024, 0] 0x1024) with mem := header [] 0x1024 }

theorem one_lane {l : Nat} {c : Iss} (h : lanesOf c.ex = [0]) (hl : l ∈ lanesOf c.ex) : l = 0 := by
  rw [h] at hl; simpa using hl

/-- Lanes that stay, and none; a uniform target; a return. -/
theorem meets_Transfers : Wbra.Issues 3 ⟨1#6, false⟩ (at_ Wbra 3 ⟨1#6, false⟩) ∧ (at_ Wbra 3 ⟨1#6, false⟩).Room 384 ∧
    (at_ Wbra 3 ⟨1#6, false⟩).CanTransfer (fun _ => 0x1024#57) ∧ (at_ Wbra 3 ⟨1#6, false⟩).stay ≠ 0#32 ∧
    (at_ Wbra 3 always).CanTransfer (fun _ => 0x1024#57) ∧ (at_ Wbra 3 always).stay = 0#32 ∧
    (∃ d, (at_ Wbra 3 always).g.locPair 62 = .ok d) ∧ (at_ Wbra 3 ⟨63#6, true⟩).ex = 0#32 ∧
    (∃ v, (at_ Wret 2 always).g.src64 (.k 2#6) = .ok v ∧ (at_ Wret 2 always).CanTransfer (fun l => (v l).setWidth 57)) ∧
    (∃ a, (at_ Wret 1 always).g.locPair 2 = .ok a ∧
      (at_ Wret 1 always).CanTransfer (fun l => ((at_ Wret 1 always).g.pairV a l).setWidth 57)) :=
  ⟨issues_of (by decide), room_of (by decide), ⟨by decide, fun _ _ => rfl, by decide, by decide⟩, by decide,
    ⟨by decide, fun _ _ => rfl, by decide, by decide⟩, by decide, ⟨_, rfl⟩, by decide,
    ⟨_, rfl, ⟨by decide, fun _ _ => rfl, by decide, by decide⟩⟩,
    ⟨_, rfl, ⟨by decide, fun l hl => by rw [one_lane (by decide) hl]; rfl, by decide, by decide⟩⟩⟩

theorem meets_TransferFaults : Wbra.Issues 3 ⟨1#6, false⟩ (at_ Wbra 3 ⟨1#6, false⟩) ∧ (at_ Wbra 3 ⟨1#6, false⟩).ex ≠ 0#32 ∧
    Wbra.isHeader 0 0x1028#57 = .ok false ∧ Wbra.isHeader 0 0x1026#57 = .ok false ∧
    Wbra.isHeader 0 0x1024#57 = .ok true ∧ (at_ Wbra 3 ⟨1#6, false⟩).stay ≠ 0#32 :=
  ⟨issues_of (by decide), by decide, rfl, rfl, rfl, by decide⟩

/-- The only split, and one of two. -/
def Wsplit : State :=
  world { small with splits := [(0, initialSplit 0x1004#57 1#32), (1, initialSplit 0x2000#57 2#32)] }

theorem meets_ExitAndConverge : W.Issues 1 always (at_ W 1 always) ∧ (at_ W 1 always).g.inHandler = false ∧
    (at_ W 1 always).Commits (committed (at_ W 1 always)) ∧ (at_ W 1 always).ex ≠ 0#32 ∧
    (committed (at_ W 1 always)).g.splits.length = 1 ∧ (committed (at_ W 1 always)).g.parked = [] ∧
    (((committed (at_ W 1 always)).s.ctxs.get 0).elim false (fun x => x.poolWaits.contains 3)) = false ∧
    ((committed (at_ W 1 always)).g.splits.get (at_ W 1 always).sn).map (·.mask) = some (at_ W 1 always).sp.mask ∧
    (at_ W 1 always).Room 0 ∧ (at_ W 1 always).g.sat &&& (at_ W 1 always).g.satarm = 0#8 ∧
    1 < (at_ Wsplit 1 always).g.splits.length ∧ (at_ W 1 always).g.splits.length ≤ 1 ∧ (at_ W 1 always).g.parked = [] :=
  ⟨issues_of (by decide), rfl, commits_of (by decide), by decide, rfl, rfl, rfl, rfl, room_of (by decide), by decide,
    by decide, by decide, rfl⟩

/-- One lane; v1 the data, v2 the index 0, k2 the address. -/
def Wmem : State := { world (lone [0, 0x11223344] 0x8000) with mem := [(0x8000, 0x80#8)] }
def memMod : MemMod := ⟨.b32, .global, .none⟩

theorem meets_Loads : Wmem.Issues 2 always (at_ Wmem 2 always) ∧ (at_ Wmem 2 always).Room 576 ∧
    (∃ ls, (at_ Wmem 2 always).g.locRun 3 (sizeRegs .b32) = .ok ls) ∧
    (∃ a, (at_ Wmem 2 always).g.addr ⟨.k 2#6, .v 2#8, 0#8⟩ 4 = .ok a ∧
      ∃ accs, (at_ Wmem 2 always).access .global .load (at_ Wmem 2 always).ex a 4 = .ok accs) ∧
    (at_ Wmem 2 always).ex ≠ 0#32 ∧ (at_ Wmem 2 ⟨63#6, true⟩).ex = 0#32 ∧
    (∃ a, (at_ Wmem 3 always).g.addrL ⟨.k 2#6, .v 2#8, 0#32⟩ = .ok a) ∧
    (∃ accs, (at_ Wmem 2 always).accessK .global .load 0x8000#64 8 = .ok accs) :=
  ⟨issues_of (by decide), room_of (by decide), ok_of (by decide), ⟨_, rfl, ok_of (by decide)⟩, by decide, by decide,
    ⟨_, rfl⟩, ok_of (by decide)⟩

theorem meets_Stores : Wmem.Issues 2 always (at_ Wmem 2 always) ∧ (at_ Wmem 2 always).g.recGrade = .off ∧
    (at_ Wmem 2 always).ex ≠ 0#32 ∧ (∃ ls, (at_ Wmem 2 always).g.locRun 1 (sizeRegs .b32) = .ok ls) ∧
    (∃ g1, (at_ Wmem 2 always).g.raiseFlags ((at_ Wmem 2 always).flagsOf ⟨true, true⟩) = .ok g1) ∧
    (∃ a, (at_ Wmem 2 always).g.addr ⟨.k 2#6, .v 2#8, 0#8⟩ 4 = .ok a ∧
      (∃ accs, (at_ Wmem 2 always).access .global .store (at_ Wmem 2 always).ex a 4 = .ok accs) ∧
      ∃ accs, (at_ Wmem 2 always).access .global .atomic (at_ Wmem 2 always).ex a 4 = .ok accs) ∧
    (let r : State := world { lone [0, 0x11223344] 0x8000 with grade := .step }
     r.Issues 2 always (at_ r 2 always) ∧ (at_ r 2 always).g.recGrade ≠ .off ∧ (at_ r 2 always).Room 2048 ∧
      r.Issues 3 always (at_ r 3 always)) :=
  ⟨issues_of (by decide), rfl, by decide, ok_of (by decide), ok_of (by decide),
    ⟨_, rfl, ok_of (by decide), ok_of (by decide)⟩, issues_of (by decide), by decide, room_of (by decide),
    issues_of (by decide)⟩

theorem meets_PrefetchAndFence : Wmem.Issues 2 always (at_ Wmem 2 always) ∧ (at_ Wmem 2 always).Room 0 ∧
    (∃ a, (at_ Wmem 2 always).g.addr ⟨.k 2#6, .v 2#8, 0#8⟩ 1 = .ok a) ∧
    (∃ g1, (at_ Wmem 2 always).g.raiseFlags ((at_ Wmem 2 always).flagsOf ⟨true, false⟩) = .ok g1) :=
  ⟨issues_of (by decide), room_of (by decide), ⟨_, rfl⟩, ok_of (by decide)⟩

theorem meets_Atomics : Wmem.Issues 2 always (at_ Wmem 2 always) ∧ (at_ Wmem 2 always).g.recGrade = .off ∧
    (∃ x, (at_ Wmem 2 always).g.atomicOf (.atom .add ⟨false, .global, .device, .relaxed⟩ always 4#8 (.k 2#6) (.v 1#8)) =
        some (.ok x) ∧ (∃ accs, (at_ Wmem 2 always).access (aspace x.m.space) .atomic (at_ Wmem 2 always).ex x.addr 4 = .ok accs ∧
          accs.all (fun a => !Wmem.movedAt 0 a.addr) = true)) ∧
    Wmem.Issues 3 always (at_ Wmem 3 always) ∧
    (∃ x, (at_ Wmem 3 always).g.atomicOf (.redL96 .add ⟨false, .global, .device, .relaxed⟩ ⟨false, false⟩ always (.k 2#6) 1#32) =
        some (.ok x)) ∧ (at_ Wmem 2 ⟨63#6, true⟩).ex = 0#32 :=
  ⟨issues_of (by decide), rfl, ⟨_, rfl, ok_with (by decide)⟩, issues_of (by decide), ⟨_, rfl⟩, by decide⟩

/-- A ring block at 0x8000: 64 elements of 4 bytes at 0x9000, TAIL 1, HEAD 0. -/
def Wring : State :=
  { world (lone [0, 7] 0x8000) with
    mem := Cells.writeN (Cells.writeN (Cells.writeN (Cells.writeN [] 0x8000 8 0x9000) 0x8008 4 64) 0x800C 4 4) 0x8010 8 1 }

/-- The surroundings of an ENQ or DEQ after its release. -/
def ringAt : Iss := { at_ Wring 2 always with s := (at_ Wring 2 always).s.release 0 3 .system }

theorem meets_RingQueues : Wring.Issues 2 always (at_ Wring 2 always) ∧ (at_ Wring 2 always).ex ≠ 0#32 ∧
    ringAt.Commits (committed ringAt) ∧ (∃ q, ringAt.queueOp true .global 2#6 1#8 = .ok q) ∧
    (∃ q, (committed ringAt).queueOp true .global 2#6 1#8 = .ok q) ∧ (∃ q, ringAt.queueOp false .global 2#6 1#8 = .ok q) ∧
    (∃ q, (committed ringAt).queueOp false .global 2#6 1#8 = .ok q ∧ decide (q.served.length = 1) = true) ∧
    (at_ Wring 2 ⟨63#6, true⟩).ex = 0#32 ∧ (at_ Wring 2 ⟨63#6, true⟩).Room 0 :=
  ⟨issues_of (by decide +kernel), by decide +kernel, commits_of (by decide +kernel), ok_of (by decide +kernel), ok_of (by decide +kernel), ok_of (by decide +kernel),
    ok_with (by decide +kernel), by decide +kernel, room_of (by decide +kernel)⟩

/-- A group at %ic 5 with a uniform target in k2, in STEP grade. -/
def Wrev (k2 : DWord) : State := world { loadGroup with ic := 5#48, k := Cells.set [] 2 k2 }

theorem meets_HistoryInstructions : W.Issues 1 always (at_ W 1 always) ∧ (at_ W 1 always).ex ≠ 0#32 ∧
    (at_ W 1 always).Commits (committed (at_ W 1 always)) ∧ (at_ Woff 1 always).g.recGrade = .off ∧
    (at_ W 1 always).g.recGrade ≠ .off ∧ (at_ W 1 always).Room 344 ∧ W.Issues 2 always (at_ W 2 always) ∧
    (at_ W 2 always).Commits (committed (at_ W 2 always)) ∧ (at_ W 2 always).Room 48 ∧
    (Wrev 3#64).Issues 2 always (at_ (Wrev 3#64) 2 always) ∧
    (at_ (Wrev 3#64) 2 always).g.landing ((at_ (Wrev 3#64) 2 always).g.rdK 2) = some (3#48, false) ∧
    (at_ (Wrev 0#64) 2 always).g.landing ((at_ (Wrev 0#64) 2 always).g.rdK 2) = some (0#48, false) ∧
    (Wrev 3#64).mayReverse 3 (at_ (Wrev 3#64) 2 always).g = true ∧
    (at_ (Wrev 3#64) 2 always).g.hsp.toNat ≤ (at_ (Wrev 3#64) 2 always).g.hlim.toNat ∧
    ((at_ (Wrev 3#64) 2 always).g.rdK 2).setWidth 48 ≠ (at_ (Wrev 3#64) 2 always).g.ic ∧
    (at_ (Wrev 6#64) 2 always).g.landing ((at_ (Wrev 6#64) 2 always).g.rdK 2) = none ∧ (at_ W 2 always).g.hist.bad = [] :=
  ⟨issues_of (by decide), by decide, commits_of (by decide), rfl, by decide, room_of (by decide), issues_of (by decide),
    commits_of (by decide), room_of (by decide), issues_of (by decide), by decide, by decide, by decide, by decide, by decide,
    by decide, rfl⟩

/-- Slot 0 names BF16, slot 1 E2M1 by block, slot 2 E4M3. -/
def Wmat : State :=
  { W with grids := [(1, { loadGrid with lrec := { loadRecord with
      slots := [⟨4#8, 0#8, 0#8, 0#8, 0#32, 0#64⟩, ⟨3#8, 1#8, 0#8, 0#8, 0#32, 0#64⟩, ⟨1#8, 0#8, 1#8, 0#8, 0#32, 0#64⟩] } })] }

/-- MMA with the last tile and the last registers that the group has; MMAS and MMAX by their slots. -/
theorem meets_MatrixMultiplies : Wmat.Issues 2 always (at_ Wmat 2 always) ∧ (at_ Wmat 2 always).Room 16416 ∧
    (Mat.dense none).accepts (Wmat.slot 1 0) (Wmat.slot 1 0) = true ∧ Mat.sparse.accepts (Wmat.slot 1 0) (Wmat.slot 1 0) = true ∧
    Mat.mx.accepts (Wmat.slot 1 1) (Wmat.slot 1 1) = true ∧ (at_ Wmat 2 always).g.launched = fullMask ∧
    (at_ Wmat 2 always).sp.mask = fullMask ∧ (at_ Wmat 2 always).ex = fullMask ∧
    0 + ((Mat.dense none).regsOf (slotBits (Wmat.slot 1 0))).1 ≤ (at_ Wmat 2 always).g.regs ∧
    32 + ((Mat.dense none).regsOf (slotBits (Wmat.slot 1 0))).2 ≤ (at_ Wmat 2 always).g.regs ∧
    (∃ tm, Wmat.teams.get (at_ Wmat 2 always).g.team = some tm ∧ (7#6 : TileReg).toNat < tm.accs) ∧
    (∀ m ∈ (Wmat.core (at_ Wmat 2 always).g.core).mq, ¬(m.team = (at_ Wmat 2 always).g.team ∧ m.tile = 7) ∧
      ¬(m.gid = 3 ∧ m.sat = true)) :=
  ⟨issues_of (by decide), room_of (by decide), by decide, by decide, by decide, rfl, rfl, by decide, by decide, by decide,
    ⟨_, rfl, by decide⟩, by decide⟩

/-- A list of numbers without a repetition, judged with the set of those seen so far as a number. -/
def distinct : Nat → List Nat → Bool
  | _, [] => true
  | m, a :: t => !m.testBit a && distinct (m ||| 2 ^ a) t

theorem distinct_nodup : ∀ (l : List Nat) (m : Nat), distinct m l = true → l.Nodup ∧ ∀ a ∈ l, m.testBit a = false
  | [], _, _ => by simp
  | a :: t, m, h => by
    simp only [distinct, Bool.and_eq_true, Bool.not_eq_true'] at h
    obtain ⟨ht, hm⟩ := distinct_nodup t _ h.2
    simp only [Nat.testBit_or, Bool.or_eq_false_iff, Nat.testBit_two_pow, decide_eq_false_iff_not] at hm
    exact ⟨List.nodup_cons.2 ⟨fun hi => (hm a hi).2 rfl, ht⟩, by simpa [h.1] using fun b hb => (hm b hb).1⟩

/-- The address of a place of global memory. -/
def globAddr : Place → Nat
  | .glob a => a
  | _ => 0

def isGlob : Place → Bool
  | .glob _ => true
  | _ => false

theorem glob_nodup {ps : List Place} (h : (ps.all isGlob && distinct 0 (ps.map globAddr)) = true) :
    ps.Nodup ∧ ∀ p ∈ ps, isGlob p = true := by
  simp only [Bool.and_eq_true, List.all_eq_true] at h
  exact ⟨List.Pairwise.of_map globAddr (fun _ _ hn he => hn (congrArg globAddr he)) (distinct_nodup _ _ h.2).1, h.1⟩

def Wacc : State := { Wmat with groups := [(3, { loadGroup with grade := .off, k := Cells.set (Cells.set [] 2 0x8000#64) 3 4#64 })] }

/-- A tile that an operation pending names; an empty Exec; the elements of a tile in memory at distinct places. -/
theorem meets_Accumulators_memory :
    (∃ accs, (at_ Wacc 2 always).tileAccess .global .load ((at_ Wacc 2 always).g.rdK 2)
      (blocksOf ((at_ Wacc 2 always).g.rdK 3)) (elemBytes (Wacc.slot 1 2).elem) = .ok accs) ∧
    (∃ accs, (at_ Wacc 2 always).tileAccess .global .store ((at_ Wacc 2 always).g.rdK 2)
      (blocksOf ((at_ Wacc 2 always).g.rdK 3)) (elemBytes (Wacc.slot 1 2).elem) = .ok accs ∧
      (accs.flatMap (·.places)).Nodup ∧ ∀ p ∈ accs.flatMap (·.places), isGlob p = true) ∧
    (let s : State := { Wacc with cores := [(0, { Core.empty with mq := [⟨3, 2, 7, [], false⟩] })] }
     s.Issues 2 always (at_ s 2 always) ∧ ∃ m ∈ (s.core 0).mq, m.team = 2 ∧ m.tile ∈ [(7#6 : TileReg).toNat]) ∧
    (at_ Wacc 2 ⟨63#6, true⟩).Room 0 ∧ (elemFmt (Wacc.slot 1 2).elem).isSome = true := by
  refine ⟨ok_of (by decide +kernel), ?_, ⟨issues_of (by decide), ⟨3, 2, 7, [], false⟩, by decide, rfl, by decide⟩,
    room_of (by decide), by decide⟩
  obtain ⟨accs, h, hp⟩ := ok_with (p := fun accs =>
    (accs.flatMap (·.places)).all isGlob && distinct 0 ((accs.flatMap (·.places)).map globAddr))
    (r := (at_ Wacc 2 always).tileAccess .global .store ((at_ Wacc 2 always).g.rdK 2)
      (blocksOf ((at_ Wacc 2 always).g.rdK 3)) (elemBytes (Wacc.slot 1 2).elem)) (by decide +kernel)
  exact ⟨accs, h, glob_nodup hp⟩

theorem meets_Accumulators : Wacc.Issues 2 always (at_ Wacc 2 always) ∧ Wacc.teams.get (at_ Wacc 2 always).g.team = some loadTeam ∧
    (∀ m ∈ (Wacc.core (at_ Wacc 2 always).g.core).mq, m.team ≠ 2) ∧ (at_ Wacc 2 always).Room (8 * 16400) ∧
    (at_ Wacc 2 always).ex ≠ 0#32 ∧ 0 + 7 < loadTeam.accs ∧ (at_ Wacc 2 ⟨63#6, true⟩).ex = 0#32 ∧
    (at_ Wacc 2 always).g.launched = fullMask ∧ (at_ Wacc 2 always).sp.mask = fullMask ∧
    (32#8 : VReg).toNat + 32 ≤ (at_ Wacc 2 always).g.regs ∧ (Wacc.slot 1 2).sound = true ∧ (Wacc.slot 1 2).scale ≠ 1#8 ∧
    (elemFmt (Wacc.slot 1 2).elem).isSome = true ∧
    (at_ Wacc 2 always).Commits (committed (at_ Wacc 2 always)) ∧
    (∃ g0, (at_ Wacc 2 always).g.raiseFlags ((at_ Wacc 2 always).flagsOf ⟨false, false⟩) = .ok g0) ∧
    (∃ g1, (committed (at_ Wacc 2 always)).g.raiseFlags ((at_ Wacc 2 always).flagsOf ⟨false, false⟩) = .ok g1) :=
  ⟨issues_of (by decide), rfl, by decide, room_of (by decide), by decide, by decide, by decide, rfl, rfl, by decide,
    by decide, by decide, by decide, commits_of (by decide), ok_of (by decide), ok_of (by decide)⟩

/-- A copy of 64 bytes within global memory, and by a descriptor in k4 and k5. -/
def Wcpy : State :=
  world { small with k := [(2, 0x8000#64), (3, 0x9000#64), (4, 64#64), (5, 15#64)] }
def cpyMod : CpyMod := ⟨.global, .global, .team, ⟨false, false⟩, always, 2#6, 0#6⟩

theorem meets_CopiesStart : Wcpy.Issues 2 always (at_ Wcpy 2 always) ∧ Wcpy.Issues 3 always (at_ Wcpy 3 always) ∧
    (at_ Wcpy 3 always).ex ≠ 0#32 ∧
    (∃ x, (at_ Wcpy 2 always).copyCheck cpyMod .one (descOf ((at_ Wcpy 2 always).g.rdK 4) ((at_ Wcpy 2 always).g.rdK 5))
      0x8000#64 0x9000#64 = .ok x ∧ Wcpy.canRegister 0 x.2.ranges = true) ∧
    (∃ x, (at_ Wcpy 3 always).copyCheck cpyMod .one (some (Desc.raw (64#32).toNat)) 0x8000#64 0x9000#64 = .ok x ∧
      Wcpy.canRegister 0 x.2.ranges = true) ∧
    (∃ g0, (at_ Wcpy 3 always).g.raiseFlags ((at_ Wcpy 3 always).flagsOf cpyMod.fl) = .ok g0) ∧
    ((at_ Wcpy 3 always).s.copies.filter (fun x => x.2.core == (at_ Wcpy 3 always).g.core)).length < 32 ∧
    (at_ Wcpy 2 always).Commits (committed (at_ Wcpy 2 always)) ∧ (at_ Wcpy 3 always).Commits (committed (at_ Wcpy 3 always)) ∧
    (∃ g1, (committed (at_ Wcpy 3 always)).g.raiseFlags ((at_ Wcpy 3 always).flagsOf cpyMod.fl) = .ok g1) :=
  ⟨issues_of (by decide), issues_of (by decide), by decide, ok_with (by decide), ok_with (by decide), ok_of (by decide),
    by decide, commits_of (by decide), commits_of (by decide), ok_of (by decide)⟩

/-- A tile of the context, free or held; the surrender routine of the launch is at 0x1024. -/
def tile (st : TileState) : TileRec :=
  { ctx := 0, va := 0x40000, state := st, team := 2, gid := 3, gen := 0#8, routine := ⟨0#57, 0, 0⟩, refusals := 0, queue := [],
    running := none }
def Wtile (st : TileState) (k2 : DWord) : State := { world { small with k := Cells.set [] 2 k2 } with tiles := [(5, tile st)] }

/-- The frame of a surrender routine. -/
def frame (k : HandlerKind) : HFrame :=
  { kind := k, entry := 0x1024#57, split := 0, at_ := 0x1004#57, parcels := 2, whole := false,
    aside := [(0, initialSplit 0x1004#57 3#32)], parkedAside := [], clauseAside := none, winV := [], winW := [], winP := [],
    lanes := 3#32, used := 0, budget := 9, tile := 5, w4 := 0#64, frameOpen := false, committed := false, started := 0, row := 0,
    yielded := false }

def Wsurr : State := { Wtile .negotiated 0#64 with groups := [(3, { small with frames := [frame .surrender] })] }

theorem meets_Tiles : (Wtile .free 0#64).Issues 2 always (at_ (Wtile .free 0#64) 2 always) ∧
    (at_ (Wtile .free 0#64) 2 always).ex ≠ 0#32 ∧
    (at_ (Wtile .free 0#64) 2 always).Commits (committed (at_ (Wtile .free 0#64) 2 always)) ∧
    (at_ (Wtile .free 0#64) 2 always).tileWords .open_ 0#64 0#64 = .ok () ∧
    ((at_ (Wtile .free 0#64) 2 always).g.inRoutine && (TileMode.held == .neg || TileMode.held == .req)) = false ∧
    ((committed (at_ (Wtile .free 0#64) 2 always)).s.pickTile 0 0 0).isSome = true ∧
    ((committed (at_ (Wtile .held 0#64) 2 always)).s.pickTile 0 0 0) = none ∧
    (at_ (Wtile .held 5#64) 2 always).Commits (committed (at_ (Wtile .held 5#64) 2 always)) ∧
    (Wtile .held 5#64).byHandle 0 (fld ((at_ (Wtile .held 5#64) 2 always).g.rdK 2) 0 21) = .ok (5, tile .held) ∧
    (tile .held).ownedBy 2 = true ∧ (Wtile .held 5#64).tileSweeping 5 = false ∧ (Wtile .held 5#64).tileLocked 5 = false ∧
    Wsurr.Issues 2 always (at_ Wsurr 2 always) ∧ (at_ Wsurr 2 always).g.frames.head? = some (frame .surrender) ∧
    (at_ Wsurr 2 always).summary .finish = .ok (0, 0) ∧ (at_ Wsurr 2 always).Commits (committed (at_ Wsurr 2 always)) ∧
    (committed (at_ Wsurr 2 always)).g.frames.head?.isSome = true ∧ (at_ Wsurr 2 ⟨63#6, true⟩).ex = 0#32 :=
  ⟨issues_of (by decide), by decide, commits_of (by decide), rfl, by decide, by decide, rfl, commits_of (by decide), rfl,
    by decide, by decide, by decide, issues_of (by decide), rfl, rfl, commits_of (by decide), by decide, by decide⟩

/-- A request of another team, refused within the routine's limit of 2, and with the limit reached. -/
def request : TileReq := { team := 9, gid := 4, routine := ⟨0#57, 0, 0⟩, mailbox := 0, event := 2 }
def Wref (refusals : Nat) : State :=
  { Wsurr with
    tiles := [(5, { tile .negotiated with routine := ⟨0#57, 256, 2⟩, refusals := refusals, queue := [request], running := some 3 })],
    teams := [(2, loadTeam), (9, { loadTeam with teamNo := 1 })],
    ctxs := [(0, { loadCtx with events := [(2, ⟨false, false, []⟩)] })] }

theorem meets_Tiles_surrender : (Wref 1).Issues 2 always (at_ (Wref 1) 2 always) ∧
    (at_ (Wref 1) 2 always).g.frames.head? = some (frame .surrender) ∧ (at_ (Wref 1) 2 always).summary .refuse = .ok (0, 0) ∧
    (at_ (Wref 1) 2 always).Commits (committed (at_ (Wref 1) 2 always)) ∧
    (∃ x, (committed (at_ (Wref 1) 2 always)).s.tiles.get 5 = some x ∧ x.refusals < x.routine.limit ∧
      (committed (at_ (Wref 1) 2 always)).s.liveReqs x.queue = request :: []) ∧
    (((committed (at_ (Wref 1) 2 always)).s.surrOutcome 3 (frame .surrender) true (0, 0)).groups.get 3).isSome = true ∧
    (∃ cx, (committed (at_ (Wref 1) 2 always)).s.ctxs.get 0 = some cx ∧ (cx.events.get 2).isSome = true) ∧
    (∃ x, (committed (at_ (Wref 2) 2 always)).s.tiles.get 5 = some x ∧ x.routine.limit ≤ x.refusals) ∧
    (at_ Wsurr 2 ⟨63#6, true⟩).Room 0 ∧
    (∃ x, (Wref 1).byHandle 0 5 = .ok (5, x) ∧ x.ownedBy 2 = true ∧ x.running ≠ none) :=
  ⟨issues_of (by decide), rfl, rfl, commits_of (by decide), ⟨_, rfl, by decide, rfl⟩, by decide, ⟨_, rfl, by decide⟩,
    ⟨_, rfl, by decide⟩, room_of (by decide), ⟨_, rfl, by decide, by decide⟩⟩

/-- An open tile, and one with a seal of 4,096 bytes at its end with count 1. -/
def sealed_ : SealRec := ⟨5, 0x3F000, 4096, 1, false, []⟩
def Wseal (k2 : DWord) (seals : Tbl SealRec) (gr : Grade) : State :=
  { world { small with k := Cells.set (Cells.set [] 2 k2) 3 4096#64, grade := gr } with tiles := [(5, tile .open_)], seals := seals }
def sealAddr : DWord := 5#64 <<< 18 ||| 0x3F000#64

theorem meets_Seals : (Wseal sealAddr [] .off).Issues 2 always (at_ (Wseal sealAddr [] .off) 2 always) ∧
    ((at_ (Wseal sealAddr [] .off) 2 always).g.rdK 3).toNat = 4096 ∧
    (Wseal sealAddr [] .off).polderOp 0 sealAddr 4096 = .ok (5, 0x3F000) ∧ 0x3F000 % 4096 = 0 ∧
    (at_ (Wseal sealAddr [] .off) 2 always).Commits (committed (at_ (Wseal sealAddr [] .off) 2 always)) ∧
    (at_ (Wseal sealAddr [] .off) 2 always).sealAt 2#6 = .ok (5, none) ∧
    (at_ (Wseal sealAddr [] .off) 2 always).Room 0 ∧
    (at_ (Wseal sealAddr [(5, sealed_)] .off) 2 always).sealAt 2#6 = .ok (5, some sealed_) ∧
    (at_ (Wseal sealAddr [(5, sealed_)] .off) 2 always).Commits (committed (at_ (Wseal sealAddr [(5, sealed_)] .off) 2 always)) ∧
    ((at_ (Wseal sealAddr [(5, sealed_)] .off) 2 always).g.drops.filter (fun d => d.1 == 5 && d.2 == sealed_.off)).length <
      sealed_.count ∧
    (at_ (Wseal sealAddr [(5, { sealed_ with count := 0 })] .off) 2 always).sealAt 2#6 = .ok (5, some { sealed_ with count := 0 }) ∧
    (at_ (Wseal sealAddr [(5, sealed_)] .step) 2 always).g.grade ≠ .off ∧
    (at_ (Wseal sealAddr [(5, sealed_)] .step) 2 always).g.drops.length < 16 ∧
    (at_ (Wseal sealAddr [(5, sealed_)] .step) 2 always).Room 0 :=
  ⟨issues_of (by decide), by decide, ok_eq (by decide), by decide, commits_of (by decide), ok_eq (by decide),
    room_of (by decide), ok_eq (by decide), commits_of (by decide), by decide, ok_eq (by decide), by decide, by decide,
    room_of (by decide)⟩

/-- A pool of two records in the context, a header at 0x1024, k2 the target. -/
def ctxWith (f : Ctx → Ctx) (s : State) : State := { s with ctxs := [(0, f loadCtx)] }
def Wpool : State :=
  ctxWith (fun c => { c with pool := { c.pool with free0 := 2, size := 2, high := 2, low := 0 } })
    { world { small with k := [(2, 0x1024#64)] } with mem := header [] 0x1024 }

theorem meets_Spawns : Wpool.Issues 2 always (at_ Wpool 2 always) ∧ Wpool.Issues 3 always (at_ Wpool 3 always) ∧
    (∃ ls, (at_ Wpool 2 always).g.locRun 0 16 = .ok ls) ∧ (at_ Wpool 2 always).ex ≠ 0#32 ∧
    (at_ Wpool 2 ⟨63#6, true⟩).ex = 0#32 ∧ (at_ Wpool 2 ⟨63#6, true⟩).Room 0 ∧ Wpool.isHeader 0 0x1024#57 = .ok true ∧
    (Wpool.depthFirst 0 && (at_ Wpool 2 always).g.spawnHold) = false ∧
    (at_ Wpool 2 always).Commits (committed (at_ Wpool 2 always)) ∧
    (committed (at_ Wpool 2 always)).s.grids.get 1 = some loadGrid :=
  ⟨issues_of (by decide), issues_of (by decide), ok_of (by decide), by decide, by decide, room_of (by decide), rfl, by decide,
    commits_of (by decide), rfl⟩

/-- Events 1 (fired), 2 (pending) and 65535 (with a waiter); k2 the name. -/
def waiter : Rec := ⟨1, 0x1024#57, .team, 0, 64, 0, 0, [], 2, 0⟩
def Wev (k2 : DWord) : State :=
  ctxWith (fun c => { c with events := [(1, ⟨true, false, []⟩), (2, ⟨false, false, []⟩), (65535, ⟨false, false, [waiter]⟩)] })
    (world { small with k := [(2, k2)] })

theorem meets_Events : (Wev 2#64).Issues 2 always (at_ (Wev 2#64) 2 always) ∧ (at_ (Wev 2#64) 2 always).ex ≠ 0#32 ∧
    ((at_ (Wev 2#64) 2 always).s.ctxs.get 0).isSome = true ∧ (at_ (Wev 2#64) 2 always).Room 24 ∧
    (∃ cx, (Wev 2#64).ctxs.get 0 = some cx ∧ cx.events.get 3 = none ∧
      (∀ m, 1 ≤ m → m < 3 → (cx.events.get m).isSome = true) ∧ cx.events.get 65535 = some ⟨false, false, [waiter]⟩ ∧
      cx.events.get 1 = some ⟨true, false, []⟩ ∧ cx.events.get 2 = some ⟨false, false, []⟩) ∧
    (at_ (Wev 2#64) 2 always).Commits (committed (at_ (Wev 2#64) 2 always)) ∧
    (∃ c1x, (committed (at_ (Wev 2#64) 2 always)).s.ctxs.get 0 = some c1x ∧ c1x.events.get 2 = some ⟨false, false, []⟩ ∧
      c1x.events.get 1 = some ⟨true, false, []⟩) :=
  ⟨issues_of (by decide), by decide, rfl, room_of (by decide),
    ⟨_, rfl, rfl, fun m h1 h2 => (by rcases (by omega : m = 1 ∨ m = 2) with rfl | rfl <;> rfl), rfl, rfl, rfl⟩,
    commits_of (by decide), ⟨_, rfl, rfl, rfl⟩⟩

/-- A task record at 0x8000 with COUNT in its low word. -/
def Wtask (count : Nat) : State :=
  { world { small with k := [(2, 0x8000#64)] } with mem := Cells.writeN [] 0x8000 4 count }

theorem meets_Waits : (Wev 1#64).Issues 2 always (at_ (Wev 1#64) 2 always) ∧ (at_ (Wev 1#64) 2 always).g.inHandler = false ∧
    (∃ ls, (at_ (Wev 1#64) 2 always).g.locRun 0 2 = .ok ls) ∧
    (at_ (Wev 1#64) 2 always).Commits (committed (at_ (Wev 1#64) 2 always)) ∧
    (Wtask 0).Issues 2 always (at_ (Wtask 0) 2 always) ∧ (at_ (Wtask 0) 2 always).taskSpace 0x8000#64 = .ok .global ∧
    (∃ accs, (at_ (Wtask 0) 2 always).accessKIn tableOrder .global .atomic 0x8000#64 32 = .ok accs ∧
      ((Wtask 0).taskSound 0 (accs.flatMap (·.places)) &&
        decide (((at_ (Wtask 0) 2 always).released (accs.flatMap (·.places))).taskCount (accs.flatMap (·.places)) = 0)) = true) ∧
    (∃ v, (at_ (Wtask 2) 2 always).g.src64 (.k 2#6) = .ok v ∧
      ∃ accs, (at_ (Wtask 2) 2 always).access .global .atomic (at_ (Wtask 2) 2 always).ex v 32 = .ok accs ∧
        accs.all (fun x => (Wtask 2).taskSound 0 x.places) = true) ∧
    (at_ (Wtask 2) 2 always).Commits (committed (at_ (Wtask 2) 2 always)) :=
  ⟨issues_of (by decide +kernel), rfl, ok_of (by decide +kernel), commits_of (by decide +kernel), issues_of (by decide +kernel), rfl, ok_with (by decide +kernel),
    ⟨_, rfl, ok_with (by decide +kernel)⟩, commits_of (by decide +kernel)⟩

/-- A task record on which a record waits, its WAITERS holding the device's word; a COUNT above zero that EVWAIT finds. -/
theorem meets_Waits_count :
    (∃ accs, (at_ (Wtask 2) 2 always).accessKIn tableOrder .global .atomic 0x8000#64 32 = .ok accs ∧
      (((at_ (Wtask 2) 2 always).released (accs.flatMap (·.places))).taskSound 0 (accs.flatMap (·.places)) &&
        decide (((at_ (Wtask 2) 2 always).released (accs.flatMap (·.places))).taskCount (accs.flatMap (·.places)) = 2) &&
        decide ((accs.flatMap (·.places)).length = 32) && (accs.flatMap (·.places)).all isGlob &&
        distinct 0 ((accs.flatMap (·.places)).map globAddr)) = true) ∧
    (∃ cx e, (Wev 2#64).ctxs.get 0 = some cx ∧ cx.events.get 2 = some e ∧ e.fired = false) ∧
    (∃ cx e, (Wev 1#64).ctxs.get 0 = some cx ∧ cx.events.get 1 = some e ∧ e.fired = true) ∧
    (at_ (Wtask 0) 2 ⟨63#6, true⟩).ex = 0#32 ∧ (at_ (Wtask 0) 2 ⟨63#6, true⟩).Room 0 ∧
    (at_ (Wtask 0) 2 ⟨63#6, true⟩).g.inHandler = false :=
  ⟨ok_with (by decide +kernel), ⟨_, _, rfl, rfl, rfl⟩, ⟨_, _, rfl, rfl, rfl⟩, by decide, room_of (by decide), rfl⟩

def taskPlaces : List Place := (List.range 32).map (fun i => .glob (0x8000 + i))

/-- TaskDecrements at COUNT 0, 1 and 2. -/
theorem meets_TaskDecrements : 4 ≤ taskPlaces.length ∧ taskPlaces.Nodup ∧ (Wtask 0).taskCount taskPlaces = 0 ∧
    1 < (Wtask 2).taskCount taskPlaces ∧ (Wtask 1).taskCount taskPlaces = 1 ∧
    (Wtask 1).taskWait 0 (taskPlace taskPlaces) = none ∧
    (ctxWith (fun c => { c with taskWaits := [⟨taskPlace taskPlaces, 7#64, [waiter]⟩] }) (Wtask 1)).taskWait 0
      (taskPlace taskPlaces) = some ⟨taskPlace taskPlaces, 7#64, [waiter]⟩ := by decide +kernel

/-- GROW to the budget held, within the quadrant, beyond the limit, and with the quadrant full. -/
def Wfull : State :=
  { W with groups := [(3, loadGroup), (4, { loadGroup with slot := 1, regs := 256 }), (5, { loadGroup with slot := 2, regs := 256 }),
      (6, { loadGroup with slot := 3, regs := 256 }), (7, { loadGroup with slot := 4, regs := 256 }),
      (8, { loadGroup with slot := 5, regs := 256 }), (9, { loadGroup with slot := 6, regs := 256 }),
      (10, { loadGroup with slot := 7, regs := 448 })] }

theorem meets_BarriersAndBudgets : W.Issues 1 always (at_ W 1 always) ∧ (at_ W 1 always).ex ≠ 0#32 ∧
    (at_ W 1 always).g.inHandler = false ∧ (at_ W 1 always).g.sat &&& (at_ W 1 always).g.satarm = 0#8 ∧
    (at_ W 1 always).Commits (committed (at_ W 1 always)) ∧ W.Issues 2 always (at_ W 2 always) ∧
    (at_ W 2 always).g.growFail ≠ some (at_ W 2 always).sn ∧ (at_ W 2 always).g.grants = [] ∧ (at_ W 2 always).Room 32 ∧
    16 * ((3#4).toNat + 1) ≤ (at_ W 2 always).g.regs ∧ (at_ W 2 always).g.regs < 16 * ((4#4).toNat + 1) ∧
    16 * ((15#4).toNat + 1) ≤ (at_ W 2 always).g.regLimit ∧ (∀ r ∈ W.growQ, r.quad ≠ (at_ W 2 always).g.quad) ∧
    16 * ((15#4).toNat + 1) - (at_ W 2 always).g.regs ≤ W.quadFree (at_ W 2 always).g.quad ∧
    (let s : State := world { loadGroup with window := true }
     (at_ s 2 always).g.regLimit < 16 * ((15#4).toNat + 1) ∧ s.Issues 2 always (at_ s 2 always)) ∧
    Wfull.Issues 2 always (at_ Wfull 2 always) ∧ Wfull.quadFree (at_ Wfull 2 always).g.quad < 16 * ((15#4).toNat + 1) - 64 ∧
    W.Issues 3 always (at_ W 3 always) ∧ (at_ W 1 always).Room 0 :=
  ⟨issues_of (by decide), by decide, rfl, by decide, commits_of (by decide), issues_of (by decide), by decide, rfl,
    room_of (by decide), by decide, by decide, by decide, by decide, by decide, ⟨by decide, issues_of (by decide)⟩,
    issues_of (by decide), by decide, issues_of (by decide), room_of (by decide)⟩

/-- A launch record at 0x8000: entry 0x1000, one cluster of one core, one group of 32 lanes, 64 registers, BINT 256. -/
def recordMem : Cells 8 :=
  Cells.writeN (Cells.writeN (Cells.writeN (Cells.writeN (Cells.writeN [] 0x8000 8 0x1000) 0x8008 4 1) 0x800C 4 0x20010101)
    0x8010 2 64) 0x801E 2 256
def Wlaunch (k2 : DWord) (m : Mode) : State :=
  ctxWith (fun c => { c with rings := [0] }) { world { small with k := [(2, k2)], mode := m } with mem := recordMem }

theorem meets_GridLaunches : (Wlaunch 0x8000#64 .system).Issues 2 always (at_ (Wlaunch 0x8000#64 .system) 2 always) ∧
    (at_ (Wlaunch 0x8000#64 .system) 2 always).g.mode = .system ∧ (at_ (Wlaunch 0x8000#64 .user) 2 always).g.mode ≠ .system ∧
    (at_ (Wlaunch 0x8000#64 .system) 2 always).ex ≠ 0#32 ∧
    (at_ (Wlaunch 0x8000#64 .system) 2 always).Commits (committed (at_ (Wlaunch 0x8000#64 .system) 2 always)) ∧
    2 ^ 32 ≤ (2 ^ 32 : Nat) ∧ (0xFFFF#64 : DWord).toNat < 2 ^ 32 ∧ (Wlaunch 0x8000#64 .system).ctxs.get 0xFFFF = none ∧
    ((Wlaunch 0x8000#64 .system).ctxs.get 0).isSome = true ∧ (0x8001#64 : DWord).toNat % 256 ≠ 0 ∧
    (((Wlaunch 0x8000#64 .system).launchAt 0 0x8000#64).elim false (fun x =>
      decide ((Wlaunch 0x8000#64 .system).hostReason 0 0 0x8000#64 x.1 x.2 = none) &&
        decide ((Wlaunch 0x8000#64 .system).hostReason 0 0 0x8040#64 x.1 x.2 = some 1))) = true ∧
    (Wlaunch 0x8000#64 .system).childQueue 0 < 64 :=
  ⟨issues_of (by decide +kernel), rfl, by decide +kernel, by decide +kernel, commits_of (by decide +kernel), by decide +kernel, by decide +kernel, rfl, rfl, by decide +kernel,
    by decide +kernel, by decide +kernel⟩

/-- Successors: GRIDL with a good record and with one whose first words are zero; a grid whose predecessor runs. -/
def Wpred : State := { world small with grids := [(1, { loadGrid with pred := some 7 }), (7, loadGrid)] }

theorem meets_Successors :
    (∃ l, (at_ (Wlaunch 0x8000#64 .user) 2 always).launchRecord 0x8000#64 = .ok l ∧
      decide (l.1.reason 0x8000#64 l.2 0x10000 ((Wlaunch 0x8000#64 .user).fitsDie 1 1) = none ∧ l.1.cw = 1 ∧ l.1.ch = 1) = true) ∧
    (∃ l, (at_ (Wlaunch 0x8100#64 .user) 2 always).launchRecord 0x8100#64 = .ok l ∧
      (l.1.reason 0x8100#64 l.2 0x10000 true).isSome = true) ∧
    Wpred.Issues 1 always (at_ Wpred 1 always) ∧ (at_ Wpred 1 always).g.inHandler = false ∧
    (Wpred.grids.get 1).elim false (fun gr => !Wpred.predEnded gr) = true ∧
    (W.grids.get 1).elim false (fun gr => W.predEnded gr) = true ∧
    ((committed (at_ Wpred 1 always)).s.ctxs.get 0).isSome = true ∧ (at_ Wpred 1 always).Commits (committed (at_ Wpred 1 always)) :=
  ⟨ok_with (by decide +kernel), ok_with (by decide +kernel), issues_of (by decide +kernel), rfl, by decide +kernel, by decide +kernel, rfl, commits_of (by decide +kernel)⟩

theorem meets_Messages : W.Issues 2 always (at_ W 2 always) ∧ (∃ ls, (at_ W 2 always).g.locRun 48 16 = .ok ls) ∧
    (at_ W 2 always).ex ≠ 0#32 ∧ (∃ g0, (at_ W 2 always).g.raiseFlags ((at_ W 2 always).flagsOf ⟨true, false⟩) = .ok g0) ∧
    (at_ W 2 always).Commits (committed (at_ W 2 always)) ∧
    (∃ g1, (committed (at_ W 2 always)).g.raiseFlags ((at_ W 2 always).flagsOf ⟨true, false⟩) = .ok g1) ∧
    (∀ x ∈ (committed (at_ W 2 always)).s.txSeq, x.2 < 2 ^ 64) :=
  ⟨issues_of (by decide), ok_of (by decide), by decide, ok_of (by decide), commits_of (by decide), ok_of (by decide), by decide⟩

/-- Stream 7: free, open with a closed batch, closing with one outstanding. -/
def Wcb (x : List (Nat × Stream)) : State := ctxWith (fun c => { c with streams := x }) (world small)
def openStream : Stream := ⟨.open_, 0, [⟨3#32, [9#32], [1#32, 2#32]⟩], [⟨2#32, [7#32, 8#32], [4#32]⟩], [1#32], 4#32⟩

theorem meets_ConflictBatches : (Wcb []).Issues 2 always (at_ (Wcb []) 2 always) ∧ (at_ (Wcb []) 2 always).ex ≠ 0#32 ∧
    (at_ (Wcb []) 2 always).Commits (committed (at_ (Wcb []) 2 always)) ∧
    (Wcb []).stream 0 7 = (committed (at_ (Wcb []) 2 always)).s.stream 0 7 ∧ ((Wcb []).stream 0 7).state = .free ∧
    (Wcb [(7, openStream)]).stream 0 7 = openStream ∧
    (committed (at_ (Wcb [(7, openStream)]) 2 always)).s.stream 0 7 = openStream ∧
    ((Wcb [(7, { openStream with state := .closing })]).stream 0 7).state = .closing ∧
    (∃ la, (at_ (Wcb []) 2 always).g.loc 0 = .ok la) ∧ (∃ lb, (at_ (Wcb []) 2 always).g.locRun 60 4 = .ok lb) ∧
    openStream.outstanding.length < 8 ∧ ([7#32, 8#32] : List Word).length ≤ (lanesOf (at_ (Wcb []) 2 always).ex).length :=
  ⟨issues_of (by decide), by decide, commits_of (by decide), rfl, rfl, rfl, rfl, rfl, ⟨_, rfl⟩, ok_of (by decide), by decide,
    by decide⟩

theorem meets_PreciseFaults : W.ctxs.get loadGroup.ctx = some loadCtx ∧ loadCtx.faults.length < loadCtx.faultCap ∧ W.failed = [] ∧
    (let full : Ctx := { loadCtx with faultCap := 0 }
     (ctxWith (fun _ => full) W).ctxs.get loadGroup.ctx = some full ∧ full.faultCap ≤ full.faults.length) :=
  ⟨rfl, by decide, rfl, rfl, by decide⟩

/-- Handlers at 0x1024; the emulation handler of the launch. -/
def Whand (k : HandlerKind) (m : Mode) : State :=
  { world { small with frames := [frame k], mode := m, clause := some ⟨0x1000#57, none, none, 2, false⟩ } with
    mem := header [] 0x1024, grids := [(1, { loadGrid with emuh := 0x1024#64 })] }
def Wemu : State := { world small with mem := header [] 0x1024, grids := [(1, { loadGrid with emuh := 0x1024#64 })] }

theorem meets_HandlerEntry : Wemu.isHeader small.ctx 0x1024#57 = .ok true ∧ small.hsp.toNat + 24 ≤ small.hlim.toNat :=
  ⟨rfl, by decide⟩

theorem meets_TrapsAndBreakpoints : W.Issues 2 always (at_ W 2 always) ∧ (at_ W 2 always).ex ≠ 0#32 ∧
    (at_ W 2 ⟨63#6, true⟩).ex = 0#32 ∧ (at_ W 2 always).Commits (committed (at_ W 2 always)) ∧
    W.Issues (((0x3FD#32 : Word).extractLsb' 0 2).toNat + 1) always (at_ W 2 always) ∧
    W.handlerFor (at_ W 2 always).g .emulation = none ∧
    Wemu.Issues 2 always (at_ Wemu 2 always) ∧ Wemu.handlerFor (at_ Wemu 2 always).g .emulation = some 0x1024#57 ∧
    (at_ Wemu 2 always).g.mode ≠ .monitor ∧ (at_ Wemu 2 always).g.frames.length < 2 ∧
    2 ≤ (at_ (world { small with frames := [frame .emulation, frame .saturation] }) 2 always).g.frames.length ∧
    W.Issues 1 always (at_ W 1 always) ∧ (at_ W 1 always).Room 0 ∧ W.attached 0 = false ∧
    (ctxWith (fun c => { c with dbg := { c.dbg with attached := true } }) W).attached 0 = true :=
  ⟨issues_of (by decide), by decide, by decide, commits_of (by decide), issues_of (by decide), rfl, issues_of (by decide), rfl,
    by decide, by decide, by decide, issues_of (by decide), room_of (by decide), rfl, rfl⟩

theorem meets_Returns (k : HandlerKind) : (Whand k .user).Issues 1 always (at_ (Whand k .user) 1 always) ∧
    (at_ (Whand k .user) 1 always).g.frames = frame k :: [] ∧ (at_ (Whand k .user) 1 always).Room 48 ∧
    ((at_ (Whand k .user) 1 always).g.ic + 1#48 - (at_ (Whand k .user) 1 always).g.cmark).toNat < 2 ^ 32 ∧
    ((at_ (Whand k .user) 1 always).g.rdK 60).setWidth 57 ≠ (frame k).at_ ∧ (frame k).committed = false ∧
    (at_ (world small) 1 always).g.frames = [] ∧ (at_ (world small) 1 always).g.mode ≠ .system := by
  cases k <;> exact ⟨issues_of (by decide), rfl, room_of (by decide), by decide, by decide, rfl, rfl, by decide⟩

/-- EMURET to the emulated instruction (w4 its address) and to another header. -/
def Wemret (w4 : DWord) : State :=
  { Whand .emulation .user with groups := [(3, { small with frames := [{ frame .emulation with winW := [(4, w4)] }] })] }

theorem meets_Returns_emuret : ((at_ (Wemret 0x1004#64) 1 always).g.rdK 60).setWidth 57 = (frame .emulation).at_ ∧
    ((at_ (Wemret 0x1024#64) 1 always).g.rdK 60).setWidth 57 ≠ (frame .emulation).at_ ∧
    (Wemret 0x1024#64).isHeader 0 (((at_ (Wemret 0x1024#64) 1 always).g.rdK 60).setWidth 57) = .ok true := by
  refine ⟨by decide, by decide, rfl⟩

/-- A group at a boundary. -/
def idle : Group := { small with clause := none }

/-- The issuing group in system mode and another group, which k2 names. -/
def Wtwo (x : Group) (k2 : DWord) : State :=
  { W with groups := [(3, { small with mode := .system, k := Cells.set [] 2 k2 }), (4, { x with slot := 1 })] }

theorem meets_OtherGroups : (Wtwo idle 0x100#64).Issues 2 always (at_ (Wtwo idle 0x100#64) 2 always) ∧
    (at_ (Wtwo idle 0x100#64) 2 always).g.mode ≠ .user ∧ (at_ W 2 always).g.mode = .user ∧
    (at_ (Wtwo idle 0x100#64) 2 always).ex ≠ 0#32 ∧
    ((Wtwo idle 0x100#64).locate (at_ (Wtwo idle 0x100#64) 2 always).monitor 0x100#64 = .ok (4, { idle with slot := 1 })) ∧
    ({ idle with slot := 1 } : Group).actable = true ∧
    (∃ st, (Wtwo idle 0x700#64).locate (at_ (Wtwo idle 0x700#64) 2 always).monitor 0x700#64 = .error st) ∧
    (at_ (Wtwo idle 0x100#64) 2 always).Commits (committed (at_ (Wtwo idle 0x100#64) 2 always)) ∧
    (Wtwo idle 0x100#64).memwOpen 4 = false ∧
    (committed (at_ (Wtwo idle 0x100#64) 2 always)).s.groups.get 4 = some { idle with slot := 1 } ∧
    ((committed (at_ (Wtwo idle 0x100#64) 2 always)).s.editGroup 4 { idle with slot := 1 } 0x10#64 7#64).isSome = true ∧
    ((committed (at_ (Wtwo idle 0x100#64) 2 always)).s.editGroup 4 { idle with slot := 1 } 0xF#64 7#64) = none ∧
    ({ loadGroup with slot := 1, ic := 5#48 } : Group).landing 3#64 = some (3#48, false) ∧
    ({ loadGroup with slot := 1, ic := 5#48 } : Group).landing 6#64 = none ∧
    (Wtwo { loadGroup with ic := 5#48 } 0x100#64).mayReverse 4 { loadGroup with slot := 1, ic := 5#48 } = true ∧
    ({ small with frames := [frame .emulation] } : Group).inHandler = true := by
  refine ⟨issues_of (by decide), by decide, rfl, by decide, rfl, rfl, ⟨_, rfl⟩, commits_of (by decide), by decide, rfl,
    by decide, by decide, by decide, by decide, by decide, rfl⟩

theorem meets_GroupEdits : (Wtwo { small with ic := 1#48 } 0#64).groups.get 4 = some { small with ic := 1#48, slot := 1 } ∧
    ({ small with ic := 1#48, slot := 1 } : Group).drops = [] ∧ ({ small with ic := 1#48, slot := 1 } : Group).frames = [] ∧
    ((Wtwo { small with ic := 1#48 } 0#64).core 0).wcb = [] ∧ (∀ c ∈ (Wtwo small 0#64).cores, c.2.invals = []) ∧
    0#48 < ({ small with ic := 1#48, slot := 1 } : Group).ic ∧ 63 < small.regs := by
  refine ⟨rfl, rfl, rfl, rfl, by decide, by decide, by decide⟩

/-! The engines' own steps and those from outside. -/

/-- A group between clauses: split 0 at the header 0x1024, split 1 in a clause; a deadlocked one; one at a parcel that is no
header. -/
def Wstart (sp : Tbl Split) : State :=
  { world { small with clause := none, splits := sp } with
    mem := header (Cells.writeN (header [] 0x1024) 0x1028 4 0x00000218) 0x102C }
def atHeader : Split := initialSplit 0x1024#57 1#32
def midClause_ : Split := { initialSplit 0x2000#57 2#32 with mid := some ⟨0x1FF0#57, none, none, 2, false⟩ }

theorem meets_ClauseStarts :
    (∃ g, (Wstart [(0, atHeader)]).groups.get 3 = some g ∧ (Wstart [(0, atHeader)]).mayStartClause g = true ∧ g.abortDue = [] ∧
      g.deadlocked = false ∧ (((Wstart [(0, atHeader)]).boundary g).elim false (fun b => decide (b.g.splits.get b.starts = some atHeader) &&
        (match (Wstart [(0, atHeader)]).clauseCheck 0 0x1024#57 with
          | .ok (h, _) => decide (h.ver < 2)
          | .error _ => false) && g.fits (entriesSize b.entries) && (g.splits.get b.chosen).isSome)) = true) ∧
    (∃ g, (Wstart [(1, midClause_)]).groups.get 3 = some g ∧ (Wstart [(1, midClause_)]).mayStartClause g = true ∧
      (((Wstart [(1, midClause_)]).boundary g).elim false (fun b => decide (b.g.splits.get b.starts = some midClause_) &&
        g.fits (entriesSize b.entries))) = true) ∧
    (match (Wstart []).clauseCheck 0 0x1028#57 with
      | .ok _ => false
      | .error _ => true) = true ∧
    (∃ g, (Wstart [(0, { atHeader with wait := .conv 0x1000#57 }), (1, { midClause_ with wait := .bar 0x1010#57 })]).groups.get 3 =
      some g ∧ g.deadlocked = true) ∧
    ([0, 2, 3] : List Nat).Pairwise (· < ·) ∧ (0 : Nat) ∈ ([0, 2, 3] : List Nat) ∧ (1 : Nat) ∉ ([0, 2, 3] : List Nat) := by
  refine ⟨⟨_, rfl, ?_⟩, ⟨_, rfl, ?_⟩, ?_, ⟨_, rfl, ?_⟩, ?_⟩ <;> decide +kernel

/-- All splits at one reconvergence; all groups of the team at a barrier; a budget that waits. -/
def Wconv : State :=
  world { small with clause := none, splits := [(0, { initialSplit 0x1008#57 1#32 with wait := .conv 0x1004#57 }),
    (1, { initialSplit 0x1008#57 2#32 with wait := .conv 0x1004#57 })] }
def Wbar : State := world { small with clause := none, splits := [(0, { initialSplit 0x1008#57 3#32 with wait := .bar 0x1004#57 })] }
def Wgrow : State :=
  { world { small with splits := [(0, { initialSplit 0x1004#57 3#32 with wait := .grow, mid := small.clause })], clause := none } with
    growQ := [⟨0, 3, 0, 128⟩] }
/-- The quadrant full, so that the core has no group that can go on. -/
def WgrowFull : State :=
  { Wgrow with groups := Wgrow.groups ++ ((List.range 7).map (fun i =>
      (4 + i, { small with slot := 1 + i, regs := (if i = 6 then 448 else 256), clause := none, splits := [(0, { initialSplit 0x1008#57 3#32 with wait := .bar 0x1004#57 })] }))) }

theorem meets_LaneEngineSteps :
    (∃ g, Wconv.groups.get 3 = some g ∧ g.common = some (.conv 0x1004#57)) ∧
    (∃ tm, Wbar.teams.get 2 = some tm ∧ Wbar.barReady 2 = true) ∧ (Wgrow.growGrantable (4 * 0 + 0)).isSome = true ∧
    ((WgrowFull.growVictim 0).elim false (fun r => (WgrowFull.groups.get r.gid).isSome)) = true ∧
    (∃ g, (world { idle with haltReq := true }).groups.get 3 = some g ∧ g.haltReq = true ∧ g.clause = none ∧ g.frames = [] ∧
      g.dir = false) := by
  refine ⟨⟨_, rfl, ?_⟩, ⟨_, rfl, ?_⟩, ?_, ?_, ⟨_, rfl, rfl, rfl, rfl, rfl⟩⟩ <;> decide +kernel

/-- Pending work of every kind; a line in the write-combining buffer, a fill and an invalidation due. -/
def Wpend (p : Pending) : State := { Wmem with pend := [(9, p)], engine := [] }
def movedRed : MovedAtomic := ⟨⟨false, .global, .device, .relaxed⟩, some .add, [⟨0, 0x8000#64, 1, 0⟩], []⟩
def Wcache : State :=
  { Wmem with cores := [(0, { Core.empty with wcb := [⟨256, [(0x8000, ⟨7#8, 3, [3]⟩), (0x8001, ⟨9#8, 3, [3]⟩)]⟩], fills := [300], invals := [301] })] }

theorem meets_MemoryEngineSteps : (Wcache.core 0).wline 256 = some ⟨256, [(0x8000, ⟨7#8, 3, [3]⟩), (0x8001, ⟨9#8, 3, [3]⟩)]⟩ ∧
    Wcache.storageWf = true ∧ (Wcache.core 0).fills.contains 300 = true ∧ (Wcache.core 0).invals.contains 301 = true ∧
    (Wpend (.load 3 0 1#32 [⟨.own 3, 0, 5#32⟩] [])).pend.get 9 = some (.load 3 0 1#32 [⟨.own 3, 0, 5#32⟩] []) ∧
    (Wpend (.load 3 0 0#32 [] [(2, 5#64)])).pend.get 9 = some (.load 3 0 0#32 [] [(2, 5#64)]) ∧
    (Wpend (.atomic 3 0 1#32 [⟨.own 3, 0, 5#32⟩] [1])).pend.get 9 = some (.atomic 3 0 1#32 [⟨.own 3, 0, 5#32⟩] [1]) ∧
    (Wpend (.store 3 [1, 1])).pend.get 9 = some (.store 3 [1, 1]) ∧ (Wpend (.pref 3 [11])).pend.get 9 = some (.pref 3 [11]) ∧
    (Wpend (.moved 3 0 movedRed [])).pend.get 9 = some (.moved 3 0 movedRed []) ∧
    (∃ g, (Wpend (.moved 3 0 movedRed [])).groups.get 3 = some g ∧
      ((Wpend (.moved 3 0 movedRed [])).reissueAcc g movedRed).isSome = true) := by
  refine ⟨rfl, by decide, by decide, by decide, rfl, rfl, rfl, rfl, rfl, rfl, ⟨_, rfl, ?_⟩⟩
  decide


/-- A matrix operation due, a sweep of a seal and of a release, a copy whose pages are there, missing, or read only. -/
def matOp : MatOp := ⟨3, 2, 7, [(0, 1#32), (4095, 2#32)], true⟩
def copyTo (dst : Nat) (paused : Bool) : Copy :=
  { gid := 3, ctx := 0, team := 2, grid := 1, core := 0, user := true, pairs := [(.va 0x8000, .va dst)], rows := 16, cols := 1,
    srcL := .raw, dstL := .raw, esize := 8, trans := false, fill := false, flags := [], event := 0, scope := .team, cluster := 0,
    locks := [⟨.va 0x8000, 16, false⟩, ⟨.va dst, 16, true⟩], desc := [], paused := paused, done := 0 }
def Wcopy (dst : Nat) (paused : Bool) : State :=
  ctxWith (fun c => { c with pages := c.pages ++ [⟨0x10000, .k64, .global 0x10000, true, false, none⟩] })
    { Wmem with copies := [(9, copyTo dst paused)], sweeps := [(6, .release 3 5 none), (7, .seal 3), (8, .register 9)],
                tiles := [(5, tile .open_)], cores := [(0, { Core.empty with mq := [matOp] })] }
def copyCause (dst : Nat) : Option Cause :=
  ((Wcopy dst false).copyRun (copyTo dst false) ((copyTo dst false).moves.drop 0)).2.2

theorem meets_EngineCompletions : ((Wcopy 0x9000 false).core 0).mq = [matOp] ∧
    (Wcopy 0x9000 false).teams.get 2 = some loadTeam ∧ (Wcopy 0x9000 false).sweeps.get 7 = some (.seal 3) ∧
    (Wcopy 0x9000 false).sweeps.get 6 = some (.release 3 5 none) ∧ (Wcopy 0x9000 false).tileLocked 5 = false ∧
    (Wcopy 0x9000 false).tiles.get 5 = some (tile .open_) ∧ (tile .open_).state ≠ .negotiated ∧
    (Wcopy 0x9000 false).sweeps.get 8 = some (.register 9) ∧ (Wcopy 0x9000 false).copies.get 9 = some (copyTo 0x9000 false) ∧
    (Wcopy 0x9000 false).switched 0 = false ∧ copyCause 0x9000 = none ∧ copyCause 0x800000 = some 0x0302#16 ∧
    (copyCause 0x10000).isSome = true ∧ copyCause 0x10000 ≠ some 0x0302#16 ∧
    (Wcopy 0x9000 true).copies.get 9 = some (copyTo 0x9000 true) ∧ (copyTo 0x9000 true).paused = true := by
  refine ⟨rfl, rfl, rfl, rfl, ?_, rfl, ?_, rfl, rfl, ?_, ?_, ?_, ?_, ?_, rfl, rfl⟩ <;> decide +kernel

/-- A group that has used its routine's budget. -/

theorem meets_SurrenderSteps_overrun :
    (let g : Group := { idle with frames := [{ frame .surrender with used := 9 }] }
     (world g).groups.get 3 = some g ∧ g.frames.getLast? = some { frame .surrender with used := 9 } ∧
      ({ frame .surrender with used := 9 } : HFrame).budget ≤ 9 ∧ (world g).memwOpen 3 = false ∧ g.runs = true ∧
      (world g).tileSweeping 5 = false) := by
  refine ⟨rfl, rfl, ?_, ?_, rfl, ?_⟩ <;> decide +kernel

/-- Writes of each kind in STEP grade. -/
theorem meets_RecordedWritesUndo : loadGroup.recGrade = .step ∧ loadGroup.frames = [] ∧ (1#32 : Mask) ≠ 0#32 ∧
    (world (loadGroup.setV (.own 63) 1#32 (fun _ => 7#32) false)).groups.get 3 =
      some (loadGroup.setV (.own 63) 1#32 (fun _ => 7#32) false) ∧
    (world (loadGroup.setK 1#32 63 7#64 false)).groups.get 3 = some (loadGroup.setK 1#32 63 7#64 false) ∧
    (world (loadGroup.setP 1#32 62 1#32 false)).groups.get 3 = some (loadGroup.setP 1#32 62 1#32 false) :=
  ⟨rfl, rfl, by decide, rfl, rfl, rfl⟩

/-- A walk that has come to its landing point. -/
def walk : Rev :=
  { target := 0#48, land := 0#48, rounded := false, info := some 5#64, marked := false, s := 0, pos := [], dst := some 2#6, revg := none,
    dbg := none, rollback := false, dmg := [], unwind := 0, fault := none, waiting := false }
def Wwalk : State := world { idle with grade := .step, dir := true, hist := { small.hist with rev := some walk } }

theorem meets_HistorySteps :
    (∃ g, Wwalk.groups.get 3 = some g ∧ g.hist.rev = some walk ∧ g.dir = true ∧ Wwalk.switched g.ctx = false ∧
      Wwalk.memwOpen 3 = false ∧ g.ic = walk.land ∧ g.frames = []) ∧
    (∀ p ∈ W.pend, p.2.group ≠ 3) ∧ (∀ m ∈ (W.core loadGroup.core).mq, m.gid ≠ 3) ∧
    (walk.fault = none) ∧ Damage.sound (.vreg 63 31) loadGroup = true ∧ Damage.sound .history loadGroup = true ∧
    loadGroup.grade ≠ .off ∧ small.grade = .off ∧ loadGroup.hist.rev = none ∧ W.ctxs.get loadGroup.ctx = some loadCtx ∧
    loadCtx.faults.length < loadCtx.faultCap := by
  refine ⟨⟨_, rfl, rfl, rfl, ?_, ?_, rfl, rfl⟩, ?_, ?_, rfl, ?_, ?_, ?_, rfl, rfl, rfl, ?_⟩ <;> decide +kernel

/-- A grid that waits with room on the core; a bin with records. -/
def Wgrid : State :=
  { State.loaded State.reset with grids := [(1, { loadGrid with started := [] })], groups := [], teams := [] }
def record : Rec := ⟨1, 0x1024#57, .team, 0, 64, 0, 0, [7#32], 2, 0⟩
def Wbin : State :=
  { W with groups := [], cores := [(0, { Core.empty with bins := [(0, ⟨1, 0x1024#57, .team, 0, List.replicate 32 record, false⟩)] })],
           mem := header [] 0x1024 }

theorem meets_TaskEngineSteps :
    (∃ g, Wgrid.grids.get 1 = some g ∧ Wgrid.nextCluster g = some 0 ∧ (Wgrid.rects 1 g).contains [0] = true ∧
      Wgrid.teamFits 1 g 0 = true ∧ 1 ≤ g.lrec.groups ∧ Wgrid.ctxs.get g.ctx = some loadCtx) ∧
    ((Wbin.core 0).bins.get 0).isSome = true ∧ Wbin.pickBin 0 = some 0 ∧
    ((Wbin.launchable 0 0).elim false (fun x => (Wbin.ctxs.get x.t.ctx).isSome)) = true ∧
    (let s : State := { W with groups := [] }
     (∃ tm g, s.teams.get 2 = some tm ∧ s.teamOver 2 = true ∧ s.grids.get tm.grid = some g)) ∧
    (∃ g, ({ W with groups := [], teams := [], grids := [(1, { loadGrid with ended := [0] })] } : State).grids.get 1 = some g ∧
      g.over = true ∧ g.join = none ∧ g.lrec.ltr = 0#64) := by
  refine ⟨⟨_, rfl, ?_, ?_, ?_, ?_, rfl⟩, ?_, ?_, ?_, ⟨_, _, rfl, ?_, rfl⟩, ⟨_, rfl, ?_, rfl, rfl⟩⟩ <;> decide +kernel

/-- A context without a request, one whose engines have all but one acknowledged, one in its image. -/
def six : List Slice := [⟨0, .lane⟩, ⟨0, .matrix⟩, ⟨0, .memory⟩, ⟨0, .copy⟩, ⟨0, .task⟩, ⟨0, .batcher⟩]
def Wpre (acked : List Slice) : State := ctxWith (fun c => { c with preempt := some acked }) (world idle)
def Wimg : State :=
  { ctxWith (fun c => { c with image := some ⟨[(3, idle)], [(2, loadTeam)], []⟩ }) W with groups := [], teams := [] }

theorem meets_ContextSwitches : W.ctxs.get 0 = some loadCtx ∧ loadCtx.preempt = none ∧ loadCtx.image = none ∧
    (Wpre []).mayAck 0 [] ⟨0, .lane⟩ = true ∧ (Wpre six).mayAck 0 six ⟨0, .history⟩ = true ∧ (∃ x, x ∈ loadCtx.acks ∧ x ∉ [] ++ [(⟨0, .lane⟩ : Slice)]) ∧
    (∀ x ∈ loadCtx.acks, x ∈ six ++ [⟨0, .history⟩]) ∧ (0 : Nat) ≠ bermKey ∧ W.storageWf = true ∧
    Wimg.hot = false ∧
    ((Wimg.ctxs.get 0).bind (·.image)).elim false (fun img =>
      Wimg.placesClusters img [(2, 0)] && !Wimg.placesClusters img [] &&
        (img.teams.foldlM (fun (x : State) m => x.restoreTeam 0 img [(2, 0)] m.1 m.2) Wimg).isSome) = true ∧
    W.grids.get 1 = some loadGrid ∧ loadGrid.join = none ∧ loadGrid.lrec.ltr = 0#64 := by
  refine ⟨rfl, rfl, rfl, ?_, ?_, ⟨⟨0, .matrix⟩, ?_, ?_⟩, ?_, ?_, ?_, ?_, ?_, rfl, rfl, rfl⟩ <;> decide +kernel

/-- A held tile that another team asks for: its holder at a boundary, and its holder's groups ended. -/
def Wask (gs : List (Nat × Group)) : State :=
  { world idle with
    tiles := [(5, { tile .negotiated with routine := ⟨0x1024#57, 9, 0⟩, queue := [request] })], mem := header [] 0x1024
    teams := [(2, loadTeam), (9, { loadTeam with teamNo := 1 })], groups := gs }

theorem meets_SurrenderSteps :
    (((Wask [(3, idle)]).surrReady 5).elim false (fun x => decide (x.2.2 = some (3, idle)) &&
      (match (Wask [(3, idle)]).isHeader idle.ctx x.1.routine.addr with
        | .ok b => b
        | .error _ => false) &&
      decide (idle.hsp.toNat + 24 ≤ idle.hlim.toNat))) = true ∧
    (((Wask [(4, { idle with team := 9 })]).surrReady 5).elim false (fun x => decide (x.2.2 = none))) = true := by
  refine ⟨?_, ?_⟩ <;> decide +kernel

/-- A peer's queue at 0x8000 of four elements of 64 bytes with a slot free, and a full one at 0x8040; a message held for the
first and one that this device has sent. -/
def Wpeer (held : List Held) : State :=
  { W with rxHeld := held, sent := [⟨⟨1, 0, 0x8000, 0, 5, 1, []⟩, 3, 0, [2], 0, 7⟩], rxSeq := [(1, 1)],
           mem := Cells.writeN (Cells.writeN (Cells.writeN (Cells.writeN (Cells.writeN (Cells.writeN (Cells.writeN (Cells.writeN []
             0x8000 8 0x9000) 0x8008 4 4) 0x800C 4 64) 0x8010 8 1) 0x8040 8 0x9000) 0x8048 4 4) 0x804C 4 64) 0x8050 8 4 }
def frameTo (block : Nat) : Frame := ⟨0, 1, block, 0, 9, 1, List.replicate 16 7#32⟩

theorem meets_PeerSteps :
    (((Wpeer []).peerQueue (frameTo 0x8000)).elim false (fun q => (Wpeer []).peerRoom q)) = true ∧
    (((Wpeer []).peerQueue (frameTo 0x8040)).elim false (fun q => !(Wpeer []).peerRoom q)) = true ∧
    (1, 9) ∉ (Wpeer []).rxSeq ∧ (frameTo 0x8000).dst = (Wpeer []).deviceNo ∧
    ((Wpeer [⟨frameTo 0x8000⟩]).heldReady 0).isSome = true ∧
    (∃ m, (Wpeer []).sentTo 1 5 = some m ∧ (∀ x ∈ (Wpeer []).sent.erase m, x.batch ≠ m.batch) ∧
      (Wpeer []).groups.get m.gid = some loadGroup ∧ (Wpeer []).ctxs.get m.ctx = some loadCtx) ∧
    loadCtx.faults.length < loadCtx.faultCap ∧ linkKey (.thohel 11) = some 77 ∧ linkKey (.cxl 0) = some 0 := by
  refine ⟨?_, ?_, ?_, ?_, ?_, ⟨_, rfl, ?_, rfl, rfl⟩, ?_⟩ <;> decide +kernel

/-- A split parked by a fault at 0x1004, before the commit of its instruction or at it. -/
def parkRec (cause : Cause) : FaultRec :=
  { cause := cause, depth := 0, split := 0, precise := true, dir := false, kind := none, lanes := 3#32, addr := 0x1004#57,
    ic := 0#48, locator := 0#64, gridNo := 1, teamNo := 0, detA := 0#64, detB := 0#64, reply := 0#64, gid := 3, parcels := 2,
    replyTo := some 2#6, was := .ready, slot := 0, saved := [] }
def Wpark (cause : Cause) : State :=
  ctxWith (fun c => { c with faults := [(9, parkRec cause)] })
    (world { idle with splits := [(0, { initialSplit 0x1004#57 3#32 with wait := .parked 9 })] })
def newPage : Page := ⟨0x40000, .k64, .global 0x40000, true, true, none⟩

theorem meets_BermSteps :
    (Wpark 0x0302#16).ctxs.get 0 = some { loadCtx with faults := [(9, parkRec 0x0302#16)] } ∧
    (Wpark 0x0305#16).groups.get 3 = some { idle with splits := [(0, { initialSplit 0x1004#57 3#32 with wait := .parked 9 })] } ∧
    (parkRec 0x0305#16).cause = 0x0305#16 ∧ (parkRec 0x0302#16).was = .ready ∧ (parkRec 0x0302#16).parcels ≠ 0 ∧
    (parkRec 0x0302#16).detB.extractLsb' 0 2 ≠ 3#2 ∧ idle.stepBit = false ∧
    W.grids.get 1 = some loadGrid ∧ loadGrid.window = false ∧ W.auxTable 0 0#64 = some [] ∧
    W.auxTable 0 0x8000#64 = some [0#64, 0#64, 0#64] ∧ (0x1000#64 : DWord).setWidth 57 ≠ 0#57 ∧
    (let h := Wlaunch 0x8000#64 .system
     h.mgmt.stage = 5 ∧ h.childQueue 0 < 64 ∧ (h.launchAt 0 0x8000#64).isSome = true) ∧
    W.ctxs.get 1 = none ∧ pagesMeet ⟨0, .k64, .global 0, true, true, none⟩ newPage = false ∧
    loadCtx.page 0xFFFF = some ⟨0, .k64, .global 0, true, true, none⟩ ∧ W.storageWf = true ∧
    0 + pageBytes .k64 ≤ 0x40000 ∧ (∀ c ∈ W.cores, c.2.wcb = [] ∧ c.2.dirty = []) := by
  refine ⟨rfl, rfl, rfl, rfl, ?_, ?_, rfl, rfl, rfl, rfl, ?_, ?_, ⟨rfl, ?_, ?_⟩, rfl, ?_, ?_, ?_, ?_, ?_⟩ <;> decide +kernel

/-- A context with a session; group 3 at a boundary, halted, and in a clause; a context in its image. -/
def Wdbg (x : Group) : State := ctxWith (fun c => { c with dbg := { c.dbg with right := true, attached := true } }) (world x)
def WdbgImg : State := ctxWith (fun c => { c with image := some ⟨[(3, idle)], [(2, loadTeam)], []⟩ }) W

theorem meets_DebugCommands : W.session 0 = false ∧ (Wdbg idle).session 0 = true ∧ loadCtx.dbg.right = false ∧
    allBit 0#64 = false ∧ ((Wdbg idle).cmdGroup 0 0#64 = .ok (3, idle)) ∧
    ((Wdbg { idle with halted := true }).cmdGroup 0 0#64 = .ok (3, { idle with halted := true })) ∧
    idle.halted = false ∧ idle.clause = none ∧ idle.frames = [] ∧ idle.dir = false ∧ idle.actable = true ∧
    (idle.item 0x20#64).isSome = true ∧ (Wdbg idle).memwOpen 3 = false ∧
    (((Wdbg idle).takeCmd 0).editGroup 3 idle 0x10#64 7#64).isSome = true ∧ idle.landing 6#64 = none ∧
    ({ idle with grade := .step, ic := 5#48 } : Group).landing 3#64 = some (3#48, false) ∧
    (Wdbg idle).mayReverse 3 { idle with grade := .step, ic := 5#48 } = true ∧
    (((Wdbg idle).takeCmd 0).cmdPlaces 3 idle .global .load 0xFFF0#64 16).isSome = true ∧
    (((Wdbg idle).takeCmd 0).cmdPlaces 3 idle .global .store 0xFFF8#64 8).isSome = true ∧
    (((Wdbg idle).takeCmd 0).cmdPlaces 3 idle .global .store 0xFFFC#64 8) = none ∧
    loadCtx.image = none ∧ loadCtx.preempt = none ∧ (WdbgImg.makeDump 0 0x1000 4096 0#16).isSome = true ∧
    loadCtx.dbg.held = [] := by
  refine ⟨?_, ?_, ?_, ?_, rfl, rfl, rfl, rfl, rfl, rfl, rfl, ?_, ?_, ?_, ?_, ?_, ?_, ?_, ?_, ?_, rfl, rfl, ?_, rfl⟩ <;>
    decide +kernel

/-- A dump held for the side band; a core idle with spares and without; a die below the critical state. -/
def heldDump : Dump := { ctx := 0, cause := 0#16, buf := 0, limit := 4096, stop := 4096, sizes := [], bytes := [], faulted := true, side := true }
def Wmgmt (spares : List Nat) (therm : List Nat) : State :=
  { State.reset with dump := some heldDump,
                     mgmt := { Mgmt.reset with dumpHeld := true, spares := spares, therm := therm } }

theorem meets_Management : (Wmgmt [] []).dump = some heldDump ∧ (Wmgmt [] []).mgmt.dumpHeld = true ∧
    (List.replicate 32 0#8 : List Byte).length = 32 ∧ (1200 ≤ (1200 : Nat) ∧ (2200 : Nat) ≤ 2200) ∧
    State.reset.enabled 255 = true ∧ State.reset.coreIdle 255 = true ∧ State.reset.mgmt.spares[255 / 64]? = some (1 + 1) ∧
    (Wmgmt [0, 0, 0, 0] []).mgmt.spares.getD (255 / 64) 0 = 0 ∧ State.reset.mgmt.enabled.length = 4 ∧
    State.reset.mgmt.therm[3]? = some 0 ∧ (Wmgmt [] [0, 0, 0, 1]).mgmt.therm[3]? = some 1 ∧
    State.reset.mgmt.therm.length = 4 := by decide +kernel

/-- The branches of a step: an input, the engines' work, a step due, a timer, nothing, the start of a clause, an instruction
that decodes, words that do not. -/
def Wword (w : Word) : State := { W with mem := Cells.writeN [] 0x1004 4 w.toNat }

theorem meets_StepRunsDecoded :
    ({ State.reset with inputs := [.dumpflt] } : State).firstInput [] [.dumpflt] = some .dumpflt ∧
    State.reset.firstInput [] State.reset.inputs = none ∧
    ({ State.reset with engine := [.clauseStart 3] } : State).engine = .clauseStart 3 :: [] ∧
    (world { idle with haltReq := true }).auto.isSome = true ∧ State.reset.auto = none ∧ State.reset.turn = none ∧
    W.auto = none ∧ W.timerDue = false ∧ W.turn = some (3, loadGroup) ∧
    (loadGroup.clause.isSome && (loadGroup.splits.get loadGroup.cur).isSome) = true ∧
    (match (Wword 0x000003D0#32).scan 0 1 0x1004#57 with
      | .ok _ => true
      | .error _ => false) = true ∧
    decode true 0x000003D0#32 0#32 0#32 = .ok .nop ∧ decode true 0x0000023C#32 0#32 0#32 = .error 0x0001#16 ∧
    (∃ g, (Wstart [(0, atHeader)]).turn = some (3, g) ∧ g.clause = none) := by
  refine ⟨?_, ?_, rfl, ?_, ?_, ?_, ?_, ?_, ?_, ?_, ?_, rfl, rfl, ⟨{ idle with splits := [(0, atHeader)] }, ?_, rfl⟩⟩ <;> decide +kernel

/-- Bytes at distinct places of every kind, at the ends of their ranges; a line of the write-combining buffer over one. -/
def somePlaces : List Place := [.glob 0, .glob 0xFFFF, .pol 0, .cs 2 0, .scr 3 0]

theorem meets_StoresReadBack : somePlaces.Nodup ∧ (W.teams.get 2).isSome = true ∧ (W.groups.get 3).isSome = true ∧
    Wcache.storageWf = true := by decide +kernel

theorem meets_StorageStaysCanonical : Wcache.storageWf = true ∧
    (match step (Wword 0x000003D0#32) with
      | .next t => t.storageWf
      | _ => false) = true := by refine ⟨?_, ?_⟩ <;> decide +kernel

theorem meets_DecodeEncode : (Instr.nop).wf = true ∧ encode .nop ≠ [] ∧
    (Instr.mtg always 20#6 4#6 63#6).wf = true ∧ encode (.mtg always 20#6 4#6 63#6) ≠ [] ∧
    (Instr.nopL always 0xFFFFFFFF#32).wf = true ∧ encode (.nopL always 0xFFFFFFFF#32) ≠ [] := by decide

theorem meets_EncodeDecode : decode true 0x000003D0#32 0#32 0#32 = .ok .nop ∧
    decode false 0x000003D0#32 0#32 0#32 = .ok .nop ∧
    decode true 0x00801305#32 0x40043F40#32 0#32 = .ok (.mmas false always 4#6 32#8 64#8 0#3 1#3) ∧
    decode false 0x00801305#32 0x40043F40#32 0#32 = .error 0x0006#16 := ⟨rfl, rfl, rfl, rfl⟩

theorem meets_NopDoesNothing : W.Issues 1 always (at_ W 1 always) ∧ (at_ W 1 always).Room 0 ∧ W.Issues 2 ⟨0#6, true⟩ (at_ W 2 ⟨0#6, true⟩) ∧
    W.Issues 3 ⟨63#6, true⟩ (at_ W 3 ⟨63#6, true⟩) ∧ (at_ W 3 ⟨63#6, true⟩).Room 0 ∧
    (match exec .nop W with
      | .next t => (t.groups.get 3).isSome
      | _ => false) = true :=
  ⟨issues_of (by decide), room_of (by decide), issues_of (by decide), issues_of (by decide), room_of (by decide), by decide⟩

theorem meets_SelvageBits : decode true 0x000003D0#32 0#32 0#32 = .ok .nop ∧
    (match (Wstart []).clauseCheck 0 0x1024#57 with
      | .ok _ => true
      | .error _ => false) = true ∧
    (encode (.pref false .global ⟨true, true⟩ always ⟨.k 2#6, .v 1#8, 255#8⟩)).length = 2 ∧
    (encode (.nopL ⟨0#6, true⟩ 0xFFFFFFFF#32)).length = 3 := by
  refine ⟨rfl, ?_, rfl, rfl⟩
  decide +kernel

theorem meets_AtomicResults : ∃ y x, loadGroup.atomB ⟨true, .global, .device, .relaxed⟩ (.k 2#6) = .ok y ∧
    loadGroup.atomicOf (.red .decw ⟨true, .global, .device, .relaxed⟩ ⟨false, false⟩ always (.k 4#6) (.k 2#6)) = some (.ok x) ∧
    0 < 2 ^ (8 * atomBytes ⟨true, .global, .device, .relaxed⟩) := ⟨_, _, rfl, rfl, by decide⟩

/-! Witnesses for the other clauses. -/

/-- A waited grant that is not the split's own; a CALLI whose target asks for no more registers than the group has. -/
theorem meets_Transfers_calli : (∃ v, (at_ Wret 2 always).g.src64 (.k 2#6) = .ok v ∧
      ∀ l ∈ lanesOf (at_ Wret 2 always).ex, 16 * (((v l).extractLsb' 57 4).toNat + 1) ≤ (at_ Wret 2 always).g.regs) ∧
    (at_ Wret 2 always).g.growFail ≠ some (at_ Wret 2 always).sn ∧ (at_ Wret 2 always).g.grants = [] ∧
    (∃ d, (at_ Wret 2 always).g.locPair 2 = .ok d) :=
  ⟨⟨_, rfl, by decide⟩, by decide, rfl, ⟨_, rfl⟩⟩

/-- A target that may reverse, and one with a flag up. -/
theorem meets_OtherGroups_reversal :
    (Wtwo { loadGroup with ic := 5#48 } 0x100#64).mayReverse 4 { loadGroup with slot := 1, ic := 5#48 } = true ∧
    (Wtwo { loadGroup with flags := [(3, 1#8)] } 0x100#64).mayReverse 4 { loadGroup with slot := 1, flags := [(3, 1#8)] } = false ∧
    ({ loadGroup with slot := 1, clause := none } : Group).dir = false := by
  refine ⟨?_, ?_, rfl⟩ <;> decide +kernel

/-- Launch records after the release; queues of 64 grids that wait. -/
theorem meets_GridLaunches_queue :
    (((Wlaunch 0x8000#64 .system).release 0 3 .device).launchAt 0 0x8000#64).isSome = true ∧
    (∃ l, ({ at_ (Wlaunch 0x8000#64 .user) 2 always with s := (Wlaunch 0x8000#64 .user).release 0 3 .device } : Iss).launchRecord
      0x8000#64 = .ok l) ∧
    64 ≤ ({ W with grids := (List.range 64).map (fun i => (i, { loadGrid with started := [] })) } : State).childQueue 0 :=
  ⟨by decide +kernel, ok_of (by decide +kernel), by decide +kernel⟩

/-- A copy that has more to move than one chunk, its elements wider than that; a copy whose context is switched out. -/
def wideCopy : Copy := { copyTo 0xA000 false with esize := 32769 }

theorem meets_EngineCompletions_chunk : wideCopy.chunk < (wideCopy.moves.drop 0).length ∧
    ((Wcopy 0xA000 false).copyRun wideCopy ((wideCopy.moves.drop 0).take wideCopy.chunk)).2.2 = none ∧
    ((copyTo 0x9000 false).moves.drop 0).length ≤ (copyTo 0x9000 false).chunk ∧
    (ctxWith (fun c => { c with preempt := some [] }) (Wcopy 0x9000 false)).switched 0 = true := by
  refine ⟨?_, ?_, ?_, ?_⟩ <;> decide +kernel

/-- A handover whose sweep a lock holds, and one that ends, after a routine or an overrun. -/
def Whandover (late : Bool) (locks : List (Nat × Copy)) : State :=
  { Wask [(3, { idle with frames := [frame .surrender] }), (4, { idle with team := 9, slot := 1 })] with
    sweeps := [(6, .handover 3 5 (0, 0) late)], copies := locks }

theorem meets_SurrenderSteps_handover (late : Bool) :
    (Whandover late []).sweeps.get 6 = some (.handover 3 5 (0, 0) late) ∧ (Whandover late []).tileLocked 5 = false ∧
    (Whandover late [(9, { copyTo 0x9000 false with locks := [⟨.tile 5 0, 16, true⟩] })]).tileLocked 5 = true ∧
    (Whandover late []).groups.get 3 = some { idle with frames := [frame .surrender] } ∧
    (∃ x, (Whandover late []).tiles.get 5 = some x ∧ (Whandover late []).liveReqs x.queue = request :: []) ∧
    (∃ cx, (Whandover late []).ctxs.get 0 = some cx ∧ cx.faults.length < cx.faultCap) ∧ (Whandover late []).failed = [] := by
  cases late <;> exact ⟨rfl, by decide +kernel, by decide +kernel, rfl, ⟨_, rfl, by decide +kernel⟩, ⟨_, rfl, by decide⟩, rfl⟩

/-- Lost words of the group's own before the commit's floor and after it, a spilled line, a walk, streams 0 to 7. -/
theorem meets_HistorySteps_damage : loadGroup.hist.bad = [] ∧
    (let g : Group := { loadGroup with cmark := 5#48, ic := 5#48, hist := { loadGroup.hist with committed := true } }
     g.grade ≠ .off ∧ g.dist g.ic < g.dist g.floor) ∧
    ¬loadGroup.dist loadGroup.ic < loadGroup.dist loadGroup.floor ∧ loadGroup.frames = [] ∧
    Damage.sound (.line (loadGroup.hbase.toNat / 128)) { loadGroup with hsp := loadGroup.hbase + 256#57 } = true ∧
    (∃ g, Wwalk.groups.get 3 = some g ∧ g.dir = true ∧ (g.hist.rev.bind (·.fault)) = none) ∧ walk.waiting = false ∧
    W.failed = [] ∧ (7 : Nat) < 8 := by
  refine ⟨rfl, ?_, ?_, rfl, ?_, ⟨_, rfl, rfl, rfl⟩, rfl, rfl, by decide⟩ <;> decide +kernel

/-- A group that waits for its context's pool, and none. -/
def Wstarved : State := ctxWith (fun c => { c with poolWaits := [3] }) W

theorem meets_TaskEngineSteps_pool : Wstarved.starved 0 = some 1 ∧ W.starved 0 = none ∧ Wstarved.grids.get 1 = some loadGrid ∧
    loadGrid.ctx = 0 ∧ loadGrid.join = none ∧ loadGrid.lrec.ltr = 0#64 ∧ loadGrid.killed = none ∧ Wstarved.failed = [] ∧
    loadCtx.faults.length < loadCtx.faultCap := ⟨by decide, rfl, rfl, rfl, rfl, rfl, rfl, rfl, by decide⟩

/-- A frame enqueued already and acknowledged again, one held, one for another device; a frame's route; a decoder of two ports. -/
theorem meets_PeerSteps_links :
    (let f : Frame := { frameTo 0x8000 with seq := 1 }
     f.dst = (Wpeer []).deviceNo ∧ (f.src, f.seq) ∈ (Wpeer []).rxSeq ∧ (¬∃ h ∈ (Wpeer []).rxHeld, h.frame.src = f.src ∧ h.frame.seq = f.seq) ∧
      ∃ h ∈ (Wpeer [⟨f⟩]).rxHeld, h.frame.src = f.src ∧ h.frame.seq = f.seq) ∧
    ({ frameTo 0x8000 with dst := 2 } : Frame).dst ≠ (Wpeer []).deviceNo ∧ (Wpeer []).failed = [] ∧
    (let s : State := { Wpeer [] with routes := [⟨1, 0, 2 ^ 57, 11⟩] }
     ∃ m ∈ s.sent, s.routeOf m.frame = some 11) ∧
    (let d : Decoder := ⟨0, 0x10000, [3, 5], 256⟩
     let s : State := { W with decoders := [d] }
     Decoder.sound d = true ∧ s.cxlPort 0 = some 3 ∧ s.cxlPort 0xFFFF = some 5 ∧ d.ports ≠ []) := by
  refine ⟨⟨rfl, ?_, ?_, ?_⟩, ?_, rfl, ?_, ?_⟩ <;> decide +kernel

/-- A page that lies in the address space; requests served, refused, misaligned; a context with the least spillway and a pool of the
reserve alone, with a tile that the division serves and one that it does not; a page that moves to the end of the space. -/
def params : CtxParams :=
  { ctx := 1, spill := some 0x10000, hbase := 0, pool := 1024, poolHigh := none, poolLow := none, tiles := [(0, 0), (1791, 0)],
    pages := [newPage], cores := [0], rings := [0], spillAt := 2 ^ 52 - 0x10000 * 32, frameArea := 2 ^ 52 - 1, faultCap := 1, faultRing := 2 ^ 52 - 64,
    debugRight := true, privBase := 0 }
def Wsplit7 : State := { W with mgmt := { W.mgmt with split := [1, 0, 0, 0] } }

theorem meets_BermSteps_requests : Page.sound newPage = true ∧
    (((Wlaunch 0x8000#64 .system).launchAt 0 0x8000#64).elim false (fun x =>
      decide ((Wlaunch 0x8000#64 .system).hostReason 0 0 0x8000#64 x.1 x.2 = none) &&
      ((Wlaunch 0x8000#64 .system).stageTimes 0 x.1).isSome)) = true ∧
    (((Wlaunch 0x8000#64 .system).launchAt 0 0x8100#64).elim false (fun x =>
      ((Wlaunch 0x8000#64 .system).hostReason 0 0 0x8100#64 x.1 x.2).isSome &&
      ((Wlaunch 0x8000#64 .system).refusedLtr 0 x.1 2).isSome)) = true ∧
    (((Wlaunch 0x8000#64 .system).vaBytes 0 0x8001 256).elim false (fun bs =>
      ((Wlaunch 0x8000#64 .system).refusedLtr 0 (launchOf bs) 1).isSome)) = true ∧ (0x8001#64 : DWord).toNat % 256 ≠ 0 ∧
    State.reset.mgmt.stage ≠ 5 ∧ W.ctxs.get params.ctx = none ∧ W.mgmt.stage = 5 ∧ 2 ^ 16 ≤ params.spill.getD (2 ^ 22) ∧
    1024 * params.cores.length ≤ params.pool ∧ Wsplit7.tileServed 0 = true ∧ Wsplit7.tileServed 1791 = false ∧
    Wsplit7.tiles.get 0 = none ∧ (2 ^ 52 - pageBytes .k64) + pageBytes .k64 ≤ 2 ^ 52 ∧
    (parkRec 0x0903#16).replyTo ≠ none ∧
    64 ≤ ({ W with grids := (List.range 64).map (fun i => (i, { loadGrid with started := [] })) } : State).childQueue 0 := by
  refine ⟨?_, ?_, ?_, ?_, ?_, ?_, rfl, rfl, ?_, ?_, ?_, ?_, rfl, ?_, ?_, ?_⟩ <;> decide +kernel

/-- The right without a session, with a core for the monitor's group and with none; locators of one group, of none, of every group,
of every group of another context. -/
def Wright (enabled : List DWord) : State :=
  ctxWith (fun c => { c with dbg := { c.dbg with right := true } }) { W with mgmt := { W.mgmt with enabled := enabled } }

theorem meets_DebugCommands_session :
    (((Wright [1#64]).ctxs.get 0).bind (Wright [1#64]).monitorCore) = some 0 ∧
    (((Wright []).ctxs.get 0).bind (Wright []).monitorCore) = none ∧
    (Wdbg idle).commands 0 = [] ∧ allBit 0x700#64 = false ∧ (Wdbg idle).cmdGroup 0 0x700#64 = .error 2 ∧ allBit 0x8000#64 = true ∧
    fld 0x8000#64 16 16 = 0 ∧ allBit 0x18000#64 = true ∧ fld 0x18000#64 16 16 ≠ 0 ∧
    (∃ x ∈ (Wdbg idle).groups, x.2.ctx = 0 ∧ x.2.halted = false) ∧
    (∀ x ∈ (Wdbg { idle with halted := true }).groups, x.2.ctx = 0 → x.2.halted = true) := by
  refine ⟨?_, ?_, rfl, ?_, rfl, ?_, ?_, ?_, ?_, ?_, ?_⟩ <;> decide +kernel

/-- Groups in a clause, in a handler, walking; an item that there is not; a reversal that waits, and one to where the group stands;
a length of zero; a dump that is on its way. -/
theorem meets_DebugCommands_groups : small.actable = false ∧ ({ idle with dir := true } : Group).dir = true ∧
    idle.item 0xF#64 = none ∧ ((Wdbg idle).takeCmd 0).editGroup 3 idle 0xF#64 7#64 = none ∧
    ({ idle with frames := [frame .emulation] } : Group).inHandler = true ∧
    (Wdbg idle).mayReverse 3 { idle with flags := [(3, 1#8)] } = false ∧
    ({ idle with grade := .step, ic := 5#48 } : Group).landing 5#64 = some (5#48, false) ∧ fld 0#64 0 5 = 0 ∧ 16 < fld 17#64 0 5 ∧
    (ctxWith (fun c => { c with preempt := some [] }) W).ctxs.get 0 = some { loadCtx with preempt := some [] } ∧
    (WdbgImg.ctxs.get 0).bind (·.image) = some ⟨[(3, idle)], [(2, loadTeam)], []⟩ := by
  refine ⟨?_, rfl, ?_, ?_, rfl, ?_, ?_, ?_, ?_, rfl, rfl⟩ <;> decide +kernel

/-- A dump held whose last bytes are read, and one of which bytes stay unread; a core that is due, one that is not enabled. -/
def Wheld : State := { State.reset with heldDumps := [(heldDump, [64, 128, 192])] }
def Wdue : State := { State.reset with field := { State.reset.field with uncorrected := [(16 * 255, 2)] } }

theorem meets_Management_held :
    (let x : List Byte := Dump.image { heldDump with limit := 4096, stop := 4096 }
     x.length = 256 ∧ (∀ i, 64 * i < x.length → 64 * i = 0 ∨ 64 * i ∈ [64, 128, 192]) ∧
      ∃ i, 64 * i < x.length ∧ 64 * i ≠ 64 ∧ 64 * i ∉ [128]) ∧
    Wheld.heldDumps = (heldDump, [64, 128, 192]) :: [] ∧ Wdue.due 255 = true ∧ Wdue.enabled 255 = true ∧ Wdue.coreIdle 255 = true ∧
    Wdue.field.uncorrected.wf = true ∧ State.reset.enabled 256 = false ∧ State.reset.mgmt.reason < 2 ^ 8 ∧ ([] : List Byte).length ≠ 32 ∧
    (0 : Nat) ≠ bermKey := by
  have h : (Dump.image { heldDump with limit := 4096, stop := 4096 }).length = 256 := by decide +kernel
  refine ⟨⟨h, fun i hi => ?_, 0, ?_, by decide, by decide⟩, rfl, ?_, ?_, ?_, rfl, ?_, ?_, ?_, ?_⟩
  · rw [h] at hi
    rcases (by omega : i = 0 ∨ i = 1 ∨ i = 2 ∨ i = 3) with rfl | rfl | rfl | rfl <;> simp
  · rw [h]; decide
  all_goals decide +kernel

/-- A device that runs and one at each stage of its boot; Berm's image good and bad. -/
def Wboot (stage : Nat) : State := { State.reset with mgmt := { Mgmt.reset with booting := true, stage := stage } }
def boot (ok : Bool) : BootParams := { slot0 := ok, slot1 := false, berm := ok, split := [7, 8, 0, 1], entry := 0#57, monitor := 0#57, pages := [], decoders := [], routes := [] }

theorem meets_Resets : State.reset.mgmt.booting = false ∧ (Wboot 1).mgmt.booting = true ∧ (Wboot 1).mgmt.stage = 1 ∧
    (Wboot 2).mgmt.stage = 2 ∧ (Wboot 3).mgmt.stage = 3 ∧ (Wboot 4).mgmt.stage = 4 ∧
    ((boot true).slot0 || (boot true).slot1) = true ∧ ((boot false).slot0 || (boot false).slot1) = false ∧
    (boot true).berm = true ∧ (boot false).berm = false ∧ (boot true).split[3]? = some 1 := by
  decide

/-- Two groups in turn, the first waiting at a barrier; an instruction that changes nothing; words whose clause structure is
lost. -/
def Wturns : State :=
  { W with groups := [(3, { loadGroup with clause := none, splits := [(0, { initialSplit 0x1008#57 fullMask with wait := .bar 0x1004#57 })] }),
                      (4, { loadGroup with slot := 1 })] }

theorem meets_StepRunsDecoded_turns :
    Wturns.turns = [(3, { loadGroup with clause := none, splits := [(0, { initialSplit 0x1008#57 fullMask with wait := .bar 0x1004#57 })] })] ++
      (4, { loadGroup with slot := 1 }) :: [] ∧
    (∀ x ∈ [(3, { loadGroup with clause := none, splits := [(0, { initialSplit 0x1008#57 fullMask with wait := .bar 0x1004#57 })] })],
      Wturns.runnable x.1 x.2 = false) ∧ Wturns.runnable 4 { loadGroup with slot := 1 } = true ∧
    Wturns.firstInput [] Wturns.inputs = none ∧ Wturns.engine = [] ∧ Wturns.auto = none ∧ Wturns.timerDue = false ∧
    waited 3 W W = true ∧ ({ W with groups := [(3, small)] } : State).groups.get 3 = some small ∧
    waited 3 W { W with groups := [(3, idle)] } = false ∧
    (match (Wword 0x00000003#32).scan 0 1 0x1004#57 with
      | .ok _ => false
      | .error _ => true) = true ∧
    (let s : State := { State.reset with timers := [.wcbDrainTimer 0 0] }
     s.turn = none ∧ s.timers = .wcbDrainTimer 0 0 :: []) := by
  refine ⟨?_, ?_, ?_, ?_, rfl, ?_, ?_, ?_, rfl, ?_, ?_, ?_, rfl⟩ <;> decide +kernel

/-- A malformed MMAS: its FN is not assigned; a reserved field; an instruction that is not MMAS; a cell that is none. -/
theorem meets_EncodeDecode_errors : decode true 0x00801305#32 0x4FFFFF40#32 0#32 = .error 0x0002#16 ∧
    decode false 0x00801305#32 0x4FFFFF40#32 0#32 = .error 0x0006#16 ∧
    (0x00801305#32 : Word).extractLsb' 2 8 = 0xC1#8 ∧ (0x0000023C#32 : Word).extractLsb' 2 8 ≠ 0xC1#8 ∧
    decode true 0x0000023C#32 0#32 0#32 = .error 0x0001#16 ∧ decode false 0x0000023C#32 0#32 0#32 = .error 0x0001#16 :=
  ⟨rfl, rfl, by decide, by decide, rfl, rfl⟩

/-- An atomic in STEP grade, and one whose page has moved. -/
def Wstep : State := { world { lone [0, 1] 0x8000 with grade := .step } with mem := [(0x8000, 0x80#8)] }
def Wmoved : State :=
  ctxWith (fun c => { c with pages := c.pages.map (fun p => { p with movedFrom := some 0x90000 }) }) Wmem

theorem meets_Atomics_recorded : Wstep.Issues 2 always (at_ Wstep 2 always) ∧ (at_ Wstep 2 always).g.recGrade ≠ .off ∧
    (at_ Wstep 2 always).Room 2048 ∧ Wmoved.Issues 2 always (at_ Wmoved 2 always) ∧ (at_ Wmoved 2 always).Room 2048 ∧
    (∃ x, (at_ Wmoved 2 always).g.atomicOf (.atom .add ⟨false, .global, .device, .relaxed⟩ always 4#8 (.k 2#6) (.v 1#8)) =
        some (.ok x) ∧ ∃ accs, (at_ Wmoved 2 always).access (aspace x.m.space) .atomic (at_ Wmoved 2 always).ex x.addr 4 =
          .ok accs ∧ accs.any (fun a => Wmoved.movedAt 0 a.addr) = true) :=
  ⟨issues_of (by decide), by decide, room_of (by decide), issues_of (by decide), room_of (by decide),
    ⟨_, rfl, ok_with (by decide)⟩⟩

theorem meets_ExitAndConverge_rest : Wsplit.Issues 1 always (at_ Wsplit 1 always) ∧ (at_ Wsplit 1 always).g.inHandler = false ∧
    (at_ Wsplit 1 always).Commits (committed (at_ Wsplit 1 always)) ∧ (at_ Wsplit 1 always).ex ≠ 0#32 ∧
    (at_ Wsplit 1 always).sn ≠ 1 ∧ ((committed (at_ Wsplit 1 always)).g.splits.get 1).map (·.mask) = some 2#32 ∧
    ((committed (at_ Wsplit 1 always)).g.splits.get (at_ Wsplit 1 always).sn).map (·.mask) = some (at_ Wsplit 1 always).sp.mask :=
  ⟨issues_of (by decide), rfl, commits_of (by decide), by decide, by decide, rfl, rfl⟩

theorem meets_BarriersAndBudgets_handler :
    (Whand .emulation .user).Issues 1 always (at_ (Whand .emulation .user) 1 always) ∧
    (Whand .emulation .user).Issues 2 ⟨63#6, true⟩ (at_ (Whand .emulation .user) 2 ⟨63#6, true⟩) ∧
    (at_ (Whand .emulation .user) 2 ⟨63#6, true⟩).ex = 0#32 ∧ (at_ (Whand .emulation .user) 1 always).g.inHandler = true ∧
    (at_ (Whand .emulation .user) 2 ⟨63#6, true⟩).g.inHandler = true :=
  ⟨issues_of (by decide), issues_of (by decide), by decide, rfl, rfl⟩

/-- Slots that MMA does not accept, a group of fewer lanes, a tile beyond the allotment, and one with an operation pending. -/
theorem meets_MatrixMultiplies_stops : (Mat.dense none).accepts (Wmat.slot 1 1) (Wmat.slot 1 1) = false ∧
    (let s : State := { Wmat with groups := [(3, lone [] 0)] }
     s.Issues 2 always (at_ s 2 always) ∧ (at_ s 2 always).ex ≠ fullMask) ∧
    (∃ tm, Wmat.teams.get (at_ Wmat 2 always).g.team = some tm ∧ tm.accs ≤ (47#6 : TileReg).toNat) ∧
    (let s : State := { Wmat with cores := [(0, { Core.empty with mq := [matOp] })] }
     s.Issues 2 always (at_ s 2 always) ∧ ∃ m ∈ (s.core (at_ s 2 always).g.core).mq,
      m.team = (at_ s 2 always).g.team ∧ m.tile = (7#6 : TileReg).toNat) :=
  ⟨by decide, ⟨issues_of (by decide), by decide⟩, ⟨_, rfl, by decide⟩, issues_of (by decide), matOp, by decide, rfl, rfl⟩

/-- Four splits, the first with two lanes of which one branches, and a path stack with `n` paths. -/
def Wcrowd (n : Nat) : State :=
  { Wbra with groups := [(3, { small with
      p := [(1, 1#32)]
      splits := [(0, initialSplit 0x1004#57 3#32), (1, initialSplit 0x2000#57 4#32), (2, initialSplit 0x2000#57 8#32),
        (3, initialSplit 0x2000#57 16#32)]
      parked := List.replicate n ⟨0x2000#57, 32#32⟩ })] }

theorem meets_Transfers_parking (k : Fin 2) :
    let s : State := Wcrowd (8 * k.val)
    let c : Iss := at_ s 3 ⟨1#6, false⟩
    s.TransferForm c (.bra ⟨1#6, false⟩ 0x20#32) (fun _ => c.pc + ((0x20#32 : Word).signExtend 64).setWidth 57) {} ∧
    c.ex ≠ 0#32 ∧ (∀ l ∈ lanesOf c.ex, c.s.isHeader c.g.ctx (c.pc + ((0x20#32 : Word).signExtend 64).setWidth 57) = .ok true) ∧
    c.g.inHandler = false ∧ c.numbers.length < (c.targets (fun _ => c.pc + ((0x20#32 : Word).signExtend 64).setWidth 57)).length ∧
    c.Room 1024 ∧
    c.g.parked.length + (c.overflow (fun _ => c.pc + ((0x20#32 : Word).signExtend 64).setWidth 57)).length = 8 * k.val + 1 := by
  match k with
  | 0 => exact ⟨.bra _ _ (issues_of (by decide)), by decide, fun _ _ => rfl, rfl, by decide, room_of (by decide), by decide⟩
  | 1 => exact ⟨.bra _ _ (issues_of (by decide)), by decide, fun _ _ => rfl, rfl, by decide, room_of (by decide), by decide⟩

theorem meets_Transfers_noHeader : let c : Iss := at_ Wbra 3 ⟨1#6, false⟩
    let t : Nat → CAddr := fun _ => c.pc + ((0x24#32 : Word).signExtend 64).setWidth 57
    Wbra.TransferForm c (.bra ⟨1#6, false⟩ 0x24#32) t {} ∧ (∀ l ∈ lanesOf c.ex, c.s.isHeader c.g.ctx (t l) = .ok false) ∧
    lanesOf c.ex = 0 :: [] := ⟨.bra _ _ (issues_of (by decide)), fun _ _ => (rfl : Wbra.isHeader 0 0x1028#57 = .ok false), by decide⟩

/-- A position of its own, a flag that holds a reversal back, a damaged line above a mark. -/
theorem meets_HistoryInstructions_waits :
    (at_ (Wrev 5#64) 2 always).g.landing ((at_ (Wrev 5#64) 2 always).g.rdK 2) = some (5#48, false) ∧
    (Wrev 5#64).mayReverse 3 (at_ (Wrev 5#64) 2 always).g = true ∧
    ((at_ (Wrev 5#64) 2 always).g.rdK 2).setWidth 48 = (at_ (Wrev 5#64) 2 always).g.ic ∧
    (let s : State := world { loadGroup with ic := 5#48, k := Cells.set [] 2 3#64, flags := Cells.set [] 1 1#8 }
     s.Issues 2 always (at_ s 2 always) ∧ s.mayReverse 3 (at_ s 2 always).g = false ∧
      (at_ s 2 always).g.landing ((at_ s 2 always).g.rdK 2) = some (3#48, false)) ∧
    (let s : State := world { loadGroup with
        hsp := loadGroup.hbase + 24#57, hist := { loadGroup.hist with stack := [⟨0#32, 0, .stash 7#64⟩], bad := [loadGroup.hbase.toNat / 128] } }
     s.Issues 2 always (at_ s 2 always) ∧
      (at_ s 2 always).g.badWithin ((at_ s 2 always).g.queryDepth .stash 0#64) = true) :=
  ⟨by decide, by decide, by decide, ⟨issues_of (by decide), by decide, by decide⟩, issues_of (by decide), by decide⟩

/-- Codes at the ends of their ranges: one in the units of FP32 for the powers of 2 and the integers, one half, NaNs, infinity. -/
theorem meets_FloatFunctions_codes : fmtF32 ∈ [fmtF32, fmtF16, fmtBf16] ∧ 1 ≤ fmtE2m3.fb ∧ 1 ≤ fmtE2m3.bias ∧
    (0 : Nat) < (0x3F800000#32 : Word).toNat ∧ (0x3F800000#32 : Word).toNat < 0x7F800000 ∧
    fmtF32.units (0x3F800000#32 : Word).toNat = 1 * fmtF32.one ∧ fmtF32.units (1#32 : Word).toNat = 2 ^ 0 ∧
    2 * fmtF32.units (0x3F000000#32 : Word).toNat = (2 * 0 + 1) * fmtF32.one ∧
    0x7F800000 < (0x7F800001 : Nat) % 2 ^ 31 ∧ ¬0x7F800000 < (0xFF800000 : Nat) % 2 ^ 31 := by decide +kernel

/-- Operands of CVT at each end: below, at and above the range of an integer, infinity, NaN; the largest random bits of CVTS. -/
theorem meets_Conversions_lanes : cvtInt .i8 = some (false, 8) ∧ cvtInt .f16 = none ∧ cvtInt .z32 = some (true, 32) ∧
    (let lo : Int := -(2 ^ (8 - 1) : Int);
     -(fmtF16.units 0x5801 : Int) < lo * fmtF16.one ∧ ((2 : Int) ^ (8 - 1) - 1) * fmtF16.one < (fmtF16.units 0x5800 : Int) ∧
     lo * fmtF16.one ≤ (fmtF16.units 0x5700 : Int) ∧ (fmtF16.units 0x5700 : Int) ≤ (2 ^ (8 - 1) - 1) * fmtF16.one) ∧
    fmtF16.infC < 0x7C01 ∧ fmtF16.maxFin < fmtF16.infC ∧
    fmtBf16.units fmtBf16.maxFin * fmtF32.one < fmtF32.units 0x7F7FFFFF * fmtBf16.one ∧
    fmtF16.units fmtF16.maxFin * 1 < 65505 * fmtF16.one := by decide +kernel

/-- A CALLI whose target asks for more registers than the group has: within the quadrant, beyond the limit, in a full quadrant,
behind another that waits, in handler mode. -/
def Wcalli (x : Group → Group) : State :=
  { world (x (lone [0, 0, 0x1024, 0] (0x1024#64 ||| 15#64 <<< 57))) with mem := header [] 0x1024 }
def Wcalli_full : State :=
  { Wcalli id with groups := (Wcalli id).groups ++ Wfull.groups.filter (fun x => x.1 != 3) }

theorem meets_Transfers_grow : (Wcalli id).Issues 2 always (at_ (Wcalli id) 2 always) ∧
    (∃ v, (at_ (Wcalli id) 2 always).g.src64 (.k 2#6) = .ok v ∧
      (at_ (Wcalli id) 2 always).CanTransfer (fun l => (v l).setWidth 57) ∧
      (lanesOf (at_ (Wcalli id) 2 always).ex).foldl (fun n l => max n (16 * (((v l).extractLsb' 57 4).toNat + 1))) 0 = 256) ∧
    (∃ d, (at_ (Wcalli id) 2 always).g.locPair 2 = .ok d) ∧ (at_ (Wcalli id) 2 always).g.inHandler = false ∧
    (at_ (Wcalli id) 2 always).g.growFail ≠ some (at_ (Wcalli id) 2 always).sn ∧ (at_ (Wcalli id) 2 always).g.grants = [] ∧
    256 ≤ (at_ (Wcalli id) 2 always).g.regLimit ∧ (∀ r ∈ (Wcalli id).growQ, r.quad ≠ (at_ (Wcalli id) 2 always).g.quad) ∧
    256 - (at_ (Wcalli id) 2 always).g.regs ≤ (Wcalli id).quadFree (at_ (Wcalli id) 2 always).g.quad ∧
    (at_ (Wcalli id) 2 always).Room 512 ∧ (at_ (Wcalli id) 2 always).g.regs < 256 := by
  refine ⟨issues_of (by decide), ⟨_, rfl, ⟨by decide, fun _ _ => rfl, by decide, by decide⟩,
    by decide⟩, ⟨_, rfl⟩, rfl, by decide, rfl, by decide, by decide, by decide +kernel, room_of (by decide), by decide⟩

theorem meets_Transfers_grow_waits :
    (let s := Wcalli (fun g => { g with window := true })
     s.Issues 2 always (at_ s 2 always) ∧ (at_ s 2 always).g.regLimit < 256) ∧
    Wcalli_full.Issues 2 always (at_ Wcalli_full 2 always) ∧
    Wcalli_full.quadFree (at_ Wcalli_full 2 always).g.quad < 256 - (at_ Wcalli_full 2 always).g.regs ∧
    (let s := Wcalli (fun g => { g with frames := [frame .emulation] })
     s.Issues 2 always (at_ s 2 always) ∧ (at_ s 2 always).g.inHandler = true) ∧
    (at_ Wret 2 ⟨63#6, true⟩).ex = 0#32 ∧ (at_ Wret 3 ⟨63#6, true⟩).ex = 0#32 :=
  ⟨⟨issues_of (by decide), by decide⟩, issues_of (by decide), by decide +kernel, ⟨issues_of (by decide), rfl⟩, by decide,
    by decide⟩

theorem meets_AtomicResults_cas : ∃ ls y x,
    loadGroup.locRun 1 (if (⟨true, .global, .device, .relaxed⟩ : AMod).w64 then 2 else 1) = .ok ls ∧
    loadGroup.atomB ⟨true, .global, .device, .relaxed⟩ (.k 2#6) = .ok y ∧
    loadGroup.atomicOf (.atomcas ⟨true, .global, .device, .relaxed⟩ always 1#8 (.k 4#6) (.k 2#6)) = some (.ok x) :=
  ⟨_, _, _, rfl, rfl, rfl⟩

/-- A copy with an empty Exec; SURRENDER with one, in a routine and outside; SURRENDER in another handler. -/
theorem meets_empty : (at_ Wcpy 2 ⟨63#6, true⟩).ex = 0#32 ∧ (at_ Wcpy 2 ⟨63#6, true⟩).Room 0 ∧
    (at_ Wcpy 3 ⟨63#6, true⟩).ex = 0#32 ∧ (at_ Wcpy 3 ⟨63#6, true⟩).Room 0 ∧
    (at_ Wsurr 2 ⟨63#6, true⟩).ex = 0#32 ∧ (at_ W 2 ⟨63#6, true⟩).ex = 0#32 ∧ (at_ W 2 always).g.frames = [] ∧
    (at_ (Whand .emulation .user) 2 always).g.frames.head? = some (frame .emulation) ∧ (at_ (Whand .emulation .user) 2 always).ex ≠ 0#32 :=
  ⟨by decide, room_of (by decide), by decide, room_of (by decide), by decide, by decide, rfl, rfl, by decide⟩

/-- The mailbox of the request at the routine's head is locked by a copy, in the core store of its team. -/
def lockOf (r : PlaceRange) : Copy := { copyTo 0x9000 false with locks := [r] }

theorem meets_Tiles_refusal : (committed (at_ (Wref 1) 2 always)).s.refuseWaits 5 = false ∧
    (∃ x, (committed (at_ (Wref 1) 2 always)).s.tiles.get 5 = some x ∧ x.queue = request :: []) ∧
    ((committed (at_ (Wref 1) 2 always)).s.teams.get request.team).isSome = true ∧
    (committed (at_ (Wref 1) 2 always)).s.teamLives request.team = true ∧
    (let s : State := { Wref 1 with copies := [(9, lockOf ⟨.cs 9 0, 16, true⟩)] }
     s.Issues 2 always (at_ s 2 always) ∧ (at_ s 2 always).s.refuseWaits 5 = true) ∧
    (let s : State := { Wref 1 with teams := [(2, loadTeam)] }
     (committed (at_ s 2 always)).s.teamLives request.team = false ∧ (committed (at_ s 2 always)).s.refuseWaits 5 = false) :=
  ⟨by decide, ⟨_, rfl, rfl⟩, rfl, rfl, ⟨issues_of (by decide), by decide⟩, rfl, by decide⟩

/-- A buffer in which no spill waits, and one in which one does with room for 24 bytes. -/
theorem meets_HandlerEntry_links : loadGroup.frames = [] ∧ W.failed = [] ∧ loadGroup.Holds 24 ∧
    (let g : Group := { loadGroup with hist := { loadGroup.hist with hold := some 0 } }
     g.Holds 24 ∧ g.hist.hold.isSome = true) := ⟨rfl, rfl, .inl rfl, .inr (by decide), rfl⟩

theorem meets_MemoryEngineSteps_kload :
    (Wpend (.kload 3 0 1#32 [(63, 5#64)])).pend.get 9 = some (.kload 3 0 1#32 [(63, 5#64)]) := rfl

theorem meets_sweeps_locks : W.passBarred 5 (0, 0) = false ∧ (Whandover false []).passBarred 5 (0, 0) = false ∧
    (Whandover false [(9, lockOf ⟨.cs 9 0, 16, true⟩)]).passBarred 5 (0, 0) = true ∧
    (Whandover false [(9, lockOf ⟨.cs 2 0, 4, true⟩)]).passBarred 5 (0, 4) = true ∧
    (∃ tm gd, (Wask [(3, idle)]).teams.get request.team = some tm ∧ (Wask [(3, idle)]).grids.get tm.grid = some gd) :=
  ⟨by decide, by decide, by decide, by decide, ⟨_, _, rfl, rfl⟩⟩

/-- A session's monitor; a save area that ends with the address space. -/
theorem meets_ContextSwitches_session :
    (Wdbg idle).session 0 = true ∧ loadCtx.dbg.monitor < (Wdbg idle).nextId ∧ 2 ^ 52 - 8 + 8 ≤ 2 ^ 52 := by decide

/-- A frame whose block is not aligned, and a held one whose queue is of other elements now. -/
theorem meets_PeerSteps_back : (Wpeer []).peerQueue (frameTo 0x8001) = none ∧ (1, 9) ∉ (Wpeer []).rxSeq ∧
    (Wpeer [⟨frameTo 0x8001⟩]).heldReady 0 = none ∧ (Wpeer [⟨frameTo 0x8001⟩]).heldLost 0 = some (frameTo 0x8001) := by decide +kernel

/-- A record in its ring; the areas of a context at the end of the address space. -/
theorem meets_BermSteps_places :
    ((Wpark 0x0903#16).ringPlace { loadCtx with faultTail := 1, faultLog := [parkRec 0x0903#16] } (parkRec 0x0903#16)).isSome = true ∧
    loadCtx.faultHold = [] ∧ (Wpark 0x0903#16).storageWf = true ∧ params.faultRing + 64 * params.faultCap ≤ 2 ^ 52 ∧
    params.frameArea < 2 ^ 52 ∧ params.spillAt + params.spill.getD (2 ^ 22) * (32 * params.cores.length) ≤ 2 ^ 52 := by
  refine ⟨by decide +kernel, rfl, by decide +kernel, by decide +kernel, by decide +kernel, by decide +kernel⟩

/-- Slots of every matrix instruction, and fragments of a group whose registers read zero. -/
def slotOf (elem scale : Byte) : FSlot := { elem := elem, scale := scale, satp := 0#8, nanp := 0#8, tscale := 0#32, rest := 0 }

theorem meets_MatrixMultiplies_elements : (Mat.dense none).accepts (slotOf 4#8 0#8) (slotOf 4#8 0#8) = true ∧
    Mat.sparse.accepts (slotOf 1#8 0#8) (slotOf 2#8 0#8) = true ∧ Mat.mx.accepts (slotOf 3#8 1#8) (slotOf 3#8 1#8) = true ∧
    (Mat.dense (some 3#2)).accepts (slotOf 5#8 0#8) (slotOf 5#8 0#8) = true ∧
    (∀ r l j : Nat, r < 64 → l < 32 → j < 8 → (loadGroup.v.get (32 * r + l)).toNat / 2 ^ (4 * j) % 2 ^ 4 = 0) := by
  refine ⟨?_, ?_, ?_, ?_, ?_⟩
  iterate 4 decide
  intro r l j _ _ _
  have h : loadGroup.v = [] := rfl
  simp [h, Cells.get]

/-- A group that walks back from %ic 5: at 0x1008, with the parcel of one instruction before it. -/
def Wback (w : Word) (r : Rev) (st : List HEntry) : State :=
  { world { idle with grade := if r.marked then .mark else .step, dir := true, ic := 5#48, hsp := small.hbase + 0x400#57,
                      v := [(32, 9#32), (64, 2#32)], splits := [(0, initialSplit 0x1008#57 3#32)],
                      hist := { small.hist with rev := some r, stack := st } } with
    mem := Cells.writeN [] 0x1004 4 w.toNat }
def oldK (c : Word) : HEntry := ⟨c, 0, .kreg 2 7#64⟩
def snap0 : Snapshot := ⟨[(0, initialSplit 0x1024#57 3#32)], [], 64⟩

/-- 09 R242, R243: a NOP undone with an entry of its own, a switch before it. -/
theorem test_walk_entry : after (.reverseWalkStep 3) (Wback 0x000003D0#32 walk [⟨5#32, 0, .weave 0 3⟩, oldK 4#32])
    (fun _ g => (g.ic, g.rdK 2, g.hist.stack.length, g.dir, g.hist.rev.bind (fun r => r.pos.get 0))) =
    some (4#48, 7#64, 0, true, some 0x1004#57) := by decide +kernel

/-- 09 R244: the short addition v1 := v1 + v2 is undone by subtraction. -/
theorem test_walk_inverse : after (.reverseWalkStep 3)
    (Wback (BitVec.ofNat 32 (((encode (.addS 1#8 2#8)).map (·.toNat)).getD 0 0)) walk [])
    (fun _ g => (g.ic, g.rdV (.own 1) 0, g.rdV (.own 2) 0)) = some (4#48, 7#32, 2#32) := by decide +kernel

/-- 09 R246: an entry undone without a change of %ic; the MARKREC of the landing point gives its splits. -/
theorem test_walk_mark : after (.reverseWalkStep 3) (Wback 0x000003D0#32 { walk with marked := true } [oldK 4#32])
      (fun _ g => (g.ic, g.rdK 2, g.hist.stack.length, g.dir)) = some (5#48, 7#64, 0, true) ∧
    after (.reverseWalkStep 3) (Wback 0x000003D0#32 { walk with marked := true } [⟨4#32, 0, .markrec 0#48 0 snap0 Touched.none⟩])
      (fun _ g => (g.ic, g.dir, g.hist.stack.length, (g.splits.get 0).map (·.pc))) = some (0#48, false, 1, some 0x1024#57) := by
  refine ⟨?_, ?_⟩ <;> decide +kernel

theorem meets_HistorySteps_walk :
    (let s := Wback 0x000003D0#32 walk [⟨5#32, 0, .weave 0 3⟩, oldK 4#32]
     (∃ g, s.groups.get 3 = some g ∧ g.hist.rev = some walk ∧ g.dir = true ∧ s.switched g.ctx = false ∧ s.memwOpen 3 = false ∧
      g.frames = [] ∧ g.hist.bad = [] ∧ g.ic ≠ walk.land ∧ (g.ic - 1#48).setWidth 32 ≠ g.ic.setWidth 32 ∧
      g.hist.committed = false ∧ g.hist.stack = [⟨g.ic.setWidth 32, 0, .weave 0 3⟩] ++ ([oldK 4#32] ++ []) ∧
      (∃ sp, g.splits.get 0 = some sp ∧ g.revPos 0 = 0x1008#57) ∧ s.normal 0 0x1008#57 = 0x1008#57) ∧
     lenCode (s.rawParcel 0 0x1008#57) ≠ 3 ∧
     (match s.predecessor 0 0x1008#57 with
      | .ok x => decide (x = 0x1004#57)
      | .error _ => false) = true ∧
     (match s.instrAt 0 0x1004#57 with
      | .ok i => decide (i = .nop)
      | .error _ => false) = true) ∧
    (regInverse .nop).isNone = true ∧ (memInverse .nop).isNone = true ∧ walk.waiting = false ∧ walk.fault = none ∧
    walk.unwind = 0 ∧ walk.marked = false ∧ Tbl.wf snap0.splits = true ∧
    (∀ p ∈ (Wback 0 walk []).pend, p.2.group ≠ 3) ∧ (∀ m ∈ ((Wback 0 walk []).core 0).mq, m.gid ≠ 3) ∧ (1#8 : VReg) ≠ 2#8 ∧
    (1#8 : VReg).toNat < loadGroup.regs := by
  refine ⟨⟨⟨_, rfl, rfl, rfl, ?_, ?_, rfl, rfl, ?_, ?_, rfl, ?_, ⟨_, rfl, ?_⟩, ?_⟩, ?_, ?_, ?_⟩, rfl, rfl, rfl, rfl, rfl, rfl, ?_⟩ <;>
    decide +kernel

/-- A MERGE at the boundary before the instruction: split 1 comes back at 0x2000. -/
theorem test_walk_merge : after (.reverseWalkStep 3)
    (Wback 0x000003D0#32 walk [⟨5#32, 0, .merge 0 1 1#32 2#32 0 0x2000#57 0#57 0#48⟩])
    (fun _ g => (g.ic, g.splits.map (fun x => (x.1, x.2.pc, x.2.mask)))) =
    some (4#48, [(0, 0x1008#57, 1#32), (1, 0x2000#57, 2#32)]) := by decide +kernel

/-- Stores with an empty Exec, of both lengths. -/
theorem meets_Stores_empty : W.Issues 2 ⟨63#6, true⟩ (at_ W 2 ⟨63#6, true⟩) ∧ (at_ W 2 ⟨63#6, true⟩).ex = 0#32 ∧
    (at_ W 2 ⟨63#6, true⟩).Room 0 ∧ (∃ ls, (at_ W 2 ⟨63#6, true⟩).g.locRun 60 (sizeRegs .b128) = .ok ls) ∧
    (∃ a, (at_ W 2 ⟨63#6, true⟩).g.addr ⟨.k 2#6, .v 2#8, 0#8⟩ (sizeBytes .b128) = .ok a) ∧
    W.Issues 3 ⟨63#6, true⟩ (at_ W 3 ⟨63#6, true⟩) ∧
    (∃ a, (at_ W 3 ⟨63#6, true⟩).g.addrL ⟨.k 2#6, .v 2#8, 0#32⟩ = .ok a) :=
  ⟨issues_of (by decide), by decide, room_of (by decide), ok_of (by decide), ⟨_, rfl⟩, issues_of (by decide), ⟨_, rfl⟩⟩

/-- A group released within a clause, another of its splits ready. -/
def Wresume : State := Wstart [(0, atHeader), (1, midClause_)]
def released (s : State) : State := { s with groups := s.groups.map (fun x => (x.1, { x.2 with resume := some 1, yielded := true })) }

theorem meets_ClauseStarts_resume : (∃ g, (released Wresume).groups.get 3 = some g ∧ (released Wresume).mayStartClause g = true ∧
      g.abortDue = [] ∧ g.deadlocked = false ∧ g.resume = some 1 ∧ g.splits.get 1 = some midClause_ ∧ g.overfull = false ∧
      g.Holds 0) ∧ midClause_.wait = .ready ∧ midClause_.mid.isSome = true ∧
    after (.clauseStart 3) (released Wresume) (fun _ g => (g.cur, g.clause.isSome, g.resume)) = some (1, true, none) := by
  refine ⟨⟨_, rfl, ?_, rfl, ?_, rfl, rfl, ?_, .inl rfl⟩, rfl, rfl, ?_⟩ <;> decide +kernel

/-- A queue that a lock covers; decoders up to the end of the address space, over what CXL memory can hold, and beyond it. -/
theorem meets_PeerSteps_barred :
    (let s : State := { Wpeer [] with copies := [(9, lockOf ⟨.va 0x8000, 16, true⟩)] }
     s.blockBarred (frameTo 0x8000) = true) ∧ (Wpeer []).blockBarred (frameTo 0x8001) = false ∧
    decodersSound [⟨2 ^ 52 - 2 ^ 46, 2 ^ 46, [0], 256⟩] = true ∧ decodersSound [⟨0, 2 ^ 46, [0], 256⟩, ⟨2 ^ 47, 256, [1], 256⟩] = false ∧
    2 ^ 52 < (⟨2 ^ 52 - 2 ^ 46, 2 ^ 46 + 1, [0], 256⟩ : Decoder).base + (⟨2 ^ 52 - 2 ^ 46, 2 ^ 46 + 1, [0], 256⟩ : Decoder).len ∧
    (Wpeer []).ringOpen loadCtx = true ∧ (Wpeer []).failed = [] := by
  refine ⟨?_, ?_, ?_, ?_, ?_, ?_, rfl⟩ <;> decide +kernel

/-- A tile whose context is in the machine, and one whose context is in its image; a ring that takes a record. -/
theorem meets_SurrenderSteps_image : (Whandover true []).tileOut 5 = false ∧ ((Whandover true []).teams.get request.team).isSome = true ∧
    (let s := ctxWith (fun c => { c with image := some ⟨[], [(2, loadTeam)], []⟩ }) (Whandover true [])
     s.tileOut 5 = true ∧ s.teamLives 2 = true) ∧
    (Whandover true []).ringOpen loadCtx = true ∧ idle.Holds 24 ∧ W.tileOut 5 = false ∧ W.ringOpen loadCtx = true ∧ W.copies = [] := by
  refine ⟨?_, ?_, ⟨?_, ?_⟩, ?_, .inl rfl, ?_⟩ <;> decide +kernel

/-- Areas at the ends of their alignment; a reply whose record may be written; reversals where no spill waits. -/
theorem meets_BermSteps_aligned : params.hbase % 4096 = 0 ∧ params.spill.getD (2 ^ 22) % 4096 = 0 ∧ params.spillAt % 4096 = 0 ∧
    (Wpark 0x0302#16).replyBarred 0 (parkRec 0x0302#16) = false ∧ loadGroup.Holds 0 ∧ W.failed = [] :=
  ⟨by decide, by decide, by decide, by decide, .inl rfl, rfl⟩

/-- 19 R418: a removed context's mailbox shows the end of its session. -/
theorem test_removal_event : (match exec (.removeContext 0) (Wdbg idle) with
    | .next t => ((t.goneDbg.get 0).map (fun d => (d.attached, d.ring.map (fun x => x.2.code))), t.ctxs.length)
    | _ => (none, 0)) = (some (false, [0x0983]), 0) := by decide +kernel

/-- 09 R237, 06 R195: a group whose spill waits for a MEMW entry that is not complete does not push over its buffer. -/
theorem test_spill_waits : after (.movi always 1#8 7#32)
    (world { operands [0, 5] 0 with grade := .step, hsp := small.hbase + 0x400#57,
                                    hist := { small.hist with hold := some small.hbase.toNat } })
    (fun _ g => (g.ic, g.rdV (.own 1) 0)) = some (0#48, 5#32) := by decide +kernel

end Sys2Proof.Tests
end

section
/-! Proofs/Uniform.lean: the uniform-register instructions (04_lane_integer_control R122, R123). -/

namespace Sys2Proof.Machine

/-- An instruction whose own part is the write of one uniform register ends with that register written. -/
theorem uni_ends {len : Nat} {gd : Guard} {s : State} {c : Iss} {i : Instr} {body : Iss → Run Group} {d : KReg} {x : DWord}
    {ex : Bool} (h : s.Issues len gd c) (hr : c.Room 24) (hi : exec i s = regOp len gd s body)
    (hb : body c = .ok (c.uni d x ex)) : c.Ends i s (uniEffect d x) := by
  unfold Iss.Ends
  rw [hi]
  exact regOp_completes h hr hb (c.g.setK_did c.ex d.toNat x ex) (c.g.setK_within c.ex d.toNat x ex)

/-- A shift amount of six bits stays below 64 (R123). -/
theorem shl64_imm (a : DWord) (n : BitVec 6) : shl64 a n.toNat = a <<< n.toNat :=
  if_neg (Nat.not_le.mpr n.isLt)

theorem shr64_imm (a : DWord) (n : BitVec 6) : shr64 a n.toNat = a >>> n.toNat :=
  if_neg (Nat.not_le.mpr n.isLt)

/-- A shift by a register gives zero from 64 on, by the definition of `shl64`; by a number it never does. -/
theorem kshl_kshr_ends (s : State) (c : Iss) (g : Guard) (d a : KReg) (h : s.Issues 2 g c) (hr : c.Room 24) :
    (∀ b : KReg,
      c.Ends (.kshl g d a (.k b)) s (uniEffect d (if 64 ≤ (c.g.rdK b.toNat).toNat then 0#64
        else c.g.rdK a.toNat <<< (c.g.rdK b.toNat).toNat)) ∧
      c.Ends (.kshr g d a (.k b)) s (uniEffect d (if 64 ≤ (c.g.rdK b.toNat).toNat then 0#64
        else c.g.rdK a.toNat >>> (c.g.rdK b.toNat).toNat))) ∧
    (∀ n : BitVec 6,
      c.Ends (.kshl g d a (.imm n)) s (uniEffect d (c.g.rdK a.toNat <<< n.toNat)) ∧
      c.Ends (.kshr g d a (.imm n)) s (uniEffect d (c.g.rdK a.toNat >>> n.toNat))) := by
  refine ⟨fun b => ⟨uni_ends h hr rfl rfl, uni_ends h hr rfl rfl⟩, fun n => ⟨?_, ?_⟩⟩
  · rw [← shl64_imm]; exact uni_ends h hr rfl rfl
  · rw [← shr64_imm]; exact uni_ends h hr rfl rfl

theorem kmovi_ends (s : State) (c : Iss) (g : Guard) (d : KReg) (m : KmoviMode) (lit : Word) (h : s.Issues 3 g c)
    (hr : c.Room 24) : c.Ends (.kmovi g d m lit) s (uniEffect d (match m with
      | .sx => lit.signExtend 64
      | .zx => lit.setWidth 64
      | .hi => lit ++ (c.g.rdK d.toNat).extractLsb' 0 32)) := by
  cases m with
  | sx => exact uni_ends h hr rfl rfl
  | zx => exact uni_ends h hr rfl rfl
  | hi => exact uni_ends h hr rfl rfl

/-- Settles O7: each form is one recorded write of a uniform register (`uni_ends`), with its value by cases of the form. -/
theorem uniformArithmetic : Obligations.UniformArithmetic := fun s c =>
  ⟨fun _ _ => rfl,
    fun _ h hr => ⟨uni_ends h hr rfl rfl, uni_ends h hr rfl rfl, uni_ends h hr rfl rfl, uni_ends h hr rfl rfl,
      uni_ends h hr rfl rfl, uni_ends h hr rfl rfl⟩,
    fun _ h hr => ⟨uni_ends h hr rfl rfl, uni_ends h hr rfl rfl, uni_ends h hr rfl rfl, uni_ends h hr rfl rfl,
      uni_ends h hr rfl rfl, uni_ends h hr rfl rfl⟩,
    fun g d a h hr => ⟨uni_ends h hr rfl rfl, kshl_kshr_ends s c g d a h hr⟩, kmovi_ends s c⟩

end Sys2Proof.Machine
end

section
/-! Proofs/Reset.lean: what a device reset and the stages of its boot leave (19_debug_host R432, R434). -/

namespace Sys2Proof.Machine

/-! Berm's groups on the system cores (R20, R22). -/

/-- One more of Berm's groups, under the next key: the step that `State.startBerm` takes for each system core. -/
def State.placeBerm (entry : CAddr) (s : State) (n : Nat) : State :=
  s.newId.2.setGroup s.newId.1 (bermGroup .system (256 + n) 0 entry 256)

/-- The device to which Berm's groups come: Berm's context stands, the decoders and routes are set. -/
def State.bermHome (s : State) (b : BootParams) : State :=
  { s with
    ctxs := s.ctxs.put bermKey (bermCtx (b.pages.filter Page.sound))
    decoders := if decodersFit (b.decoders.filter Decoder.sound) then b.decoders.filter Decoder.sound else []
    routes := b.routes }

theorem State.startBerm_eq (s : State) (b : BootParams) :
    s.startBerm b = (List.range 8).foldl (State.placeBerm b.entry) (s.bermHome b) := rfl

/-- A fold over the first k + 1 numbers ends with number k. -/
theorem foldl_range_succ {α : Type} (f : α → Nat → α) (a : α) (k : Nat) :
    (List.range (k + 1)).foldl f a = f ((List.range k).foldl f a) k := by
  rw [List.range_succ, List.foldl_append]; rfl

theorem State.placeBerm_nextId (entry : CAddr) (s : State) (k : Nat) :
    ((List.range k).foldl (State.placeBerm entry) s).nextId = s.nextId + k := by
  induction k with
  | zero => rfl
  | succ k ih => rw [foldl_range_succ]; simp only [State.placeBerm, State.setGroup_nextId, State.newId_nextId, ih]; omega

/-- Nothing but the groups and the next key changes. -/
theorem State.placeBerm_rest (entry : CAddr) (s : State) (k : Nat) :
    { (List.range k).foldl (State.placeBerm entry) s with groups := s.groups, nextId := s.nextId } = s := by
  induction k with
  | zero => rfl
  | succ k ih => rw [foldl_range_succ]; exact ih

/-- Group n of the first k stands under the n-th key. -/
theorem State.placeBerm_get (entry : CAddr) (s : State) (k n : Nat) (hn : n < k) :
    ((List.range k).foldl (State.placeBerm entry) s).groups.get (s.nextId + n) =
      some (bermGroup .system (256 + n) 0 entry 256) := by
  induction k with
  | zero => omega
  | succ k ih =>
    have hid : ((List.range k).foldl (State.placeBerm entry) s).newId.1 = s.nextId + k := s.placeBerm_nextId entry k
    rw [foldl_range_succ, State.placeBerm, State.setGroup_groups, Tbl.get_put, hid]
    by_cases h : n = k
    · rw [if_pos (by omega), h]
    · rw [if_neg (by omega)]; exact ih (by omega)

/-- Berm runs on each of the eight system cores, and nothing changes but what `State.bermHome` sets, the groups and the
next key. -/
theorem State.startBerm_group (s : State) (b : BootParams) (n : Nat) (hn : n < 8) :
    (s.startBerm b).groups.get (s.nextId + n) = some (bermGroup .system (256 + n) 0 b.entry 256) :=
  (s.bermHome b).placeBerm_get b.entry 8 n hn

theorem State.startBerm_rest (s : State) (b : BootParams) :
    { s.startBerm b with groups := s.groups, nextId := s.nextId } = s.bermHome b :=
  (s.bermHome b).placeBerm_rest b.entry 8

@[simp] theorem State.startBerm_mem (s : State) (b : BootParams) : (s.startBerm b).mem = s.mem := by
  have h := congrArg State.mem (s.startBerm_rest b); exact h
@[simp] theorem State.startBerm_field (s : State) (b : BootParams) : (s.startBerm b).field = s.field := by
  have h := congrArg State.field (s.startBerm_rest b); exact h
@[simp] theorem State.startBerm_mgmt (s : State) (b : BootParams) : (s.startBerm b).mgmt = s.mgmt := by
  have h := congrArg State.mgmt (s.startBerm_rest b); exact h
@[simp] theorem State.startBerm_ctxs (s : State) (b : BootParams) :
    (s.startBerm b).ctxs = s.ctxs.put bermKey (bermCtx (b.pages.filter Page.sound)) := by
  have h := congrArg State.ctxs (s.startBerm_rest b); exact h

/-! The stages (R434). -/

/-- The management side at a stage. -/
def State.atStage (s : State) (b : BootParams) : State :=
  { s with mgmt := { s.mgmt with
      stage := (BootParams.next b s.mgmt.stage).1, reason := (BootParams.next b s.mgmt.stage).2
      booting := !bootEnds (BootParams.next b s.mgmt.stage).1, monitor := b.monitor } }

/-- The polder divided (R178). -/
def State.divided (s : State) (b : BootParams) : State :=
  { s with mgmt := { s.mgmt with split := (List.range 4).map (fun i => min 7 (b.split.getD i 0)) } }

theorem State.bootStep_eq (s : State) (b : BootParams) : s.bootStep b =
    if (BootParams.next b s.mgmt.stage).1 = 4 then ((s.atStage b).divided b).startBerm b else s.atStage b := rfl

theorem BootParams.next_four (b : BootParams) (n : Nat) : (BootParams.next b n).1 = 4 ↔ n = 3 := by
  unfold BootParams.next
  by_cases h1 : n = 1
  · cases b.slot0 <;> cases b.slot1 <;> simp [h1]
  · by_cases h2 : n = 2
    · cases b.berm <;> simp [h2]
    · by_cases h3 : n = 3 <;> simp [h1, h2, h3]

/-- Every stage but the fourth changes the management side alone. -/
theorem State.bootStep_plain (s : State) (b : BootParams) (h : s.mgmt.stage ≠ 3) : s.bootStep b = s.atStage b := by
  rw [State.bootStep_eq, if_neg (fun h4 => h ((BootParams.next_four b _).mp h4))]

theorem State.bootStep_berm (s : State) (b : BootParams) (h : s.mgmt.stage = 3) :
    s.bootStep b = ((s.atStage b).divided b).startBerm b := by
  rw [State.bootStep_eq, if_pos ((BootParams.next_four b _).mpr h)]

theorem State.bootStep_mem_field (s : State) (b : BootParams) : (s.bootStep b).mem = s.mem ∧ (s.bootStep b).field = s.field := by
  by_cases h : s.mgmt.stage = 3
  · rw [s.bootStep_berm b h, State.startBerm_mem, State.startBerm_field]; exact ⟨rfl, rfl⟩
  · rw [s.bootStep_plain b h]; exact ⟨rfl, rfl⟩

/-- With stage 4 the polder is divided, and Berm runs on the system cores (R178, R434). -/
theorem State.bootStep_stage4 (s : State) (b : BootParams) (h : s.mgmt.stage = 3) :
    (s.bootStep b).mgmt.stage = 4 ∧ (s.bootStep b).mgmt.booting = true ∧
      (∀ d n, d < 4 → b.split[d]? = some n → (s.bootStep b).mgmt.split[d]? = some (min 7 n)) ∧
      ((s.bootStep b).ctxs.get bermKey).isSome = true ∧
      (∀ n, n < 8 → ∃ i g, (s.bootStep b).groups.get i = some g ∧ g.core = 256 + n ∧ g.mode = .system ∧
        g.splits.get 0 = some ⟨b.entry, BitVec.allOnes 32, 0#57, 0#48, .ready, none⟩) := by
  rw [s.bootStep_berm b h]
  simp only [State.startBerm_mgmt, State.startBerm_ctxs, Tbl.get_put_self, State.divided, State.atStage, h]
  refine ⟨rfl, rfl, fun d n hd hn => ?_, rfl, fun n hn => ⟨_, _, State.startBerm_group _ b n hn, rfl, rfl, rfl⟩⟩
  simp [List.getElem?_range hd, List.getD, hn]

/-- A stage whose image does not verify ends the boot in the failed state, with its number (R434). -/
theorem State.bootStep_images (s : State) (b : BootParams) :
    (s.mgmt.stage = 1 → (b.slot0 || b.slot1) = true → (s.bootStep b).mgmt.stage = 2 ∧ (s.bootStep b).mgmt.booting = true) ∧
    (s.mgmt.stage = 1 → (b.slot0 || b.slot1) = false →
      (s.bootStep b).mgmt.stage = 0x3F ∧ (s.bootStep b).mgmt.reason = 1 ∧ (s.bootStep b).mgmt.booting = false) ∧
    (s.mgmt.stage = 2 → b.berm = true → (s.bootStep b).mgmt.stage = 3 ∧ (s.bootStep b).mgmt.booting = true) ∧
    (s.mgmt.stage = 2 → b.berm = false →
      (s.bootStep b).mgmt.stage = 0x3F ∧ (s.bootStep b).mgmt.reason = 2 ∧ (s.bootStep b).mgmt.booting = false) := by
  refine ⟨fun h hv => ?_, fun h hv => ?_, fun h hv => ?_, fun h hv => ?_⟩
  all_goals
    rw [s.bootStep_plain b (by omega)]
    simp [State.atStage, BootParams.next, bootEnds, h, hv]

/-- The last stage ends the boot and changes no context and no group (R434). -/
theorem State.bootStep_stage5 (s : State) (b : BootParams) (h : s.mgmt.stage = 4) :
    (s.bootStep b).mgmt.stage = 5 ∧ (s.bootStep b).mgmt.reason = 0 ∧ (s.bootStep b).mgmt.booting = false ∧
      (s.bootStep b).ctxs = s.ctxs ∧ (s.bootStep b).groups = s.groups := by
  rw [s.bootStep_plain b (by omega)]
  simp [State.atStage, BootParams.next, bootEnds, h]

/-! The enabled cores (R1, R425). -/

/-- At the first reset a die has the cores that its part is sold with. -/
theorem resetOf_enabled (p : Part) (d i : Nat) (hd : d < 4) (hi : i < 64) :
    (State.resetOf p).enabled (64 * d + i) = p.mask.getLsbD i := by
  have h1 : (64 * d + i) / 64 = d := by omega
  have h2 : (64 * d + i) % 64 = i := by omega
  have h3 : ([p.mask, p.mask, p.mask, p.mask] : List DWord).getD d 0#64 = p.mask := by
    rcases d with _ | _ | _ | _ | d
    · rfl
    · rfl
    · rfl
    · rfl
    · omega
  unfold State.enabled State.enabledMask
  rw [h1, h2]
  show (([p.mask, p.mask, p.mask, p.mask] : List DWord).getD d 0#64 &&& p.mask).getLsbD i = p.mask.getLsbD i
  rw [h3, BitVec.and_self]

theorem resetOf_enabled_count (p : Part) (d : Nat) (hd : d < 4) :
    ((List.range 64).filter (fun i => (State.resetOf p).enabled (64 * d + i))).length = if p = .gxv240M then 60 else 64 := by
  have h : (List.range 64).filter (fun i => (State.resetOf p).enabled (64 * d + i)) =
      (List.range 64).filter (fun i => p.mask.getLsbD i) :=
    List.filter_congr (fun i hi => resetOf_enabled p d i hd (List.mem_range.mp hi))
  rw [h]
  cases p with
  | gxv256M => decide
  | gxv256P => decide
  | gxv240M => decide

/-- A GXV-256M has every core. -/
theorem reset_enabled (c : Nat) (hc : c < 256) : State.reset.enabled c = true := by
  have h := resetOf_enabled .gxv256M (c / 64) (c % 64) (by omega) (Nat.mod_lt _ (by decide))
  rw [Nat.div_add_mod] at h
  refine h.trans ?_
  show (BitVec.allOnes 64).getLsbD (c % 64) = true
  rw [BitVec.getLsbD_allOnes, decide_eq_true (Nat.mod_lt _ (by decide))]

/-- Settles O60: nothing is listed at reset. -/
theorem resetStorageCanonical : Obligations.ResetStorageCanonical := rfl

/-- Settles O52: a reset takes the state of `State.resetOf` with what it keeps; a boot step is `State.bootStep`, stage by
stage; the cores are those of the part's mask. -/
theorem resets : Obligations.Resets := by
  refine ⟨fun s b h => ⟨_, congrArg Host.Outcome.next (if_neg (by rw [h]; exact Bool.false_ne_true)), ?_⟩, fun s b h => ?_, ?_, fun p => ?_⟩
  · repeat' apply And.intro
    all_goals rfl
  · obtain ⟨hmem, hfield⟩ := s.bootStep_mem_field b
    obtain ⟨hs1, hs1', hs2, hs2'⟩ := s.bootStep_images b
    exact ⟨s.bootStep b, congrArg Host.Outcome.next (if_pos h), hmem, hfield, hs1, hs1', hs2, hs2', s.bootStep_stage4 b,
      s.bootStep_stage5 b⟩
  · exact ⟨rfl, rfl, rfl, rfl, rfl, rfl, fun _ => reset_enabled⟩
  · have h : (List.range 4).map (fun d => ((List.range 64).filter (fun i => (State.resetOf p).enabled (64 * d + i))).length) =
        (List.range 4).map (fun _ => if p = .gxv240M then 60 else 64) :=
      List.map_congr_left (fun d hd => resetOf_enabled_count p d (List.mem_range.mp hd))
    rw [h]
    split <;> rfl

end Sys2Proof.Machine
end

section
/-! Proofs/Homes.lean: bytes performed at their homes read back there (00_scope R5, 07_memory_order R204). -/

namespace Sys2Proof.Machine

/-- A quantity that no step of a fold changes. -/
theorem foldl_keeps {σ α β : Type} (f : σ → α → σ) (p : σ → β) (h : ∀ s a, p (f s a) = p s) (l : List α) (s : σ) :
    p (l.foldl f s) = p s := by
  induction l generalizing s with
  | nil => rfl
  | cons a l ih => exact (ih (f s a)).trans (h s a)

/-- Where the bytes are at home. -/
def State.homes (s : State) : Cells 8 × Cells 8 × Tbl Team × Tbl Group := (s.mem, s.polder, s.teams, s.groups)

theorem State.homeRead_congr {s t : State} (h : t.homes = s.homes) (p : Place) : t.homeRead p = s.homeRead p := by
  simp only [State.homes, Prod.mk.injEq] at h
  obtain ⟨hm, hp, ht, hg⟩ := h
  cases p with
  | glob pa => simp only [State.homeRead, hm]
  | pol i => simp only [State.homeRead, hp]
  | cs t o => simp only [State.homeRead, ht]
  | scr g o => simp only [State.homeRead, hg]

theorem State.cacheLine_homes (s : State) (line : Nat) : (s.cacheLine line).homes = s.homes := by
  unfold State.cacheLine State.pickVictim
  dsimp only
  split
  · rfl
  · split <;> rfl

theorem State.invalidate_homes (s : State) (writer line : Nat) : (s.invalidate writer line).homes = s.homes := by
  refine foldl_keeps _ State.homes (fun s c => ?_) _ s
  split <;> rfl

theorem State.homeByte_homes (s : State) (writer pa : Nat) (b : Byte) :
    (s.homeByte writer pa b).homes = (s.mem.set pa b, s.polder, s.teams, s.groups) := by
  have h := s.cacheLine_homes (lineOf pa)
  simp only [State.homes, Prod.mk.injEq] at h
  obtain ⟨hm, hp, ht, hg⟩ := h
  simp only [State.homes, State.homeByte, hm, hp, ht, hg]

/-- The team or group whose storage holds the place is there. -/
def State.hasHome (s : State) : Place → Prop
  | .glob _ => True
  | .pol _ => True
  | .cs t _ => (s.teams.get t).isSome = true
  | .scr g _ => (s.groups.get g).isSome = true

/-- Read after write, at every home. -/
theorem State.homeRead_putByte (s : State) (writer : Nat) (p q : Place) (b : Byte) (hp : s.hasHome p) :
    (s.putByte writer p b).homeRead q = if q = p then b else s.homeRead q := by
  cases p with
  | glob pa =>
    have h : (s.putByte writer (.glob pa) b).homes = ({ s with mem := s.mem.set pa b } : State).homes :=
      s.homeByte_homes writer pa b
    rw [State.homeRead_congr h]
    cases q <;> simp [State.homeRead, Cells.get_set]
  | pol i => cases q <;> simp [State.putByte, State.homeRead, Cells.get_set]
  | cs t o =>
    obtain ⟨x, hx⟩ := Option.isSome_iff_exists.mp hp
    cases q with
    | cs u k => by_cases hu : u = t <;> simp [State.putByte, State.homeRead, Tbl.get_upd, Cells.get_set, hx, hu]
    | glob _ => rfl
    | pol _ => rfl
    | scr _ _ => rfl
  | scr g o =>
    obtain ⟨x, hx⟩ := Option.isSome_iff_exists.mp hp
    cases q with
    | scr u k => by_cases hu : u = g <;> simp [State.putByte, State.homeRead, Tbl.get_upd, Cells.get_set, hx, hu]
    | glob _ => rfl
    | pol _ => rfl
    | cs _ _ => rfl

/-- A byte put takes no team and no group away. -/
theorem State.hasHome_putByte (s : State) (writer : Nat) (p q : Place) (b : Byte) (h : s.hasHome q) :
    (s.putByte writer p b).hasHome q := by
  have hglob (pa : Nat) : (s.homeByte writer pa b).teams = s.teams ∧ (s.homeByte writer pa b).groups = s.groups := by
    have h := s.homeByte_homes writer pa b
    simp only [State.homes, Prod.mk.injEq] at h
    exact h.2.2
  cases q with
  | glob _ => trivial
  | pol _ => trivial
  | cs t o =>
    cases p with
    | glob pa => simpa [State.hasHome, State.putByte, (hglob pa).1] using h
    | pol _ => exact h
    | cs u k =>
      simp only [State.hasHome, State.putByte, State.updTeam_teams, Tbl.get_upd] at h ⊢
      split <;> simp_all
    | scr _ _ => exact h
  | scr g o =>
    cases p with
    | glob pa => simpa [State.hasHome, State.putByte, (hglob pa).2] using h
    | pol _ => exact h
    | cs _ _ => exact h
    | scr u k =>
      simp only [State.hasHome, State.putByte, State.updGroup_groups, Tbl.get_upd] at h ⊢
      split <;> simp_all

/-- What follows a run of bytes put: the invalidations of their lines and the words made good, none of it at a home. -/
theorem State.homeRead_putBytes (s : State) (writer : Nat) (bs : List (Place × Byte)) (q : Place) :
    (s.putBytes writer bs).homeRead q = (bs.foldl (fun s b => s.putByte writer b.1 b.2) s).homeRead q := by
  refine State.homeRead_congr ?_ q
  show State.homes (List.foldl _ _ _) = _
  exact foldl_keeps _ State.homes (fun s l => s.invalidate_homes writer l) _ _

/-- Bytes put leave every other place as it is. -/
theorem State.homeRead_foldl_other (writer : Nat) (bs : List (Place × Byte)) (q : Place) (hq : q ∉ bs.map Prod.fst) :
    ∀ s : State, (∀ p ∈ bs.map Prod.fst, s.hasHome p) →
      (bs.foldl (fun s b => s.putByte writer b.1 b.2) s).homeRead q = s.homeRead q := by
  induction bs with
  | nil => exact fun _ _ => rfl
  | cons c bs ih =>
    intro s hs
    simp only [List.map_cons, List.mem_cons, not_or, forall_eq_or_imp] at hq hs
    obtain ⟨hc, hbs⟩ := hs
    rw [List.foldl_cons, ih hq.2 _ (fun p hp => s.hasHome_putByte writer c.1 p c.2 (hbs p hp)),
      s.homeRead_putByte writer c.1 q c.2 hc, if_neg hq.1]

/-- Bytes put at distinct places read back. -/
theorem State.homeRead_foldl_mem (writer : Nat) (bs : List (Place × Byte)) (hn : (bs.map Prod.fst).Nodup) :
    ∀ s : State, (∀ p ∈ bs.map Prod.fst, s.hasHome p) → ∀ c ∈ bs,
      (bs.foldl (fun s b => s.putByte writer b.1 b.2) s).homeRead c.1 = c.2 := by
  induction bs with
  | nil => exact fun _ _ c hc => absurd hc List.not_mem_nil
  | cons d bs ih =>
    intro s hs c hc
    simp only [List.map_cons, List.nodup_cons, List.mem_cons, forall_eq_or_imp] at hn hs
    obtain ⟨hd, hbs⟩ := hs
    have hbs' : ∀ p ∈ bs.map Prod.fst, (s.putByte writer d.1 d.2).hasHome p :=
      fun p hp => s.hasHome_putByte writer d.1 p d.2 (hbs p hp)
    rw [List.foldl_cons]
    rcases List.mem_cons.mp hc with rfl | hc
    · rw [State.homeRead_foldl_other writer bs c.1 hn.1 _ hbs', s.homeRead_putByte writer c.1 c.1 c.2 hd, if_pos rfl]
    · exact ih hn.2 _ hbs' c hc

/-! Bytes as a number (R5). -/

theorem leBytes_length (n x : Nat) : (leBytes n x).length = n := by
  induction n generalizing x with
  | zero => rfl
  | succ n ih => rw [leBytes, List.length_cons, ih]

theorem leNat_leBytes (n x : Nat) : leNat (leBytes n x) = x % 256 ^ n := by
  induction n generalizing x with
  | zero => simp [leBytes, leNat, Nat.mod_one]
  | succ n ih =>
    have h : x % 256 ^ (n + 1) = x % 256 + 256 * (x / 256 % 256 ^ n) := by rw [Nat.pow_succ', Nat.mod_mul]
    rw [leBytes, leNat, ih, h]; rfl

theorem bytesAt_fst (ps : List Place) (x : Nat) : (bytesAt ps x).map Prod.fst = ps :=
  List.map_fst_zip (leBytes_length ps.length x).ge

theorem bytesAt_snd (ps : List Place) (x : Nat) : (bytesAt ps x).map Prod.snd = leBytes ps.length x :=
  List.map_snd_zip (leBytes_length ps.length x).le

/-- Places that read as the bytes of a number hold that number. -/
theorem State.homeNat_of_bytesAt (t : State) (ps : List Place) (x : Nat) (h : ∀ c ∈ bytesAt ps x, t.homeRead c.1 = c.2) :
    t.homeNat ps = x % 256 ^ ps.length := by
  have hmap : ps.map t.homeRead = leBytes ps.length x := by
    calc ps.map t.homeRead = ((bytesAt ps x).map Prod.fst).map t.homeRead := by rw [bytesAt_fst]
      _ = (bytesAt ps x).map Prod.snd := by rw [List.map_map]; exact List.map_congr_left h
      _ = leBytes ps.length x := bytesAt_snd ps x
  rw [State.homeNat, hmap, leNat_leBytes]

/-- The bytes of a number stored at distinct places that exist read back (R5). -/
theorem State.homeNat_putBytes (s : State) (writer : Nat) (ps : List Place) (x : Nat) (hn : ps.Nodup)
    (hs : ∀ p ∈ ps, s.hasHome p) : (s.putBytes writer (bytesAt ps x)).homeNat ps = x % 256 ^ ps.length := by
  refine State.homeNat_of_bytesAt _ ps x (fun c hc => ?_)
  rw [State.homeRead_putBytes]
  exact State.homeRead_foldl_mem writer _ (by rwa [bytesAt_fst]) s (by rwa [bytesAt_fst]) c hc

theorem State.homeRead_putBytes_other (s : State) (writer : Nat) (ps : List Place) (x : Nat) (hs : ∀ p ∈ ps, s.hasHome p)
    (q : Place) (hq : q ∉ ps) : (s.putBytes writer (bytesAt ps x)).homeRead q = s.homeRead q := by
  rw [State.homeRead_putBytes]
  exact State.homeRead_foldl_other writer _ q (by rwa [bytesAt_fst]) s (by rwa [bytesAt_fst])

end Sys2Proof.Machine
end

section
/-! Proofs/Forward.lean: a group's load takes its own last store, from the write-combining buffer or from behind it
(06_memory_port R181, 07_memory_order R201, R206). -/

namespace Sys2Proof.Machine

/-! Tables. -/

theorem Tbl.get_dropWhile_self {α : Type} (t : Tbl α) (a b : Nat) (h : b ≤ a) :
    Tbl.get (t.dropWhile (fun c => c.1 ≤ a)) b = none := by
  induction t with
  | nil => rfl
  | cons c t ih =>
    by_cases hc : c.1 ≤ a
    · rw [List.dropWhile_cons_of_pos (by simpa using hc)]; exact ih
    · rw [List.dropWhile_cons_of_neg (by simpa using hc)]
      obtain ⟨k, x⟩ := c
      have : b < k := by simp at hc; omega
      simp only [Tbl.get, if_pos this]

theorem Tbl.get_dropWhile_above {α : Type} (t : Tbl α) (a b : Nat) (h : a < b) :
    Tbl.get (t.dropWhile (fun c => c.1 ≤ a)) b = Tbl.get t b := by
  induction t with
  | nil => rfl
  | cons c t ih =>
    by_cases hc : c.1 ≤ a
    · rw [List.dropWhile_cons_of_pos (by simpa using hc), ih]
      obtain ⟨k, x⟩ := c
      have h1 : ¬ b < k := by simp at hc; omega
      have h2 : ¬ b = k := by simp at hc; omega
      simp only [Tbl.get, if_neg h1, if_neg h2]
    · rw [List.dropWhile_cons_of_neg (by simpa using hc)]

/-- Read after a deletion. -/
theorem Tbl.get_del {α : Type} (t : Tbl α) (a b : Nat) : Tbl.get (t.del a) b = if b = a then none else Tbl.get t b := by
  induction t with
  | nil => simp [Tbl.del, Tbl.get]
  | cons c t ih =>
    obtain ⟨k, x⟩ := c
    unfold Tbl.del
    rcases Nat.lt_trichotomy a k with h | rfl | h
    · rw [if_pos h]
      by_cases hb : b = a
      · have : b < k := by omega
        simp [hb, Tbl.get, h]
      · rw [if_neg hb]
    · rw [if_neg (Nat.lt_irrefl a), if_pos rfl]
      by_cases hb : b ≤ a
      · rw [Tbl.get_dropWhile_self t a b hb]
        by_cases hb' : b = a
        · rw [if_pos hb']
        · have : b < a := by omega
          simp [hb', Tbl.get, this]
      · have h1 : ¬ b < a := by omega
        have h2 : ¬ b = a := by omega
        rw [Tbl.get_dropWhile_above t a b (by omega)]
        simp [Tbl.get, h1, h2]
    · rw [if_neg (by omega), if_neg (by omega)]
      simp only [Tbl.get, ih]
      by_cases hb : b = a
      · have h1 : ¬ a < k := by omega
        have h2 : ¬ a = k := by omega
        simp [hb, h1, h2]
      · simp [hb]

/-- Values changed entry by entry, the keys kept. -/
theorem Tbl.get_map {α β : Type} (t : Tbl α) (f : Nat → α → β) (a : Nat) :
    Tbl.get (t.map (fun c => (c.1, f c.1 c.2))) a = (Tbl.get t a).map (f a) := by
  induction t with
  | nil => rfl
  | cons c t ih =>
    obtain ⟨k, x⟩ := c
    simp only [List.map_cons, Tbl.get, ih]
    by_cases h1 : a < k
    · simp [h1]
    · by_cases h2 : a = k
      · subst h2; simp
      · simp [h1, h2]

theorem Tbl.wf_map {α β : Type} (t : Tbl α) (f : Nat → α → β) (h : Tbl.wf t = true) :
    Tbl.wf (t.map (fun c => (c.1, f c.1 c.2))) = true := by
  induction t with
  | nil => rfl
  | cons c t ih =>
    cases t with
    | nil => rfl
    | cons d t =>
      simp only [Tbl.wf, List.map_cons, Bool.and_eq_true] at h ih ⊢
      exact ⟨h.1, ih h.2⟩

/-- In a rising table the keys behind the first are above it. -/
theorem Tbl.lt_of_wf {α : Type} (k : Nat) (x : α) (t : Tbl α) (h : Tbl.wf ((k, x) :: t) = true) : ∀ c ∈ t, k < c.1 := by
  induction t generalizing k x with
  | nil => exact fun c hc => absurd hc List.not_mem_nil
  | cons d t ih =>
    obtain ⟨k', x'⟩ := d
    simp only [Tbl.wf, Bool.and_eq_true, decide_eq_true_eq] at h
    obtain ⟨hk, ht⟩ := h
    intro c hc
    rcases List.mem_cons.mp hc with rfl | hc
    · exact hk
    · exact Nat.lt_trans hk (ih k' x' ht c hc)

/-! The core of the writer. -/

theorem State.core_setCore (s : State) (i j : Nat) (x : Core) : (s.setCore i x).core j = if j = i then x else s.core j := by
  unfold State.core
  rw [State.setCore_cores, Tbl.get_put]
  split <;> rfl

@[simp] theorem State.core_setCore_self (s : State) (i : Nat) (x : Core) : (s.setCore i x).core i = x := by
  rw [State.core_setCore, if_pos rfl]

/-- A byte performed at its home marks the copies of every core (R204). -/
theorem State.core_homeByte (s : State) (writer pa c : Nat) (b : Byte) :
    (s.homeByte writer pa b).core c = (staleIn writer pa (s.mem.get pa) (c, s.core c)).2 := by
  have hc : (s.homeByte writer pa b).cores = s.cores.map (fun d => (d.1, (staleIn writer pa (s.mem.get pa) (d.1, d.2)).2)) :=
    congrArg (List.map (staleIn writer pa (s.mem.get pa))) (s.cacheLine_keeps (lineOf pa)).2.2
  unfold State.core
  rw [hc, Tbl.get_map s.cores (fun i x => (staleIn writer pa (s.mem.get pa) (i, x)).2)]
  cases s.cores.get c <;> rfl

theorem State.homeByte_mem (s : State) (writer pa : Nat) (b : Byte) : (s.homeByte writer pa b).mem = s.mem.set pa b :=
  congrArg Prod.fst (s.homeByte_homes writer pa b)

/-- The invalidations that a home sends change neither memory nor the writer's core (R204). -/
theorem State.core_invalidate (s : State) (writer line : Nat) : (s.invalidate writer line).core writer = s.core writer := by
  refine foldl_keeps _ (fun t : State => t.core writer) (fun t c => ?_) _ s
  dsimp only
  split
  · rfl
  · rename_i h
    have hc : writer ≠ c := fun e => h (by simp [e])
    exact (State.core_setCore t c writer _).trans (if_neg hc)

theorem State.invalidate_mem (s : State) (writer line : Nat) : (s.invalidate writer line).mem = s.mem :=
  congrArg Prod.fst (s.invalidate_homes writer line)

/-- Bytes performed at their homes: what memory and the writer's core are after them. -/
theorem State.homeWrite_mem (s : State) (writer : Nat) (bs : List (Nat × Byte)) :
    (s.homeWrite writer bs).mem = (bs.foldl (fun s b => s.homeByte writer b.1 b.2) s).mem :=
  foldl_keeps _ State.mem (fun t l => t.invalidate_mem writer l) _ _

theorem State.core_homeWrite (s : State) (writer : Nat) (bs : List (Nat × Byte)) :
    (s.homeWrite writer bs).core writer = (bs.foldl (fun s b => s.homeByte writer b.1 b.2) s).core writer :=
  foldl_keeps _ (fun t : State => t.core writer) (fun t l => t.core_invalidate writer l) _ _

theorem State.homeWrite_wcb (s : State) (writer : Nat) (bs : List (Nat × Byte)) :
    ((s.homeWrite writer bs).core writer).wcb = (s.core writer).wcb := by
  rw [State.core_homeWrite]
  exact foldl_keeps _ (fun t : State => (t.core writer).wcb) (fun t b => by rw [State.core_homeByte]; rfl) _ _

/-! A byte that the core's own copies hold as its home does. -/

/-- No copy of a core holds an older value of the byte (R204). -/
def State.upToDate (s : State) (core pa : Nat) : Prop :=
  ∀ x ∈ (s.core core).l1, x.line = lineOf pa → x.priv = false → x.stale.get pa = none

theorem State.l1Read_of_upToDate {s : State} {core pa : Nat} (h : s.upToDate core pa) : s.l1Read core pa = s.mem.get pa := by
  unfold State.l1Read
  split
  · rename_i x hx
    have hp := List.find?_some hx
    simp only [Bool.and_eq_true, beq_iff_eq, Bool.not_eq_true'] at hp
    rw [h x (List.mem_of_find?_eq_some hx) hp.1 hp.2]; rfl
  · rfl

/-- The writer's own copies take the byte (R204). -/
theorem State.upToDate_homeByte_self (s : State) (core pa : Nat) (b : Byte) : (s.homeByte core pa b).upToDate core pa := by
  intro y hy hl hp
  rw [State.core_homeByte] at hy
  simp only [staleIn, List.mem_map] at hy
  obtain ⟨x, -, rfl⟩ := hy
  by_cases hx : x.line = lineOf pa
  · simp only [hx, if_true] at hp ⊢
    simp only [hp, Bool.not_false, Bool.and_true, decide_true, if_true, Tbl.get_del]
  · simp only [hx, if_false] at hl

theorem State.upToDate_homeByte {s : State} {core pa : Nat} (h : s.upToDate core pa) (a : Nat) (b : Byte) :
    (s.homeByte core a b).upToDate core pa := by
  intro y hy hl hp
  rw [State.core_homeByte] at hy
  simp only [staleIn, List.mem_map] at hy
  obtain ⟨x, hx, rfl⟩ := hy
  by_cases ha : x.line = lineOf a
  · simp only [ha, if_true] at hl hp ⊢
    simp only [hp, Bool.not_false, Bool.and_true, decide_true, if_true, Tbl.get_del]
    split
    · rfl
    · exact h x hx (ha.trans hl) hp
  · simp only [ha, if_false] at hl hp ⊢
    exact h x hx hl hp

/-- The byte stands at home with this value, and the core's copies agree. -/
def State.Settled (s : State) (core pa : Nat) (b : Byte) : Prop := s.mem.get pa = b ∧ s.upToDate core pa

theorem State.settled_homeByte_other {s : State} {core pa : Nat} {b : Byte} (h : s.Settled core pa b) (a : Nat) (x : Byte)
    (ha : pa ≠ a) : (s.homeByte core a x).Settled core pa b :=
  ⟨by rw [State.homeByte_mem, Cells.get_set_ne _ _ _ _ ha]; exact h.1, State.upToDate_homeByte h.2 a x⟩

theorem State.settled_homeByte_self (s : State) (core pa : Nat) (b : Byte) : (s.homeByte core pa b).Settled core pa b :=
  ⟨by rw [State.homeByte_mem, Cells.get_set_self], s.upToDate_homeByte_self core pa b⟩

theorem State.settled_foldl_other (core pa : Nat) (b : Byte) (bs : List (Nat × Byte)) (hb : ∀ c ∈ bs, pa ≠ c.1) :
    ∀ s : State, s.Settled core pa b → (bs.foldl (fun s c => s.homeByte core c.1 c.2) s).Settled core pa b := by
  induction bs with
  | nil => exact fun _ h => h
  | cons c bs ih =>
    exact fun s h => ih (fun d hd => hb d (List.mem_cons_of_mem c hd)) _
      (State.settled_homeByte_other h c.1 c.2 (hb c List.mem_cons_self))

/-- The bytes of a line, each listed once, are at their homes after the line has drained. -/
theorem State.settled_foldl (core pa : Nat) (b : Byte) (bs : Tbl Byte) (hw : Tbl.wf bs = true) (hg : bs.get pa = some b) :
    ∀ s : State, (bs.foldl (fun s c => s.homeByte core c.1 c.2) s).Settled core pa b := by
  induction bs with
  | nil => cases hg
  | cons c bs ih =>
    obtain ⟨k, x⟩ := c
    intro s
    rw [List.foldl_cons]
    simp only [Tbl.get] at hg
    split at hg
    · cases hg
    · split at hg
      · rename_i hk
        subst hk
        cases hg
        exact State.settled_foldl_other core pa b bs (fun c hc => (Tbl.lt_of_wf pa b bs hw c hc).ne) _
          (s.settled_homeByte_self core pa b)
      · exact ih (Tbl.wf_tail hw) hg _

theorem State.settled_homeWrite (s : State) (core pa : Nat) (b : Byte) (bs : Tbl Byte) (hw : Tbl.wf bs = true)
    (hg : bs.get pa = some b) : (s.homeWrite core bs).Settled core pa b := by
  obtain ⟨hm, hu⟩ := State.settled_foldl core pa b bs hw hg s
  refine ⟨by rw [State.homeWrite_mem]; exact hm, ?_⟩
  unfold State.upToDate
  rw [State.core_homeWrite]
  exact hu

/-! The buffer. -/

/-- A drained line is no longer in the buffer, the others still are (R206). -/
theorem State.drainLine_wcb (s : State) (core line : Nat) :
    ((s.drainLine core line).core core).wcb = (s.core core).wcb.filter (fun x => x.line != line) := by
  unfold State.drainLine
  split
  · rename_i h
    refine (List.filter_eq_self.mpr (fun x hx => ?_)).symm
    have := List.find?_eq_none.mp h x hx
    simpa using this
  · rw [State.homeWrite_wcb]
    exact congrArg Core.wcb (State.core_setCore_self s core _)

theorem State.drainLine_settled (s : State) (core pa : Nat) (w : WLine) (o : WByte)
    (hl : (s.core core).wline (lineOf pa) = some w) (hw : Tbl.wf w.bytes = true) (ho : w.bytes.get pa = some o) :
    (s.drainLine core (lineOf pa)).Settled core pa o.val := by
  unfold State.drainLine
  rw [hl]
  refine State.settled_homeWrite _ core pa o.val _ (Tbl.wf_map w.bytes (fun _ x => x.val) hw) ?_
  rw [Tbl.get_map w.bytes (fun _ x => x.val), ho]; rfl

/-- A group's byte in the buffer, written last by it. -/
def State.Buffered (s : State) (core gid pa : Nat) (b : Byte) : Prop :=
  ∃ w o, (s.core core).wline (lineOf pa) = some w ∧ w.bytes.get pa = some o ∧ o.val = b ∧ o.last = gid

theorem State.wbyte_of_wline {s : State} {core pa : Nat} {w : WLine} (h : (s.core core).wline (lineOf pa) = some w) :
    s.wbyte core pa = w.bytes.get pa := by
  unfold State.wbyte
  rw [show (s.core core).wcb.find? (fun w => w.line == lineOf pa) = some w from h]; rfl

/-- A byte put into a line of a buffer. -/
theorem wline_put (l : List WLine) (line pa : Nat) (o : WByte) (w : WLine) (h : l.find? (fun w => w.line == line) = some w) :
    (l.map (fun x => if x.line = line then { x with bytes := x.bytes.put pa o } else x)).find? (fun w => w.line == line) =
      some { w with bytes := w.bytes.put pa o } := by
  have hp : ((fun w : WLine => w.line == line) ∘ fun x => if x.line = line then { x with bytes := x.bytes.put pa o } else x) =
      fun w => w.line == line := by
    funext x
    simp only [Function.comp]
    split <;> rfl
  have hline : w.line = line := by simpa using List.find?_some h
  rw [List.find?_map, hp, h, Option.map_some, if_pos hline]

/-- A byte that enters the buffer is there (R206). -/
theorem State.buffered_wcbByte (s : State) (core gid pa : Nat) (b : Byte) :
    (s.wcbByte core gid pa b).Buffered core gid pa b := by
  unfold State.wcbByte
  dsimp only
  split
  · rename_i w hw
    exact ⟨_, _, (congrArg (fun c => Core.wline c (lineOf pa)) (State.core_setCore_self _ _ _)).trans
      (wline_put _ _ _ _ _ hw), Tbl.get_put_self _ _ _, rfl, rfl⟩
  · rename_i hw
    refine ⟨⟨lineOf pa, [(pa, ⟨b, gid, [gid]⟩)]⟩, ⟨b, gid, [gid]⟩, ?_, by simp [Tbl.get], rfl, rfl⟩
    have hnone (t : State) (ht : ∀ x ∈ (t.core core).wcb, x ∈ (s.core core).wcb) :
        (t.core core).wcb.find? (fun w => w.line == lineOf pa) = none :=
      List.find?_eq_none.mpr (fun x hx => List.find?_eq_none.mp hw x (ht x hx))
    show Core.wline (State.core (State.setCore _ core _) core) (lineOf pa) = _
    rw [State.core_setCore_self]
    unfold Core.wline
    rw [List.find?_append, hnone]
    · simp
    · intro x hx
      split at hx
      · exact hx
      · split at hx
        · rw [State.drainLine_wcb] at hx; exact (List.mem_filter.mp hx).1
        · exact hx

/-- Once drained, the byte is in no line of the buffer. -/
theorem State.wbyte_drainLine (s : State) (core pa : Nat) : (s.drainLine core (lineOf pa)).wbyte core pa = none := by
  unfold State.wbyte
  rw [State.drainLine_wcb, List.find?_eq_none.mpr]
  · rfl
  · intro x hx; simpa using (List.mem_filter.mp hx).2

/-! The load (R181). -/

theorem State.loadByte_buffered {s : State} {core gid pa : Nat} {b : Byte} (h : s.Buffered core gid pa b) (pol : Policy) :
    s.loadByte core gid .global pol (.glob pa) = b := by
  obtain ⟨w, o, hl, ho, hv, hg⟩ := h
  simp only [State.loadByte, State.wbyte_of_wline hl, ho, hg, if_true, hv]

theorem State.loadByte_settled {s : State} {core pa : Nat} {b : Byte} (h : s.Settled core pa b)
    (hw : s.wbyte core pa = none) (gid : Nat) (pol : Policy) : s.loadByte core gid .global pol (.glob pa) = b := by
  simp only [State.loadByte, hw, State.l1Read_of_upToDate h.2, h.1, ite_self]

/-- A store of one global byte without a policy and a flag enters the buffer; a line that it completes drains (R206). -/
theorem State.storeBytes_one (s : State) (core gid pa : Nat) (b : Byte) :
    s.storeBytes core gid .global .none false [(.glob pa, b)] =
      (match ((s.wcbByte core gid pa b).core core).wline (lineOf pa) with
        | some w => if false || 128 ≤ w.bytes.length then (s.wcbByte core gid pa b).drainLine core (lineOf pa)
                    else s.wcbByte core gid pa b
        | none => s.wcbByte core gid pa b) := rfl

/-- A group's load takes its own store, from the buffer or, where its line has drained, from behind it (R181, R206). -/
theorem State.loadByte_storeBytes (s : State) (core gid pa : Nat) (b : Byte) (pol : Policy) (h : s.storageWf = true) :
    (s.storeBytes core gid .global .none false [(.glob pa, b)]).loadByte core gid .global pol (.glob pa) = b := by
  have hb := s.buffered_wcbByte core gid pa b
  have hwf := State.storageWf_wcbByte h core gid pa b
  obtain ⟨w, o, hl, ho, hv, -⟩ := id hb
  rw [State.storeBytes_one]
  simp only [hl]
  split
  · have hw := State.wcb_wf hwf core w (List.mem_of_find?_eq_some hl)
    have hs := State.drainLine_settled _ core pa w o hl hw ho
    rw [hv] at hs
    exact State.loadByte_settled hs (State.wbyte_drainLine _ core pa) gid pol
  · exact State.loadByte_buffered hb pol

/-- The obligation's words for a place that exists. -/
theorem State.hasHome_of_match {s : State} {p : Place} (h : match p with
    | .cs t _ => (s.teams.get t).isSome = true
    | .scr g _ => (s.groups.get g).isSome = true
    | _ => True) : s.hasHome p := by
  cases p <;> exact h

/-- Settles O58: bytes read back at their homes (`State.homeNat_putBytes`), and through the write-combining buffer
(`State.loadByte_storeBytes`). -/
theorem storesReadBack : Obligations.StoresReadBack :=
  ⟨fun s writer ps x hn hs =>
    have hs' : ∀ p ∈ ps, s.hasHome p := fun p hp => State.hasHome_of_match (hs p hp)
    ⟨s.homeNat_putBytes writer ps x hn hs', s.homeRead_putBytes_other writer ps x hs'⟩,
   fun s core gid pa b pol h => s.loadByte_storeBytes core gid pa b pol h⟩

end Sys2Proof.Machine
end

section
/-! Proofs/Parcels: the fields of a form and its parcels determine each other (02_encoding R36, R37, R43 to R45). -/

namespace Sys2Proof

/-! Words cut into fields and put together again. -/

/-- Two neighbouring fields are one field. -/
theorem field_append {w : Nat} (x : BitVec w) (i n m : Nat) :
    x.extractLsb' (i + n) m ++ x.extractLsb' i n = x.extractLsb' i (m + n) :=
  BitVec.extractLsb'_append_extractLsb'_eq_extractLsb' rfl

/-- One bit of a word as a field. -/
theorem b1_pbit (p : Word) (i : Nat) : b1 (pbit p i) = p.extractLsb' i 1 := by
  apply BitVec.eq_of_getLsbD_eq
  intro j hj
  have h0 : j = 0 := by omega
  subst h0
  simp [b1, pbit]

/-- The first parcel of the longer forms, from its fields (R44). -/
theorem parcel0_of_fields (p : Word) :
    b1 (pbit p 31) ++ b1 (pbit p 30) ++ b1 (pbit p 29) ++ b1 (pbit p 28) ++ b1 (pbit p 27) ++ b1 (pbit p 26) ++
      p.extractLsb' 18 8 ++ p.extractLsb' 10 8 ++ p.extractLsb' 2 8 ++ p.extractLsb' 0 2 = p := by
  simp only [b1_pbit]
  rw [field_append p 30 1 1, field_append p 29 1 2, field_append p 28 1 3, field_append p 27 1 4, field_append p 26 1 5,
    field_append p 18 8 6, field_append p 10 8 14, field_append p 2 8 22, field_append p 0 2 30]
  exact BitVec.extractLsb'_eq_self

/-- The second parcel, from its fields (R44). -/
theorem parcel1_of_fields (p : Word) :
    p.extractLsb' 30 2 ++ p.extractLsb' 23 7 ++ p.extractLsb' 15 8 ++ b1 (pbit p 14) ++ p.extractLsb' 8 6 ++
      p.extractLsb' 0 8 = p := by
  simp only [b1_pbit]
  rw [field_append p 23 7 2, field_append p 15 8 9, field_append p 14 1 17, field_append p 8 6 18, field_append p 0 8 24]
  exact BitVec.extractLsb'_eq_self

/-- The one parcel of the 32-bit form, from its fields (R43). -/
theorem parcel_of_fields1 (p : Word) :
    p.extractLsb' 30 2 ++ p.extractLsb' 26 4 ++ p.extractLsb' 18 8 ++ p.extractLsb' 10 8 ++ p.extractLsb' 2 8 ++
      p.extractLsb' 0 2 = p := by
  rw [field_append p 26 4 2, field_append p 18 8 6, field_append p 10 8 14, field_append p 2 8 22, field_append p 0 2 30]
  exact BitVec.extractLsb'_eq_self

/-- The literal's two parts (R45). -/
theorem literal_bit (p1 p2 : Word) (i : Nat) :
    (literal p1 p2).getLsbD i = if i < 30 then (p2.extractLsb' 0 30).getLsbD i else (p1.extractLsb' 30 2).getLsbD (i - 30) :=
  BitVec.getLsbD_append

theorem literal_high (p1 p2 : Word) : (literal p1 p2).extractLsb' 30 2 = p1.extractLsb' 30 2 := by
  apply BitVec.eq_of_getLsbD_eq
  intro j hj
  simp [literal_bit, hj]

theorem literal_low (p1 p2 : Word) : (literal p1 p2).extractLsb' 0 30 = p2.extractLsb' 0 30 := by
  apply BitVec.eq_of_getLsbD_eq
  intro j hj
  simp [literal_bit, hj]

/-! The forms. -/

/-- The length code of a first parcel (R36). -/
theorem parcelLen_one {p : Word} (h : parcelLen p = 1) : p.extractLsb' 0 2 = 0#2 := by
  unfold parcelLen at h; split at h <;> simp_all
theorem parcelLen_two {p : Word} (h : parcelLen p = 2) : p.extractLsb' 0 2 = 1#2 := by
  unfold parcelLen at h; split at h <;> simp_all
theorem parcelLen_three {p : Word} (h : parcelLen p = 3) : p.extractLsb' 0 2 = 2#2 := by
  unfold parcelLen at h; split at h <;> simp_all

/-- The fields that a form has not stand at zero, its guard at p63 (R43 to R45). -/
def Raw.Shaped (r : Raw) : Prop :=
  (r.len = 1 ∧ r.au = false ∧ r.bu = false ∧ r.ai = false ∧ r.sfa = false ∧ r.sfb = false ∧ r.r31 = false ∧ r.b = 0#8 ∧
    r.gp = 63#6 ∧ r.gn = false ∧ r.c = 0#8 ∧ r.fn7 = 0#7 ∧ r.lit = 0#32) ∨
  (r.len = 2 ∧ r.fn = 0#4 ∧ r.lit = 0#32) ∨
  (r.len = 3 ∧ r.fn = 0#4)

/-- What the parcels read as: fields of a form, whose parcels they are. -/
theorem rawOf_some {p0 p1 p2 : Word} {r : Raw} (h : rawOf p0 p1 p2 = some r) :
    r.Shaped ∧ r.op = p0.extractLsb' 2 8 ∧ r.parcels = [p0, p1, p2].take r.parcels.length ∧ r.parcels ≠ [] := by
  unfold rawOf at h
  split at h
  · rename_i hl
    split at h
    · rename_i hs
      cases h
      refine ⟨.inl ⟨rfl, rfl, rfl, rfl, rfl, rfl, rfl, rfl, rfl, rfl, rfl, rfl, rfl⟩, rfl, ?_, List.cons_ne_nil _ _⟩
      have h0 := parcel_of_fields1 p0
      rw [hs, parcelLen_one hl] at h0
      exact congrArg (fun x => [x]) h0
    · cases h
  · rename_i hl
    split at h
    · rename_i hs
      cases h
      refine ⟨.inr (.inl ⟨rfl, rfl, rfl⟩), rfl, ?_, List.cons_ne_nil _ _⟩
      have h0 := parcel0_of_fields p0
      have h1 := parcel1_of_fields p1
      rw [parcelLen_two hl] at h0
      rw [hs] at h1
      exact congrArg₂ (fun x y => [x, y]) h0 h1
    · cases h
  · rename_i hl
    split at h
    · rename_i hs
      cases h
      refine ⟨.inr (.inr ⟨rfl, rfl⟩), rfl, ?_, List.cons_ne_nil _ _⟩
      have h0 := parcel0_of_fields p0
      have h1 := parcel1_of_fields p1
      have h2 : (2#2 : BitVec 2) ++ p2.extractLsb' 0 30 = p2 := by
        rw [← hs, field_append p2 0 30 2]; exact BitVec.extractLsb'_eq_self
      rw [parcelLen_three hl] at h0
      rw [← literal_high p1 p2] at h1
      rw [← literal_low p1 p2] at h2
      exact congrArg₂ List.cons h0 (congrArg₂ List.cons h1 (congrArg₂ List.cons h2 rfl))
    · cases h
  · cases h

end Sys2Proof
end

section
/-! Proofs/Cells: what a cell of the opcode map reads is what the encoder writes (02_encoding R43 to R46, R93 to R95). -/

namespace Sys2Proof

/-! Reading the decoder's parts. -/

/-- What the cell answers, if it answers an instruction, is well formed and has these fields. -/
def Raw.Exact (r : Raw) (d : Dec) : Prop := ∀ i, d = .ok i → i.wf = true ∧ enc i = some r
/-- As `Raw.Exact`, below the reading of the operands. -/
def Raw.ReadsAs (r : Raw) (o : Option Instr) : Prop := ∀ i, o = some i → i.wf = true ∧ enc i = some r

variable {r : Raw}

theorem Raw.Exact.error (e : Cause) : r.Exact (.error e) := fun _ h => nomatch h

theorem Raw.Exact.ok {i : Instr} (hw : i.wf = true) (he : enc i = some r) : r.Exact (.ok i) := by
  rintro _ ⟨⟩
  exact ⟨hw, he⟩

theorem Raw.Exact.ite {p : Prop} [Decidable p] {d e : Dec} (hd : p → r.Exact d) (he : ¬ p → r.Exact e) :
    r.Exact (if p then d else e) := by
  split
  · exact hd ‹_›
  · exact he ‹_›

theorem Raw.Exact.minor {ok : Bool} {k : Dec} (h : ok = true → r.Exact k) : r.Exact (minor ok k) :=
  .ite h fun _ => .error _

theorem Raw.Exact.fieldOf {α : Type} {o : Option α} {k : α → Dec} (h : ∀ x, o = some x → r.Exact (k x)) :
    r.Exact (fieldOf o k) := by
  unfold Sys2Proof.fieldOf
  split
  · exact h _ rfl
  · exact .error _

theorem Raw.Exact.rsv {o : Option Instr} (h : r.ReadsAs o) : r.Exact (rsv o) := by
  unfold Sys2Proof.rsv
  split
  · rename_i i
    exact .ok (h i rfl).1 (h i rfl).2
  · exact .error _

theorem Raw.Exact.notNative (b : Bool) : r.Exact (notNative b) :=
  .ite (fun _ => .error _) fun _ => .error _

theorem Raw.ReadsAs.nothing : r.ReadsAs none := fun _ h => nomatch h

theorem Raw.ReadsAs.just {i : Instr} (hw : i.wf = true) (he : enc i = some r) : r.ReadsAs (some i) := by
  rintro _ ⟨⟩
  exact ⟨hw, he⟩

theorem Raw.ReadsAs.ite {p : Prop} [Decidable p] {d e : Option Instr} (hd : p → r.ReadsAs d) (he : ¬ p → r.ReadsAs e) :
    r.ReadsAs (if p then d else e) := by
  split
  · exact hd ‹_›
  · exact he ‹_›

theorem Raw.ReadsAs.optIf {b : Bool} {i : Instr} (h : b = true → i.wf = true ∧ enc i = some r) : r.ReadsAs (optIf b i) :=
  .ite (fun hb => .just (h hb).1 (h hb).2) fun _ => .nothing

theorem Raw.ReadsAs.bind {α : Type} {o : Option α} {f : α → Option Instr} (h : ∀ x, o = some x → r.ReadsAs (f x)) :
    r.ReadsAs (o.bind f) := by
  intro i hi
  obtain ⟨x, hx, hf⟩ := Option.bind_eq_some_iff.mp hi
  exact h x hx i hf

theorem Raw.ReadsAs.map {α : Type} {o : Option α} {f : α → Instr}
    (h : ∀ x, o = some x → (f x).wf = true ∧ enc (f x) = some r) : r.ReadsAs (o.map f) := by
  intro i hi
  obtain ⟨x, hx, rfl⟩ := Option.map_eq_some_iff.mp hi
  exact h x hx

/-! The forms, by their length. -/

/-- The fields of the 32-bit form (R43), of opcode `op`. -/
structure Raw.One (r : Raw) (op : Byte) : Prop where
  eq : form1 op r.fn = { r with d := 0#8, a := 0#8 }
/-- What the 64-bit form leaves empty (R44). -/
structure Raw.Two (r : Raw) (op : Byte) : Prop where
  len_eq : r.len = 2
  op_eq : r.op = op
  fn_eq : r.fn = 0#4
  lit_eq : r.lit = 0#32
/-- What the 96-bit form leaves empty (R45). -/
structure Raw.Three (r : Raw) (op : Byte) : Prop where
  len_eq : r.len = 3
  op_eq : r.op = op
  fn_eq : r.fn = 0#4

/-- The fields of an instruction whose opcode has a form of their length. -/
structure Raw.Cell (r : Raw) (op : Byte) : Prop where
  shaped : r.Shaped
  op_eq : r.op = op
  len_ok : lenAllowed op r.len = true

variable {op : Byte}

theorem Raw.Cell.one (c : r.Cell op) (h : r.len = 1) : r.One op := by
  obtain ⟨hs, ho, -⟩ := c
  cases r
  constructor
  simp_all [Raw.Shaped, form1]

theorem Raw.Cell.two (c : r.Cell op) (h : r.len = 2) : r.Two op := by
  obtain ⟨hs, ho, -⟩ := c
  constructor <;> simp_all [Raw.Shaped]

theorem Raw.Cell.three (c : r.Cell op) (h : r.len = 3) : r.Three op := by
  obtain ⟨hs, ho, -⟩ := c
  constructor <;> simp_all [Raw.Shaped]

/-- An opcode with the 32-bit form alone. -/
theorem Raw.Cell.only1 (c : r.Cell op) (h2 : opsNot2.contains op = true := by decide)
    (h3 : ops3.contains op = false := by decide) : r.One op := by
  refine c.one ?_
  have h := c.len_ok
  unfold lenAllowed at h
  split at h <;> simp_all

/-- An opcode with the 64-bit form alone. -/
theorem Raw.Cell.only2 (c : r.Cell op) (h1 : ops1.contains op = false := by decide)
    (h3 : ops3.contains op = false := by decide) : r.Two op := by
  refine c.two ?_
  have h := c.len_ok
  unfold lenAllowed at h
  split at h <;> simp_all

/-- An opcode with the 96-bit form alone. -/
theorem Raw.Cell.only3 (c : r.Cell op) (h1 : ops1.contains op = false := by decide)
    (h2 : opsNot2.contains op = true := by decide) : r.Three op := by
  refine c.three ?_
  have h := c.len_ok
  unfold lenAllowed at h
  split at h <;> simp_all

/-- The shorter form of an opcode with the 64-bit and the 96-bit form. -/
theorem Raw.Cell.not3 (c : r.Cell op) (h3 : r.len ≠ 3) (h1 : ops1.contains op = false := by decide) : r.Two op := by
  refine c.two ?_
  have h := c.len_ok
  unfold lenAllowed at h
  split at h <;> simp_all

/-- The longer form of an opcode with the 32-bit and the 64-bit form. -/
theorem Raw.Cell.not1 (c : r.Cell op) (h1 : r.len ≠ 1) (h3 : ops3.contains op = false := by decide) : r.Two op := by
  refine c.two ?_
  have h := c.len_ok
  unfold lenAllowed at h
  split at h <;> simp_all

end Sys2Proof
end

section
/-! Proofs/Shapes: the operand readers and the operand writers agree, one lemma for each operand and each operand shape
(02_encoding R46, R93, R94). -/

namespace Sys2Proof

variable {r x : Raw} {op : Byte} {fn7 : BitVec 7}

/-! The operands. -/

/-- A field whose high bits are zero is its low bits. -/
theorem setWidth_of_high_zero {w n m : Nat} {x : BitVec w} (h : x.extractLsb' n m = 0#m) (hw : n + m = w := by rfl) :
    (x.setWidth n).setWidth w = x := by
  apply BitVec.eq_of_getLsbD_eq
  intro i hi
  have hb := congrArg (·.getLsbD (i - n)) h
  by_cases hn : i < n
  · simp [hn, hi]
  · have hm : i - n < m := by omega
    have hx : n + (i - n) = i := by omega
    simp only [BitVec.getLsbD_extractLsb', hm, hx] at hb
    simp_all

@[simp] theorem six_eq_some {x : Byte} {n : BitVec 6} : six x = some n ↔ x = x6 n := by
  unfold six
  constructor
  · intro h
    split at h
    · next h0 =>
      cases h
      exact (setWidth_of_high_zero h0).symm
    · cases h
  · rintro rfl
    have h0 : (x6 n).extractLsb' 6 2 = 0#2 := by
      apply BitVec.eq_of_getLsbD_eq
      intro i hi
      simp [x6]
    rw [if_pos h0]
    simp [x6]

@[simp] theorem optIf_eq_some {α : Type} {b : Bool} {x y : α} : optIf b x = some y ↔ b = true ∧ x = y := by
  cases b <;> simp [optIf]

@[simp] theorem Raw.noSF_iff : r.noSF = true ↔ r.sfa = false ∧ r.sfb = false ∧ r.r31 = false := by
  simp [Raw.noSF, and_assoc]
@[simp] theorem Raw.noU_iff : r.noU = true ↔ r.au = false ∧ r.bu = false ∧ r.ai = false := by
  simp [Raw.noU, and_assoc]

theorem Raw.putA_of_srcA {a : Src} (h : r.srcA = some a) (hx : x.au = false) : x.putA a = { x with a := r.a, au := r.au } := by
  unfold Raw.srcA srcOf at h
  split at h
  · obtain ⟨n, hn, rfl⟩ := Option.map_eq_some_iff.mp h
    rw [six_eq_some.mp hn, ‹r.au = true›]
    rfl
  · cases h
    simp_all [Raw.putA]

theorem Raw.putB_of_srcB {b : Src} (h : r.srcB = some b) (hx : x.bu = false) : x.putB b = { x with b := r.b, bu := r.bu } := by
  unfold Raw.srcB srcOf at h
  split at h
  · obtain ⟨n, hn, rfl⟩ := Option.map_eq_some_iff.mp h
    rw [six_eq_some.mp hn, ‹r.bu = true›]
    rfl
  · cases h
    simp_all [Raw.putB]

theorem Raw.putASrc_of_asrc {a : ASrc} (h : r.asrc = some a) (hu : x.au = false) (hi : x.ai = false) (hc : x.c = 0#8) :
    x.putASrc a = { x with a := r.a, au := r.au, ai := r.ai, c := r.c } := by
  unfold Raw.asrc at h
  split at h
  · split at h
    · cases h
    · obtain ⟨n, hn, rfl⟩ := Option.map_eq_some_iff.mp h
      simp_all [Raw.putASrc, six_eq_some]
  · split at h
    · split at h
      · obtain ⟨n, hn, rfl⟩ := Option.map_eq_some_iff.mp h
        simp_all [Raw.putASrc, six_eq_some]
      · cases h
        simp_all [Raw.putASrc]
    · cases h

theorem Raw.putLSrc_of_lsrc {a : LSrc} (h : r.lsrc = some a) (hi : x.ai = false) (hc : x.c = 0#8) :
    r.au = false ∧ x.putLSrc a = { x with a := r.a, ai := r.ai, c := r.c } := by
  unfold Raw.lsrc at h
  split at h
  · cases h
  · split at h
    · obtain ⟨n, hn, rfl⟩ := Option.map_eq_some_iff.mp h
      simp_all [Raw.putLSrc, six_eq_some]
    · split at h
      · cases h
        simp_all [Raw.putLSrc]
      · cases h

/-! What the writers of one field leave. -/

@[simp] theorem Raw.putD_def (d : Byte) : r.putD d = { r with d := d } := rfl
@[simp] theorem Raw.putD6_def (d : BitVec 6) : r.putD6 d = { r with d := x6 d } := rfl
@[simp] theorem Raw.putA6_def (d : BitVec 6) : r.putA6 d = { r with a := x6 d } := rfl
@[simp] theorem Raw.putB6_def (d : BitVec 6) : r.putB6 d = { r with b := x6 d } := rfl
@[simp] theorem Raw.putC_def (d : Byte) : r.putC d = { r with c := d } := rfl
@[simp] theorem Raw.putC6_def (d : BitVec 6) : r.putC6 d = { r with c := x6 d } := rfl
@[simp] theorem Raw.putLit_def (d : Word) : r.putLit d = { r with lit := d } := rfl
@[simp] theorem Raw.putSF_def (f : SFlags) : r.putSF f = { r with sfa := f.fa, sfb := f.fb } := rfl
@[simp] theorem form_def (n : Nat) (g : Guard) : form n op g fn7 =
    { len := n, op := op, d := 0#8, a := 0#8, fn := 0#4, au := false, bu := false, ai := false, sfa := false, sfb := false,
      r31 := false, b := 0#8, gp := g.p, gn := g.neg, c := 0#8, fn7 := fn7, lit := 0#32 } := rfl
@[simp] theorem Raw.guard_p : r.guard.p = r.gp := rfl
@[simp] theorem Raw.guard_neg : r.guard.neg = r.gn := rfl

/-- The 64-bit form's fields, from the fields that an operand shape fills. -/
theorem Raw.Two.fill (t : r.Two op) (hr : r.r31 = false) :
    { form 2 op r.guard r.fn7 with
      d := r.d, a := r.a, au := r.au, bu := r.bu, ai := r.ai, sfa := r.sfa, sfb := r.sfb, b := r.b, c := r.c } = r := by
  obtain ⟨h1, h2, h3, h4⟩ := t
  cases r
  simp_all [form, Raw.guard]

/-- The 96-bit form's fields, from the fields that an operand shape fills. -/
theorem Raw.Three.fill (t : r.Three op) (hr : r.r31 = false) :
    { form 3 op r.guard r.fn7 with
      d := r.d, a := r.a, au := r.au, bu := r.bu, ai := r.ai, sfa := r.sfa, sfb := r.sfb, b := r.b, c := r.c,
      lit := r.lit } = r := by
  obtain ⟨h1, h2, h3⟩ := t
  cases r
  simp_all [form, Raw.guard]

/-! The operand shapes. -/

theorem Raw.Two.encL1_eq (t : r.Two op) {o : L1} (h : r.l1 = some o) : encL1 op r.fn7 o = r := by
  simp [Raw.l1, Option.bind_eq_some_iff, and_assoc] at h
  obtain ⟨a, ha, hfa, hfb, h31, hb, hbu, rfl⟩ := h
  unfold encL1
  rw [Raw.putASrc_of_asrc ha rfl rfl rfl]
  conv_rhs => rw [← t.fill h31, hfa, hfb, hb, hbu]
  rfl

theorem Raw.Two.encL2_eq (t : r.Two op) {o : L2} (h : r.l2 = some o) : encL2 op r.fn7 o = r := by
  simp [Raw.l2, Option.bind_eq_some_iff, and_assoc] at h
  obtain ⟨a, ha, b, hb, hfa, hfb, h31, rfl⟩ := h
  unfold encL2
  rw [Raw.putASrc_of_asrc ha rfl rfl rfl, Raw.putB_of_srcB hb rfl]
  conv_rhs => rw [← t.fill h31, hfa, hfb]
  rfl

theorem Raw.Three.encL2L_eq (t : r.Three op) {o : L2L} (h : r.l2l = some o) : encL2L op r.fn7 o = r := by
  simp [Raw.l2l, Option.bind_eq_some_iff, and_assoc] at h
  obtain ⟨a, ha, hfa, hfb, h31, hb, hbu, rfl⟩ := h
  unfold encL2L
  rw [Raw.putASrc_of_asrc ha rfl rfl rfl]
  conv_rhs => rw [← t.fill h31, hfa, hfb, hb, hbu]
  rfl

theorem Raw.Two.encL3_eq (t : r.Two op) {o : L3} (h : r.l3 = some o) : encL3 op r.fn7 o = r := by
  simp [Raw.l3, Option.bind_eq_some_iff, and_assoc] at h
  obtain ⟨a, ha, b, hb, hfa, hfb, h31, hai, rfl⟩ := h
  unfold encL3
  rw [Raw.putA_of_srcA ha rfl, Raw.putB_of_srcB hb rfl]
  conv_rhs => rw [← t.fill h31, hfa, hfb, hai]
  rfl

theorem Raw.Three.encL3L_eq (t : r.Three op) {o : L3L} (h : r.l3l = some o) : encL3L op r.fn7 o = r := by
  simp [Raw.l3l, Option.bind_eq_some_iff, and_assoc] at h
  obtain ⟨a, ha, hfa, hfb, h31, hai, hb, hbu, rfl⟩ := h
  unfold encL3L
  rw [Raw.putA_of_srcA ha rfl]
  conv_rhs => rw [← t.fill h31, hfa, hfb, hai, hb, hbu]
  rfl

theorem Raw.Two.encP2_eq (t : r.Two op) {o : P2} (h : r.p2 = some o) : encP2 op r.fn7 o = r := by
  simp [Raw.p2, Option.bind_eq_some_iff, and_assoc] at h
  obtain ⟨d, hd, a, ha, b, hb, hfa, hfb, h31, hau, hbu, hai, hc, rfl⟩ := h
  unfold encP2
  conv_rhs => rw [← t.fill h31, hfa, hfb, hau, hbu, hai, hd, ha, hb, hc]
  rfl

theorem Raw.Two.encK2_eq (t : r.Two op) {o : K2} (h : r.k2 = some o) : encK2 op r.fn7 o = r := by
  simp [Raw.k2, Option.bind_eq_some_iff, and_assoc] at h
  obtain ⟨d, hd, a, ha, b, hb, hfa, hfb, h31, hau, hbu, hai, hc, rfl⟩ := h
  unfold encK2
  conv_rhs => rw [← t.fill h31, hfa, hfb, hau, hbu, hai, hd, ha, hb, hc]
  rfl

theorem Raw.Three.encK2L_eq (t : r.Three op) {o : K2L} (h : r.k2l = some o) : encK2L op r.fn7 o = r := by
  simp [Raw.k2l, Option.bind_eq_some_iff, and_assoc] at h
  obtain ⟨d, hd, a, ha, hfa, hfb, h31, hau, hbu, hai, hc, hb, rfl⟩ := h
  unfold encK2L
  conv_rhs => rw [← t.fill h31, hfa, hfb, hau, hbu, hai, hd, ha, hc, hb]
  rfl

theorem Raw.Two.encSetP_eq (t : r.Two op) {o : SetP} (h : r.setp = some o) : encSetP op r.fn7 o = r := by
  simp [Raw.setp, Option.bind_eq_some_iff, and_assoc] at h
  obtain ⟨d, hd, a, ha, b, hb, c, hc, hfa, hfb, h31, hai, rfl⟩ := h
  unfold encSetP
  rw [Raw.putA_of_srcA ha rfl, Raw.putB_of_srcB hb rfl]
  conv_rhs => rw [← t.fill h31, hfa, hfb, hai, hd, hc]
  rfl

theorem Raw.Three.encSetPL_eq (t : r.Three op) {o : SetPL} (h : r.setpl = some o) : encSetPL op r.fn7 o = r := by
  simp [Raw.setpl, Option.bind_eq_some_iff, and_assoc] at h
  obtain ⟨d, hd, a, ha, c, hc, hfa, hfb, h31, hai, hb, hbu, rfl⟩ := h
  unfold encSetPL
  rw [Raw.putA_of_srcA ha rfl]
  conv_rhs => rw [← t.fill h31, hfa, hfb, hai, hd, hc, hb, hbu]
  rfl

/-- FN7 of a shift is its .i alone. -/
theorem Raw.Two.encShift_eq (t : r.Two op) (hf : f1 0 (r.f 0) = r.fn7) {o : Shift} (h : r.shift = some o) :
    encShift op o = r := by
  unfold Raw.shift at h
  split at h
  · next h0 =>
    simp [Option.bind_eq_some_iff, and_assoc] at h
    obtain ⟨a, ha, n, hc, hfa, hfb, h31, hai, hb, hbu, rfl⟩ := h
    unfold encShift
    dsimp only
    rw [Raw.putA_of_srcA ha rfl]
    conv_rhs => rw [← t.fill h31, hfa, hfb, hai, hb, hbu, hc, ← hf, h0]
    rfl
  · next h0 =>
    obtain ⟨o, ho, rfl⟩ := Option.map_eq_some_iff.mp h
    have h7 : r.fn7 = 0#7 := by rw [← hf, Bool.eq_false_iff.mpr h0]; rfl
    have h2 := t.encL2_eq ho
    rwa [h7] at h2

/-! What a cell reads through an operand shape. -/

/-- The fields of a cell's operand shape, FN7 and the opcode are what the encoder writes. -/
theorem Raw.ReadsAs.shape {α : Type} {o : Option α} {mk : α → Instr} {write : Byte → BitVec 7 → α → Raw}
    (heq : ∀ {y : α}, o = some y → write op r.fn7 y = r) (hf : fn7 = r.fn7)
    (henc : ∀ y, enc (mk y) = some (write op fn7 y) := by intro; rfl) (hw : ∀ y, (mk y).wf = true := by intro; rfl) :
    r.ReadsAs (o.map mk) :=
  .map fun y hy => ⟨hw y, by rw [henc, hf, heq hy]⟩

/-- Fields that agree with the 64-bit form's are the form's. -/
theorem Raw.Two.eq_of (t : r.Two op) (h7 : x.fn7 = r.fn7)
    (h : x.d = r.d ∧ x.a = r.a ∧ x.b = r.b ∧ x.c = r.c ∧ x.gp = r.gp ∧ x.gn = r.gn ∧ x.au = r.au ∧ x.bu = r.bu ∧
      x.ai = r.ai ∧ x.sfa = r.sfa ∧ x.sfb = r.sfb ∧ x.r31 = r.r31)
    (h1 : x.len = 2 := by rfl) (h2 : x.op = op := by rfl) (h3 : x.fn = 0#4 := by rfl) (h4 : x.lit = 0#32 := by rfl) : x = r := by
  obtain ⟨t1, t2, t3, t4⟩ := t
  cases x
  cases r
  simp_all

/-- Fields that agree with the 96-bit form's are the form's. -/
theorem Raw.Three.eq_of (t : r.Three op) (h7 : x.fn7 = r.fn7)
    (h : x.d = r.d ∧ x.a = r.a ∧ x.b = r.b ∧ x.c = r.c ∧ x.gp = r.gp ∧ x.gn = r.gn ∧ x.au = r.au ∧ x.bu = r.bu ∧
      x.ai = r.ai ∧ x.sfa = r.sfa ∧ x.sfb = r.sfb ∧ x.r31 = r.r31 ∧ x.lit = r.lit)
    (h1 : x.len = 3 := by rfl) (h2 : x.op = op := by rfl) (h3 : x.fn = 0#4 := by rfl) : x = r := by
  obtain ⟨t1, t2, t3⟩ := t
  cases x
  cases r
  simp_all

/-- Fields that agree with the 32-bit form's are the form's. -/
theorem Raw.One.eq_of (t : r.One op) (hn : x.fn = r.fn) (h : x.d = r.d ∧ x.a = r.a)
    (hx : { form1 op x.fn with d := x.d, a := x.a } = x := by rfl) : x = r := by
  rw [← hx, hn, h.1, h.2, t.eq]

/-- A 64-bit form whose length is neither of the others. -/
theorem Raw.Cell.not13 (c : r.Cell op) (h1 : r.len ≠ 1) (h3 : r.len ≠ 3) : r.Two op := by
  refine c.two ?_
  have h := c.len_ok
  unfold lenAllowed at h
  split at h <;> simp_all

/-- The nibble that is none of the others. -/
theorem last_nibble : ∀ x : BitVec 4, (x = 0#4 → False) → (x = 1#4 → False) → (x = 2#4 → False) → (x = 3#4 → False) →
    (x = 4#4 → False) → (x = 5#4 → False) → (x = 6#4 → False) → (x = 7#4 → False) → (x = 8#4 → False) → (x = 9#4 → False) →
    (x = 10#4 → False) → (x = 11#4 → False) → (x = 12#4 → False) → (x = 13#4 → False) → (x = 14#4 → False) → x = 15#4 := by
  decide

/-- A 32-bit instruction without an operand. -/
theorem Raw.One.bare (t : r.One op) {i : Instr} (hn : (r.fn == 0#4) = true) (hz : r.zero1 = true)
    (he : enc i = some (form1 op 0#4) := by rfl) (hw : i.wf = true := by rfl) : i.wf = true ∧ enc i = some r := by
  obtain ⟨hd, ha⟩ := Bool.and_eq_true_iff.mp hz
  refine ⟨hw, he.trans (congrArg some (t.eq_of (beq_iff_eq.mp hn).symm ?_))⟩
  exact ⟨(beq_iff_eq.mp hd).symm, (beq_iff_eq.mp ha).symm⟩

theorem Raw.Cell.of_nibbles {hi lo : BitVec 4} (hs : r.Shaped) (hl : lenAllowed r.op r.len = true)
    (hh : r.op.extractLsb' 4 4 = hi) (ho : r.op.extractLsb' 0 4 = lo) : r.Cell (hi ++ lo) := by
  have h : r.op = hi ++ lo := by
    rw [← hh, ← ho, field_append r.op 0 4 4]
    exact BitVec.extractLsb'_eq_self.symm
  exact ⟨hs, h, h ▸ hl⟩

/-! FN7 and its bits. -/

theorem Raw.fn7_only0 (h : r.only 0#7 = true) : 0#7 = r.fn7 :=
  (by decide : ∀ x : BitVec 7, (x &&& ~~~0#7 == 0#7) = true → 0#7 = x) r.fn7 h
theorem Raw.fn7_only1 (h : r.only 1#7 = true) : f1 0 (r.f 0) = r.fn7 :=
  (by decide : ∀ x : BitVec 7, (x &&& ~~~1#7 == 0#7) = true → f1 0 (x.getLsbD 0) = x) r.fn7 h
theorem Raw.fn7_only2 (h : r.only 2#7 = true) : f1 1 (r.f 1) = r.fn7 :=
  (by decide : ∀ x : BitVec 7, (x &&& ~~~2#7 == 0#7) = true → f1 1 (x.getLsbD 1) = x) r.fn7 h
theorem Raw.fn7_only3 (h : r.only 3#7 = true) : f1 0 (r.f 0) ||| f1 1 (r.f 1) = r.fn7 :=
  (by decide : ∀ x : BitVec 7, (x &&& ~~~3#7 == 0#7) = true → f1 0 (x.getLsbD 0) ||| f1 1 (x.getLsbD 1) = x) r.fn7 h
theorem Raw.fn7_only5 (h : r.only 5#7 = true) (h2 : ¬ r.f 2 = true) : f1 0 (r.f 0) = r.fn7 :=
  (by decide : ∀ x : BitVec 7, (x &&& ~~~5#7 == 0#7) = true → ¬ x.getLsbD 2 = true → f1 0 (x.getLsbD 0) = x) r.fn7 h h2
theorem Raw.fn7_only4 (h : r.only 4#7 = true) (h2 : ¬ r.f 2 = true) : 0#7 = r.fn7 :=
  (by decide : ∀ x : BitVec 7, (x &&& ~~~4#7 == 0#7) = true → ¬ x.getLsbD 2 = true → 0#7 = x) r.fn7 h h2
theorem Raw.fn7_setp (h : r.only 0x3F#7 = true) {cc : Cc} (hc : ccOf r.fn7 = some cc) {bop : Bop} (hb : bopOf r.fn7 = some bop) :
    ccBits cc ||| f1 3 (r.f 3) ||| bopBits bop = r.fn7 :=
  (by decide : ∀ x : BitVec 7, (x &&& ~~~0x3F#7 == 0#7) = true → ∀ cc ∈ ccOf x, ∀ bop ∈ bopOf x,
    ccBits cc ||| f1 3 (x.getLsbD 3) ||| bopBits bop = x) r.fn7 h cc hc bop hb
theorem Raw.fn7_fsetp (h : r.only 0x3F#7 = true) {bop : Bop} (hb : bopOf r.fn7 = some bop) :
    fccBits (fccOf r.fn7) ||| f1 3 (r.f 3) ||| bopBits bop = r.fn7 :=
  (by decide : ∀ x : BitVec 7, (x &&& ~~~0x3F#7 == 0#7) = true → ∀ bop ∈ bopOf x,
    fccBits (fccOf x) ||| f1 3 (x.getLsbD 3) ||| bopBits bop = x) r.fn7 h bop hb
theorem Raw.fn7_kmovi (h : (r.only 3#7 && !(r.f 0 && r.f 1)) = true) :
    kmoviBits (if r.f 0 then .hi else if r.f 1 then .zx else .sx) = r.fn7 :=
  (by decide : ∀ x : BitVec 7, (x &&& ~~~3#7 == 0#7 && !(x.getLsbD 0 && x.getLsbD 1)) = true →
    kmoviBits (if x.getLsbD 0 then .hi else if x.getLsbD 1 then .zx else .sx) = x) r.fn7 h
theorem Raw.fn7_is0 (h : r.only 1#7 = true) (h0 : ¬ r.f 0 = true) : 0#7 = r.fn7 :=
  (by decide : ∀ x : BitVec 7, (x &&& ~~~1#7 == 0#7) = true → ¬ x.getLsbD 0 = true → 0#7 = x) r.fn7 h h0
theorem Raw.fn7_is1 (h : r.only 1#7 = true) (h0 : r.f 0 = true) : 1#7 = r.fn7 :=
  (by decide : ∀ x : BitVec 7, (x &&& ~~~1#7 == 0#7) = true → x.getLsbD 0 = true → 1#7 = x) r.fn7 h h0
/-- FN7 with one of two bits, or neither. -/
theorem Raw.fn7_two_bits (h : (r.only 3#7 && !(r.f 0 && r.f 1)) = true) :
    (if r.f 1 then 2#7 else if r.f 0 then 1#7 else 0#7) = r.fn7 :=
  (by decide : ∀ x : BitVec 7, (x &&& ~~~3#7 == 0#7 && !(x.getLsbD 0 && x.getLsbD 1)) = true →
    (if x.getLsbD 1 then 2#7 else if x.getLsbD 0 then 1#7 else 0#7) = x) r.fn7 h
theorem Raw.fn7_ksh (h : r.only 5#7 = true) : f1 0 (r.f 0) ||| f1 2 (r.f 2) = r.fn7 :=
  (by decide : ∀ x : BitVec 7, (x &&& ~~~5#7 == 0#7) = true → f1 0 (x.getLsbD 0) ||| f1 2 (x.getLsbD 2) = x) r.fn7 h
theorem Raw.fn7_grade (h : r.only 3#7 = true) {g : Grade} (hg : gradeOf r.fn7 = some g) : gradeBits g = r.fn7 :=
  (by decide : ∀ x : BitVec 7, (x &&& ~~~3#7 == 0#7) = true → ∀ g ∈ gradeOf x, gradeBits g = x) r.fn7 h g hg
theorem Raw.fn7_query (h : r.only 7#7 = true) {q : Query} (hq : queryOf r.fn7 = some q) : queryBits q = r.fn7 :=
  (by decide : ∀ x : BitVec 7, (x &&& ~~~7#7 == 0#7) = true → ∀ q ∈ queryOf x, queryBits q = x) r.fn7 h q hq
theorem Raw.fn7_shf_imm (h : r.only 3#7 = true) (h0 : r.f 0 = true) : 1#7 ||| f1 1 (r.f 1) = r.fn7 := by
  rw [← Raw.fn7_only3 h, h0]; rfl
theorem Raw.fn7_shf_v (h : r.only 3#7 = true) (h0 : ¬ r.f 0 = true) : f1 1 (r.f 1) = r.fn7 := by
  rw [← Raw.fn7_only3 h, eq_false_of_ne_true h0]; exact BitVec.zero_or.symm
theorem Raw.fn7_mfs_uni (h : (r.only 3#7 && !(r.f 0 && r.f 1)) = true) (h0 : r.f 0 = true) : 1#7 = r.fn7 :=
  (by decide : ∀ x : BitVec 7, (x &&& ~~~3#7 == 0#7 && !(x.getLsbD 0 && x.getLsbD 1)) = true → x.getLsbD 0 = true → 1#7 = x)
    r.fn7 h h0
theorem Raw.fn7_mfs_lane (h : (r.only 3#7 && !(r.f 0 && r.f 1)) = true) (h0 : ¬ r.f 0 = true) : f1 1 (r.f 1) = r.fn7 :=
  Raw.fn7_shf_v (Bool.and_eq_true_iff.mp h).1 h0
theorem Raw.fn7_fmod (h : r.only 0xF#7 = true) : fmodBits r.fmod = r.fn7 :=
  (by decide : ∀ x : BitVec 7, (x &&& ~~~0xF#7 == 0#7) = true →
    fmodBits ⟨rmOf (x.extractLsb' 0 2), x.getLsbD 2, x.getLsbD 3⟩ = x) r.fn7 h
theorem Raw.fn7_aneg (h : r.only 0xC#7 = true) : anegBits7 r.aneg = r.fn7 :=
  (by decide : ∀ x : BitVec 7, (x &&& ~~~0xC#7 == 0#7) = true → anegBits7 ⟨x.getLsbD 2, x.getLsbD 3⟩ = x) r.fn7 h
theorem Raw.fn7_pkmod (h : r.only 0x1F#7 = true) : pkBits r.pkmod = r.fn7 :=
  (by decide : ∀ x : BitVec 7, (x &&& ~~~0x1F#7 == 0#7) = true →
    pkBits ⟨rmOf (x.extractLsb' 0 2), x.getLsbD 2, x.getLsbD 3, x.getLsbD 4⟩ = x) r.fn7 h
theorem Raw.fn7_fclass (h : r.only 7#7 = true) {f : FFmt} (hf : ffmtOf (r.fn7.extractLsb' 0 2) = some f) :
    ffmtBits f ||| f1 2 (r.f 2) = r.fn7 :=
  (by decide : ∀ x : BitVec 7, (x &&& ~~~7#7 == 0#7) = true → ∀ f ∈ ffmtOf (x.extractLsb' 0 2),
    ffmtBits f ||| f1 2 (x.getLsbD 2) = x) r.fn7 h f hf
theorem Raw.fn7_pkmin (h : r.only 0x1C#7 = true) : f1 2 (r.f 2) ||| f1 3 (r.f 3) ||| f1 4 (r.f 4) = r.fn7 :=
  (by decide : ∀ x : BitVec 7, (x &&& ~~~0x1C#7 == 0#7) = true →
    f1 2 (x.getLsbD 2) ||| f1 3 (x.getLsbD 3) ||| f1 4 (x.getLsbD 4) = x) r.fn7 h
theorem Raw.fn7_cvt (h : r.only 0x3F#7 = true) :
    rmBits (rmOf (r.fn7.extractLsb' 0 2)) ||| f1 2 (r.f 2) ||| f1 3 (r.f 3) ||| f1 4 (r.f 4) ||| f1 5 (r.f 5) = r.fn7 :=
  (by decide : ∀ x : BitVec 7, (x &&& ~~~0x3F#7 == 0#7) = true →
    rmBits (rmOf (x.extractLsb' 0 2)) ||| f1 2 (x.getLsbD 2) ||| f1 3 (x.getLsbD 3) ||| f1 4 (x.getLsbD 4) |||
      f1 5 (x.getLsbD 5) = x) r.fn7 h
theorem Raw.fn7_cvts (h : r.only 0x15#7 = true) : f1 0 (r.f 0) ||| f1 2 (r.f 2) ||| f1 4 (r.f 4) = r.fn7 :=
  (by decide : ∀ x : BitVec 7, (x &&& ~~~0x15#7 == 0#7) = true →
    f1 0 (x.getLsbD 0) ||| f1 2 (x.getLsbD 2) ||| f1 4 (x.getLsbD 4) = x) r.fn7 h
theorem Raw.fn7_cvt8_from (h : (r.only 0x1F#7 && if r.f 0 then !r.f 1 && !r.f 2 && !r.f 4 else !r.f 3) = true)
    (h0 : r.f 0 = true) : 1#7 ||| f1 3 (r.f 3) = r.fn7 :=
  (by decide : ∀ x : BitVec 7, (x &&& ~~~0x1F#7 == 0#7 &&
      if x.getLsbD 0 then !x.getLsbD 1 && !x.getLsbD 2 && !x.getLsbD 4 else !x.getLsbD 3) = true → x.getLsbD 0 = true →
    1#7 ||| f1 3 (x.getLsbD 3) = x) r.fn7 h h0
theorem Raw.fn7_cvt8_to (h : (r.only 0x1F#7 && if r.f 0 then !r.f 1 && !r.f 2 && !r.f 4 else !r.f 3) = true)
    (h0 : ¬ r.f 0 = true) : rmBits (rmOf (r.fn7.extractLsb' 1 2)) <<< 1 ||| f1 4 (r.f 4) = r.fn7 :=
  (by decide : ∀ x : BitVec 7, (x &&& ~~~0x1F#7 == 0#7 &&
      if x.getLsbD 0 then !x.getLsbD 1 && !x.getLsbD 2 && !x.getLsbD 4 else !x.getLsbD 3) = true → ¬ x.getLsbD 0 = true →
    rmBits (rmOf (x.extractLsb' 1 2)) <<< 1 ||| f1 4 (x.getLsbD 4) = x) r.fn7 h h0
theorem Raw.fn7_cvtx (h : r.only 0x1F#7 = true) : (r.fn7.extractLsb' 0 3).setWidth 7 ||| f1 3 (r.f 3) ||| f1 4 (r.f 4) = r.fn7 :=
  (by decide : ∀ x : BitVec 7, (x &&& ~~~0x1F#7 == 0#7) = true →
    (x.extractLsb' 0 3).setWidth 7 ||| f1 3 (x.getLsbD 3) ||| f1 4 (x.getLsbD 4) = x) r.fn7 h
theorem Raw.fn7_cvtmx (h : (r.only 3#7 && !(r.f 1 && !r.f 0)) = true) :
    encMxSrc (if r.f 1 then .bf16hs else if r.f 0 then .bf16 else .f32) = r.fn7 :=
  (by decide : ∀ x : BitVec 7, (x &&& ~~~3#7 == 0#7 && !(x.getLsbD 1 && !x.getLsbD 0)) = true →
    encMxSrc (if x.getLsbD 1 then .bf16hs else if x.getLsbD 0 then .bf16 else .f32) = x) r.fn7 h
theorem Raw.fn7_lget_imm {seg : Seg} (h : segOf (r.fn7.extractLsb' 2 3) = some seg) (h6 : r.f 6 = true) :
    lgBits (lgModeOf (r.fn7.extractLsb' 0 2)) ||| segBits seg ||| f1 5 (r.f 5) ||| 0x40#7 = r.fn7 :=
  (by decide : ∀ x : BitVec 7, ∀ seg ∈ segOf (x.extractLsb' 2 3), x.getLsbD 6 = true →
    lgBits (lgModeOf (x.extractLsb' 0 2)) ||| segBits seg ||| f1 5 (x.getLsbD 5) ||| 0x40#7 = x) r.fn7 seg h h6
theorem Raw.fn7_lget_src {seg : Seg} (h : segOf (r.fn7.extractLsb' 2 3) = some seg) (h6 : ¬ r.f 6 = true) :
    lgBits (lgModeOf (r.fn7.extractLsb' 0 2)) ||| segBits seg ||| f1 5 (r.f 5) = r.fn7 :=
  (by decide : ∀ x : BitVec 7, ∀ seg ∈ segOf (x.extractLsb' 2 3), ¬ x.getLsbD 6 = true →
    lgBits (lgModeOf (x.extractLsb' 0 2)) ||| segBits seg ||| f1 5 (x.getLsbD 5) = x) r.fn7 seg h h6
theorem Raw.fn7_perm (h : r.only 0x21#7 = true) : f1 0 (r.f 0) ||| f1 5 (r.f 5) = r.fn7 :=
  (by decide : ∀ x : BitVec 7, (x &&& ~~~0x21#7 == 0#7) = true → f1 0 (x.getLsbD 0) ||| f1 5 (x.getLsbD 5) = x) r.fn7 h
theorem Raw.fn7_vote (h : r.only 0xF#7 = true) (h2 : (!r.f 2 || r.fn7.extractLsb' 0 2 == 2#2) = true) :
    (if r.f 2 then 6#7 else (r.fn7.extractLsb' 0 2).setWidth 7) ||| f1 3 (r.f 3) = r.fn7 :=
  (by decide : ∀ x : BitVec 7, (x &&& ~~~0xF#7 == 0#7) = true → (!x.getLsbD 2 || x.extractLsb' 0 2 == 2#2) = true →
    (if x.getLsbD 2 then 6#7 else (x.extractLsb' 0 2).setWidth 7) ||| f1 3 (x.getLsbD 3) = x) r.fn7 h h2
theorem Raw.fn7_redux (h : r.only 0xF#7 = true) {op : RedOp} (ho : redOpOf (r.fn7.extractLsb' 0 3) = some op) :
    redBits op ||| f1 3 (r.f 3) = r.fn7 :=
  (by decide : ∀ x : BitVec 7, (x &&& ~~~0xF#7 == 0#7) = true → ∀ op ∈ redOpOf (x.extractLsb' 0 3),
    redBits op ||| f1 3 (x.getLsbD 3) = x) r.fn7 h op ho

/-! C and its fields. -/

theorem Raw.c_cvt {s d : CvtType} (hs : cvtOf (r.c.extractLsb' 0 4) = some s) (hd : cvtOf (r.c.extractLsb' 4 4) = some d) :
    cvtCode d ++ cvtCode s = r.c := by
  have hc : ∀ x : BitVec 4, ∀ t ∈ cvtOf x, cvtCode t = x := by decide
  rw [hc _ _ hs, hc _ _ hd, field_append r.c 0 4 4]
  exact BitVec.extractLsb'_eq_self

/-- The optional predicate in C. -/
theorem Raw.isSome_of_optC {on : Bool} {pc : Option (BitVec 6)} (h : r.optC on = some pc) : pc.isSome = on := by
  unfold Raw.optC at h
  split at h
  · obtain ⟨n, hn, rfl⟩ := Option.map_eq_some_iff.mp h
    simp_all
  · obtain ⟨hc, rfl⟩ := optIf_eq_some.mp h
    simp_all

theorem Raw.putOptC_of_optC {on : Bool} {pc : Option (BitVec 6)} (h : r.optC on = some pc) (hx : x.c = 0#8) :
    x.putOptC pc = { x with c := r.c } := by
  unfold Raw.optC at h
  split at h
  · obtain ⟨n, hn, rfl⟩ := Option.map_eq_some_iff.mp h
    simp_all [Raw.putOptC]
  · obtain ⟨hc, rfl⟩ := optIf_eq_some.mp h
    cases x
    simp_all [Raw.putOptC]

end Sys2Proof
end

section
/-! Proofs/Fields: the fields of the memory, matrix, copy and task-engine rows (06_memory_port R189, R193, 11_matrix,
12_polder_copy R330, 14_task_engine R361). -/

namespace Sys2Proof

variable {r x : Raw} {op : Byte}

/-! Rows A and B. -/

theorem Raw.fn7_mem : memBits r.mem = r.fn7 :=
  (by decide : ∀ x : BitVec 7, memBits ⟨sizeOf_ (x.extractLsb' 0 3), spaceOf (x.extractLsb' 3 2), policyOf (x.extractLsb' 5 2)⟩ = x)
    r.fn7

theorem Raw.base_eq_some {a : Src} : r.base = some a ↔ r.srcA = some a ∧ pairSrc a = true := by
  simp [Raw.base, Option.bind_eq_some_iff]

theorem Raw.putAddr_of_addr {ad : Addr} (h : r.addr = some ad) (hu : x.au = false) (hb : x.bu = false) :
    ad.wf = true ∧ r.ai = false ∧ r.r31 = false ∧
      x.putAddr ad = { x with a := r.a, au := r.au, b := r.b, bu := r.bu, c := r.c } := by
  simp [Raw.addr, Option.bind_eq_some_iff, Raw.base_eq_some] at h
  obtain ⟨a, ⟨ha, hp⟩, b, hb', ⟨hai, h31⟩, rfl⟩ := h
  refine ⟨hp, hai, h31, ?_⟩
  unfold Raw.putAddr
  rw [Raw.putA_of_srcA ha hu, Raw.putB_of_srcB hb']
  · rfl
  · exact hb

theorem Raw.putAddrL_of_addrL {ad : AddrL} (h : r.addrL = some ad) (hu : x.au = false) (hb : x.bu = false) :
    ad.wf = true ∧ r.ai = false ∧ r.r31 = false ∧ r.c = 0#8 ∧
      x.putAddrL ad = { x with a := r.a, au := r.au, b := r.b, bu := r.bu, lit := r.lit } := by
  simp [Raw.addrL, Option.bind_eq_some_iff, Raw.base_eq_some] at h
  obtain ⟨a, ⟨ha, hp⟩, b, hb', ⟨⟨hai, h31⟩, hc⟩, rfl⟩ := h
  refine ⟨hp, hai, h31, hc, ?_⟩
  unfold Raw.putAddrL
  rw [Raw.putA_of_srcA ha hu, Raw.putB_of_srcB hb']
  · rfl
  · exact hb

theorem Raw.fn7_pref (h : r.only 0x38#7 = true) {sp : GSpace} (hs : gspaceOf (r.fn7.extractLsb' 3 2) = some sp) :
    at7 3 (gspaceCode sp) ||| f1 5 (r.f 5) = r.fn7 :=
  (by decide : ∀ x : BitVec 7, (x &&& ~~~0x38#7 == 0#7) = true → ∀ sp ∈ gspaceOf (x.extractLsb' 3 2),
    at7 3 (gspaceCode sp) ||| f1 5 (x.getLsbD 5) = x) r.fn7 h sp hs
theorem Raw.fn7_fence (h : r.only 0x1F#7 = true) {k : FenceKind} (hk : fenceOf (r.fn7.extractLsb' 0 2) = some k) {sc : Scope}
    (hs : scopeOf (r.fn7.extractLsb' 2 3) = some sc) : fenceBits k ||| at7 2 (scopeCode sc) = r.fn7 :=
  (by decide : ∀ x : BitVec 7, (x &&& ~~~0x1F#7 == 0#7) = true → ∀ k ∈ fenceOf (x.extractLsb' 0 2),
    ∀ sc ∈ scopeOf (x.extractLsb' 2 3), fenceBits k ||| at7 2 (scopeCode sc) = x) r.fn7 h k hk sc hs

/-- C and FN7 of an atomic (R193). -/
theorem Raw.amod_eq_some {sc : Scope} {m : AMod} (hs : scopeOf (r.c.extractLsb' 0 3) = some sc) (h : r.amod sc = some m) :
    amodC m = r.c ∧ aspaceOf (r.fn7.extractLsb' 5 2) = some m.space := by
  simp [Raw.amod, Option.bind_eq_some_iff] at h
  obtain ⟨sp, hsp, hz, rfl⟩ := h
  refine ⟨?_, hsp⟩
  have hc : ∀ x : Byte, x.extractLsb' 6 2 = 0#2 → ∀ sc ∈ scopeOf (x.extractLsb' 0 3),
      at8 0 (scopeCode sc) ||| at8 3 (orderCode (orderOf (x.extractLsb' 3 2))) ||| (if x.getLsbD 5 then 0x20#8 else 0#8) = x := by
    decide
  exact hc r.c hz sc hs
theorem Raw.fn7_atom {op : AOp} (ho : aopOf (r.fn7.extractLsb' 0 5) = some op) {m : AMod}
    (hs : aspaceOf (r.fn7.extractLsb' 5 2) = some m.space) : aopBits op ||| amodSpace m = r.fn7 :=
  (by decide : ∀ x : BitVec 7, ∀ op ∈ aopOf (x.extractLsb' 0 5), ∀ sp ∈ aspaceOf (x.extractLsb' 5 2),
    aopBits op ||| at7 5 (aspaceCode sp) = x) r.fn7 op ho m.space hs
theorem Raw.fn7_atomcas (h : (r.fn7.extractLsb' 0 5 == 0#5) = true) {m : AMod}
    (hs : aspaceOf (r.fn7.extractLsb' 5 2) = some m.space) : amodSpace m = r.fn7 :=
  (by decide : ∀ x : BitVec 7, (x.extractLsb' 0 5 == 0#5) = true → ∀ sp ∈ aspaceOf (x.extractLsb' 5 2),
    at7 5 (aspaceCode sp) = x) r.fn7 h m.space hs
theorem Raw.fn7_queue (h : r.only 0x1F#7 = true) {sc : Scope} (hs : scopeOf (r.fn7.extractLsb' 0 3) = some sc) {sp : GSpace}
    (hp : gspaceOf (r.fn7.extractLsb' 3 2) = some sp) : at7 0 (scopeCode sc) ||| at7 3 (gspaceCode sp) = r.fn7 :=
  (by decide : ∀ x : BitVec 7, (x &&& ~~~0x1F#7 == 0#7) = true → ∀ sc ∈ scopeOf (x.extractLsb' 0 3),
    ∀ sp ∈ gspaceOf (x.extractLsb' 3 2), at7 0 (scopeCode sc) ||| at7 3 (gspaceCode sp) = x) r.fn7 h sc hs sp hp

/-! Row C. -/

theorem tileF_eq_some {x : Byte} {t : TileReg} : tileF x = some t ↔ x = x6 t ∧ tileWf t = true := by
  simp [tileF, tileWf, Option.bind_eq_some_iff]

/-- The two format fields in C. -/
theorem c_formats {c : Byte} (h : c.extractLsb' 6 2 = 0#2) :
    ((c.extractLsb' 3 3).setWidth 8 <<< 3) ||| (c.extractLsb' 0 3).setWidth 8 = c :=
  (by decide : ∀ c : Byte, c.extractLsb' 6 2 = 0#2 →
    ((c.extractLsb' 3 3).setWidth 8 <<< 3) ||| (c.extractLsb' 0 3).setWidth 8 = c) c h

theorem Raw.fn7_mma_small (h : r.only 0xF#7 = true) (h0 : r.f 0 = true) :
    1#7 ||| f1 1 (r.f 1) ||| ((r.fn7.extractLsb' 2 2).setWidth 7 <<< 2) = r.fn7 :=
  (by decide : ∀ x : BitVec 7, (x &&& ~~~0xF#7 == 0#7) = true → x.getLsbD 0 = true →
    1#7 ||| f1 1 (x.getLsbD 1) ||| ((x.extractLsb' 2 2).setWidth 7 <<< 2) = x) r.fn7 h h0
theorem Raw.fn7_mma_whole (h : r.only 0xF#7 = true) (h0 : ¬ r.f 0 = true) (hq : r.fn7.extractLsb' 2 2 = 0#2) :
    f1 1 (r.f 1) = r.fn7 :=
  (by decide : ∀ x : BitVec 7, (x &&& ~~~0xF#7 == 0#7) = true → ¬ x.getLsbD 0 = true → x.extractLsb' 2 2 = 0#2 →
    f1 1 (x.getLsbD 1) = x) r.fn7 h h0 hq
theorem Raw.fn7_accld (h : r.only 0x18#7 = true) {sp : ASpace} (hs : aspaceOf (r.fn7.extractLsb' 3 2) = some sp) :
    at7 3 (aspaceCode sp) = r.fn7 :=
  (by decide : ∀ x : BitVec 7, (x &&& ~~~0x18#7 == 0#7) = true → ∀ sp ∈ aspaceOf (x.extractLsb' 3 2),
    at7 3 (aspaceCode sp) = x) r.fn7 h sp hs
theorem Raw.fn7_accst (h : r.only 0x1B#7 = true) {sp : ASpace} (hs : aspaceOf (r.fn7.extractLsb' 3 2) = some sp) :
    rmBits (rmOf (r.fn7.extractLsb' 0 2)) ||| at7 3 (aspaceCode sp) = r.fn7 :=
  (by decide : ∀ x : BitVec 7, (x &&& ~~~0x1B#7 == 0#7) = true → ∀ sp ∈ aspaceOf (x.extractLsb' 3 2),
    rmBits (rmOf (x.extractLsb' 0 2)) ||| at7 3 (aspaceCode sp) = x) r.fn7 h sp hs
theorem Raw.fn7_accmov (h : r.only 0xF#7 = true) :
    (r.fn7.extractLsb' 0 2).setWidth 7 ||| ((r.fn7.extractLsb' 2 2).setWidth 7 <<< 2) = r.fn7 :=
  (by decide : ∀ x : BitVec 7, (x &&& ~~~0xF#7 == 0#7) = true →
    (x.extractLsb' 0 2).setWidth 7 ||| ((x.extractLsb' 2 2).setWidth 7 <<< 2) = x) r.fn7 h

/-! Row D. -/

/-- The fields of a copy (R330). -/
theorem Raw.encCpy_of_cpy {sc : Scope} {m : CpyMod} (hs : scopeOf (r.fn7.extractLsb' 4 3) = some sc) (h : r.cpy sc = some m) :
    r.r31 = false ∧ r.noU = true ∧ r.d = 0#8 ∧ m.scope = sc ∧
      ∀ n, encCpy n op m = { form n op r.guard r.fn7 with a := r.a, c := r.c, sfa := r.sfa, sfb := r.sfb } := by
  simp only [Raw.cpy, Option.bind_eq_bind, Option.bind_eq_some_iff, optIf_eq_some, Bool.and_eq_true, six_eq_some, beq_iff_eq,
    Bool.not_eq_true'] at h
  obtain ⟨ss, hss, ds, hds, a, ha, ke, hk, ⟨⟨h31, hu⟩, hd⟩, rfl⟩ := h
  refine ⟨h31, hu, hd, rfl, fun n => ?_⟩
  have h7 : ∀ x : BitVec 7, ∀ ss ∈ aspaceOf (x.extractLsb' 0 2), ∀ ds ∈ aspaceOf (x.extractLsb' 2 2),
      ∀ sc ∈ scopeOf (x.extractLsb' 4 3), at7 0 (aspaceCode ss) ||| at7 2 (aspaceCode ds) ||| at7 4 (scopeCode sc) = x := by
    decide
  unfold encCpy
  dsimp only
  rw [h7 r.fn7 ss hss ds hds sc hs]
  simp [ha, hk, Raw.flags]

theorem Raw.fn7_low2 (h : r.only 3#7 = true) : (r.fn7.extractLsb' 0 2).setWidth 7 = r.fn7 :=
  (by decide : ∀ x : BitVec 7, (x &&& ~~~3#7 == 0#7) = true → (x.extractLsb' 0 2).setWidth 7 = x) r.fn7 h
/-- The field of two bits that is none of the others. -/
theorem last_of_two_bits : ∀ x : BitVec 2, (x = 0#2 → False) → (x = 1#2 → False) → (x = 2#2 → False) → x = 3#2 := by
  decide
theorem Raw.fn7_surrender (h : (r.only 3#7 && !(r.f 0 && r.f 1)) = true) :
    (if r.f 0 then 1#7 else if r.f 1 then 2#7 else 0#7) = r.fn7 :=
  (by decide : ∀ x : BitVec 7, (x &&& ~~~3#7 == 0#7 && !(x.getLsbD 0 && x.getLsbD 1)) = true →
    (if x.getLsbD 0 then 1#7 else if x.getLsbD 1 then 2#7 else 0#7) = x) r.fn7 h

/-! Row E. -/

theorem countF_eq_some {c : Byte} {n : BitVec 5} (h : countF c = some n) : decide (n.toNat ≤ 16) = true ∧ c = n.setWidth 8 := by
  obtain ⟨hc, rfl⟩ := optIf_eq_some.mp h
  exact (by decide : ∀ c : Byte, decide (c.toNat ≤ 16) = true →
    decide ((c.setWidth 5).toNat ≤ 16) = true ∧ c = (c.setWidth 5).setWidth 8) c hc

theorem Raw.fn7_bind (h : r.only 3#7 = true) {b : Bind} (hb : bindOf (r.fn7.extractLsb' 0 2) = some b) :
    at7 0 (bindCode b) = r.fn7 :=
  (by decide : ∀ x : BitVec 7, (x &&& ~~~3#7 == 0#7) = true → ∀ b ∈ bindOf (x.extractLsb' 0 2), at7 0 (bindCode b) = x)
    r.fn7 h b hb
theorem Raw.fn7_evsig (h : r.only 7#7 = true) {sc : Scope} (hs : scopeOf (r.fn7.extractLsb' 0 3) = some sc) :
    at7 0 (scopeCode sc) = r.fn7 :=
  (by decide : ∀ x : BitVec 7, (x &&& ~~~7#7 == 0#7) = true → ∀ sc ∈ scopeOf (x.extractLsb' 0 3), at7 0 (scopeCode sc) = x)
    r.fn7 h sc hs
theorem Raw.fn7_evwait (h : r.only 7#7 = true) {b : Bind} (hb : bindOf (r.fn7.extractLsb' 1 2) = some b) :
    f1 0 (r.f 0) ||| at7 1 (bindCode b) = r.fn7 :=
  (by decide : ∀ x : BitVec 7, (x &&& ~~~7#7 == 0#7) = true → ∀ b ∈ bindOf (x.extractLsb' 1 2),
    f1 0 (x.getLsbD 0) ||| at7 1 (bindCode b) = x) r.fn7 h b hb
theorem Raw.fn7_cntdec (h : r.only 0x18#7 = true) {sp : GSpace} (hs : gspaceOf (r.fn7.extractLsb' 3 2) = some sp) :
    at7 3 (gspaceCode sp) = r.fn7 :=
  (by decide : ∀ x : BitVec 7, (x &&& ~~~0x18#7 == 0#7) = true → ∀ sp ∈ gspaceOf (x.extractLsb' 3 2),
    at7 3 (gspaceCode sp) = x) r.fn7 h sp hs
theorem Raw.fn7_slot (h : r.only 7#7 = true) : (r.fn7.extractLsb' 0 3).setWidth 7 = r.fn7 :=
  (by decide : ∀ x : BitVec 7, (x &&& ~~~7#7 == 0#7) = true → (x.extractLsb' 0 3).setWidth 7 = x) r.fn7 h
theorem Raw.fn7_cbpush (h : r.only 0x1F#7 = true) :
    (r.fn7.extractLsb' 0 3).setWidth 7 ||| ((r.fn7.extractLsb' 3 2).setWidth 7 <<< 3) = r.fn7 :=
  (by decide : ∀ x : BitVec 7, (x &&& ~~~0x1F#7 == 0#7) = true →
    (x.extractLsb' 0 3).setWidth 7 ||| ((x.extractLsb' 3 2).setWidth 7 <<< 3) = x) r.fn7 h
theorem Raw.fn7_cbdone (h : r.only 0x1C#7 = true) : (r.fn7.extractLsb' 2 3).setWidth 7 <<< 2 = r.fn7 :=
  (by decide : ∀ x : BitVec 7, (x &&& ~~~0x1C#7 == 0#7) = true → (x.extractLsb' 2 3).setWidth 7 <<< 2 = x) r.fn7 h
theorem Raw.fn7_cbflush (h : r.only 0x3D#7 = true) (h1 : r.fn7.extractLsb' 0 2 = 1#2) :
    1#7 ||| ((r.fn7.extractLsb' 2 3).setWidth 7 <<< 2) ||| f1 5 (r.f 5) = r.fn7 :=
  (by decide : ∀ x : BitVec 7, (x &&& ~~~0x3D#7 == 0#7) = true → x.extractLsb' 0 2 = 1#2 →
    1#7 ||| ((x.extractLsb' 2 3).setWidth 7 <<< 2) ||| f1 5 (x.getLsbD 5) = x) r.fn7 h h1

end Sys2Proof
end

section
/-! Proofs/RowsInteger: rows 0 to 3, 8, 9 and F of the opcode map, cell by cell (02_encoding R51 to R53). -/

namespace Sys2Proof

variable {r : Raw}

theorem decRow0_exact (hs : r.Shaped) (hl : lenAllowed r.op r.len = true) (hr : r.op.extractLsb' 4 4 = 0x0#4) :
    r.Exact (decRow0 r) := by
  unfold decRow0
  split <;> rename_i ho
  · have c : r.Cell 0x00#8 := .of_nibbles hs hl hr ho
    exact .minor fun hf => .rsv (.ite (fun h => .shape (c.three h).encL2L_eq (Raw.fn7_only3 hf))
      fun h => .shape (c.not3 h).encL2_eq (Raw.fn7_only3 hf))
  · have c : r.Cell 0x01#8 := .of_nibbles hs hl hr ho
    exact .minor fun hf => .rsv (.ite (fun h => .shape (c.three h).encL2L_eq (Raw.fn7_only3 hf))
      fun h => .shape (c.not3 h).encL2_eq (Raw.fn7_only3 hf))
  · have c : r.Cell 0x02#8 := .of_nibbles hs hl hr ho
    exact .minor fun hf => .rsv (.shape c.only2.encL1_eq (Raw.fn7_only2 hf))
  · have c : r.Cell 0x03#8 := .of_nibbles hs hl hr ho
    exact .minor fun hf => .rsv (.shape c.only2.encL3_eq (Raw.fn7_only0 hf))
  · have c : r.Cell 0x04#8 := .of_nibbles hs hl hr ho
    exact .minor fun hf => .rsv (.bind fun o h => .optIf fun hp => ⟨hp, congrArg some (Raw.fn7_only3 hf ▸ c.only2.encL2_eq h)⟩)
  · have c : r.Cell 0x05#8 := .of_nibbles hs hl hr ho
    exact .minor fun hf => .rsv (.bind fun o h => .optIf fun hp => ⟨hp, congrArg some (Raw.fn7_only3 hf ▸ c.only2.encL2_eq h)⟩)
  · have c : r.Cell 0x06#8 := .of_nibbles hs hl hr ho
    exact .minor fun hf => .rsv (.ite (fun h => .shape (c.three h).encL2L_eq (Raw.fn7_only0 hf))
      fun h => .shape (c.not3 h).encL2_eq (Raw.fn7_only0 hf))
  · have c : r.Cell 0x07#8 := .of_nibbles hs hl hr ho
    exact .minor fun hf => .rsv (.shape c.only2.encL2_eq (Raw.fn7_only1 hf))
  · have c : r.Cell 0x08#8 := .of_nibbles hs hl hr ho
    exact .minor fun hf => .rsv (.ite (fun h => .shape (c.three h).encL3L_eq (Raw.fn7_only0 hf))
      fun h => .shape (c.not3 h).encL3_eq (Raw.fn7_only0 hf))
  · have c : r.Cell 0x09#8 := .of_nibbles hs hl hr ho
    exact .minor fun hf => .rsv (.shape c.only2.encL3_eq (Raw.fn7_only1 hf))
  · have c : r.Cell 0x0A#8 := .of_nibbles hs hl hr ho
    exact .minor fun hf => .rsv (.ite (fun h => .shape (c.three h).encL2L_eq (Raw.fn7_only1 hf))
      fun h => .shape (c.not3 h).encL2_eq (Raw.fn7_only1 hf))
  · have c : r.Cell 0x0B#8 := .of_nibbles hs hl hr ho
    exact .minor fun hf => .rsv (.ite (fun h => .shape (c.three h).encL2L_eq (Raw.fn7_only1 hf))
      fun h => .shape (c.not3 h).encL2_eq (Raw.fn7_only1 hf))
  · have c : r.Cell 0x0C#8 := .of_nibbles hs hl hr ho
    exact .minor fun hf => .rsv (.shape c.only2.encL1_eq (Raw.fn7_only2 hf))
  · have c : r.Cell 0x0D#8 := .of_nibbles hs hl hr ho
    exact .minor fun hf => .ite (fun _ => .notNative _) fun h2 => .rsv (.shape c.only2.encL2_eq (Raw.fn7_only5 hf h2))
  · have c : r.Cell 0x0E#8 := .of_nibbles hs hl hr ho
    exact .minor fun hf => .ite (fun _ => .notNative _) fun h2 => .rsv (.shape c.only2.encL2_eq (Raw.fn7_only5 hf h2))
  · have c : r.Cell 0x0F#8 := .of_nibbles hs hl hr (by apply last_nibble <;> assumption)
    split <;> rename_i hn
    · exact .ok rfl (congrArg some (c.only1.eq_of hn.symm ⟨rfl, rfl⟩))
    · exact .ok rfl (congrArg some (c.only1.eq_of hn.symm ⟨rfl, rfl⟩))
    · exact .ok rfl (congrArg some (c.only1.eq_of hn.symm ⟨rfl, rfl⟩))
    · exact .ok rfl (congrArg some (c.only1.eq_of hn.symm ⟨rfl, rfl⟩))
    · exact .rsv (.optIf fun ha => ⟨rfl, congrArg some (c.only1.eq_of hn.symm ⟨rfl, (beq_iff_eq.mp ha).symm⟩)⟩)
    · exact .error _

theorem decRow1_exact (hs : r.Shaped) (hl : lenAllowed r.op r.len = true) (hr : r.op.extractLsb' 4 4 = 0x1#4) :
    r.Exact (decRow1 r) := by
  unfold decRow1
  split <;> rename_i ho
  · have c : r.Cell 0x10#8 := .of_nibbles hs hl hr ho
    exact .minor fun hf => .rsv (.map fun o h => ⟨rfl, congrArg some (c.only2.encShift_eq (Raw.fn7_only1 hf) h)⟩)
  · have c : r.Cell 0x11#8 := .of_nibbles hs hl hr ho
    exact .minor fun hf => .rsv (.map fun o h => ⟨rfl, congrArg some (c.only2.encShift_eq (Raw.fn7_only1 hf) h)⟩)
  · have c : r.Cell 0x12#8 := .of_nibbles hs hl hr ho
    exact .minor fun hf => .rsv (.map fun o h => ⟨rfl, congrArg some (c.only2.encShift_eq (Raw.fn7_only1 hf) h)⟩)
  · have c : r.Cell 0x13#8 := .of_nibbles hs hl hr ho
    exact .minor fun hf => .rsv (.map fun o h => ⟨rfl, congrArg some (c.only2.encShift_eq (Raw.fn7_only1 hf) h)⟩)
  · have c : r.Cell 0x14#8 := .of_nibbles hs hl hr ho
    exact .minor fun hf => .rsv (.map fun o h => ⟨rfl, congrArg some (c.only2.encShift_eq (Raw.fn7_only1 hf) h)⟩)
  · have c : r.Cell 0x15#8 := .of_nibbles hs hl hr ho
    refine .minor fun hf => .rsv (.bind fun a ha => .bind fun b hb => .ite (fun h0 => .bind fun n hn => .optIf fun hk => ?_)
      fun h0 => .optIf fun hk => ?_)
    · obtain ⟨n, hn, rfl⟩ := Option.map_eq_some_iff.mp hn
      refine ⟨rfl, congrArg some ?_⟩
      dsimp only
      rw [Raw.putA_of_srcA ha rfl, Raw.putB_of_srcB hb rfl]
      exact c.only2.eq_of (Raw.fn7_shf_imm hf h0) (by simp_all)
    · refine ⟨rfl, congrArg some ?_⟩
      dsimp only
      rw [Raw.putA_of_srcA ha rfl, Raw.putB_of_srcB hb rfl]
      exact c.only2.eq_of (Raw.fn7_shf_v hf h0) (by simp_all)
  · have c : r.Cell 0x16#8 := .of_nibbles hs hl hr ho
    exact .minor fun hf => .rsv (.shape c.only2.encL1_eq (Raw.fn7_only0 hf))
  · have c : r.Cell 0x17#8 := .of_nibbles hs hl hr ho
    exact .minor fun hf => .ite (fun _ => .notNative _) fun h2 => .rsv (.shape c.only2.encL1_eq (Raw.fn7_only4 hf h2))
  · have c : r.Cell 0x18#8 := .of_nibbles hs hl hr ho
    exact .minor fun hf => .rsv (.shape c.only2.encL1_eq (Raw.fn7_only0 hf))
  · have c : r.Cell 0x19#8 := .of_nibbles hs hl hr ho
    exact .minor fun hf => .rsv (.shape c.only2.encL2_eq (Raw.fn7_only1 hf))
  · have c : r.Cell 0x1A#8 := .of_nibbles hs hl hr ho
    exact .minor fun hf => .rsv (.shape c.only2.encL3_eq (Raw.fn7_only0 hf))
  · exact .error _

theorem decRow2_exact (hs : r.Shaped) (hl : lenAllowed r.op r.len = true) (hr : r.op.extractLsb' 4 4 = 0x2#4) :
    r.Exact (decRow2 r) := by
  unfold decRow2
  split <;> rename_i ho
  · have c : r.Cell 0x20#8 := .of_nibbles hs hl hr ho
    exact .minor fun hf => .rsv (.ite (fun h => .shape (c.three h).encL2L_eq (Raw.fn7_only0 hf))
      fun h => .shape (c.not3 h).encL2_eq (Raw.fn7_only0 hf))
  · have c : r.Cell 0x21#8 := .of_nibbles hs hl hr ho
    exact .minor fun hf => .rsv (.ite (fun h => .shape (c.three h).encL2L_eq (Raw.fn7_only0 hf))
      fun h => .shape (c.not3 h).encL2_eq (Raw.fn7_only0 hf))
  · have c : r.Cell 0x22#8 := .of_nibbles hs hl hr ho
    exact .minor fun hf => .rsv (.ite (fun h => .shape (c.three h).encL2L_eq (Raw.fn7_only0 hf))
      fun h => .shape (c.not3 h).encL2_eq (Raw.fn7_only0 hf))
  · have c : r.Cell 0x23#8 := .of_nibbles hs hl hr ho
    refine .ite (fun h => .minor fun hf => .ok rfl (congrArg some ?_))
      fun h => .minor fun hf => .rsv (.shape (c.not1 h).encL1_eq (Raw.fn7_only0 hf))
    exact (c.one h).eq_of (beq_iff_eq.mp hf).symm ⟨rfl, rfl⟩
  · have c : r.Cell 0x24#8 := .of_nibbles hs hl hr ho
    refine .minor fun hf => .rsv (.bind fun a ha => .bind fun b hb => .optIf fun hk => ⟨rfl, congrArg some ?_⟩)
    obtain ⟨hk, hz⟩ := Bool.and_eq_true_iff.mp hk
    rw [Raw.putA_of_srcA ha rfl, Raw.putB_of_srcB hb rfl]
    exact c.only3.eq_of (Raw.fn7_only0 hf) (by simp_all [setWidth_of_high_zero (beq_iff_eq.mp hz)])
  · have c : r.Cell 0x25#8 := .of_nibbles hs hl hr ho
    exact .minor fun hf => .rsv (.shape c.only2.encP2_eq (Raw.fn7_only3 hf))
  · have c : r.Cell 0x26#8 := .of_nibbles hs hl hr ho
    exact .minor fun hf => .rsv (.shape c.only2.encP2_eq (Raw.fn7_only3 hf))
  · have c : r.Cell 0x27#8 := .of_nibbles hs hl hr ho
    exact .minor fun hf => .rsv (.shape c.only2.encP2_eq (Raw.fn7_only3 hf))
  · have c : r.Cell 0x28#8 := .of_nibbles hs hl hr ho
    exact .minor fun hf => .rsv (.bind fun d hd => .bind fun a ha => .optIf fun hk =>
      ⟨rfl, congrArg some (c.only2.eq_of (Raw.fn7_only0 hf) (by simp_all))⟩)
  · have c : r.Cell 0x29#8 := .of_nibbles hs hl hr ho
    refine .minor fun hf => .rsv (.bind fun a ha => .optIf fun hk => ?_)
    obtain ⟨hk, hn⟩ := Bool.and_eq_true_iff.mp hk
    exact ⟨hn, congrArg some (c.only2.eq_of (Raw.fn7_only0 hf) (by simp_all))⟩
  · have c : r.Cell 0x2A#8 := .of_nibbles hs hl hr ho
    refine .minor fun hf => .rsv (.bind fun d hd => .bind fun a ha => .optIf fun hk => ?_)
    obtain ⟨hk, hn⟩ := Bool.and_eq_true_iff.mp hk
    refine ⟨hn, congrArg some ?_⟩
    rw [Raw.putA_of_srcA ha rfl]
    exact c.only2.eq_of (Raw.fn7_only0 hf) (by simp_all)
  · exact .error _

theorem decRow3_exact (hs : r.Shaped) (hl : lenAllowed r.op r.len = true) (hr : r.op.extractLsb' 4 4 = 0x3#4) :
    r.Exact (decRow3 r) := by
  unfold decRow3
  split <;> rename_i ho
  · have c : r.Cell 0x30#8 := .of_nibbles hs hl hr ho
    exact .minor fun hf => .fieldOf fun cc hcc => .fieldOf fun bop hb => .rsv (.ite
      (fun h => .shape (c.three h).encSetPL_eq (Raw.fn7_setp hf hcc hb)) fun h => .shape (c.not3 h).encSetP_eq (Raw.fn7_setp hf hcc hb))
  · have c : r.Cell 0x31#8 := .of_nibbles hs hl hr ho
    refine .minor fun hf => .fieldOf fun bop hb => ?_
    obtain ⟨hf, hu⟩ := Bool.and_eq_true_iff.mp hf
    exact .rsv (.ite (fun h => .shape (c.three h).encSetPL_eq (Raw.fn7_fsetp hf hb) (hw := fun _ => hu))
      fun h => .shape (c.not3 h).encSetP_eq (Raw.fn7_fsetp hf hb) (hw := fun _ => hu))
  · have c : r.Cell 0x32#8 := .of_nibbles hs hl hr ho
    refine .minor fun hf => .fieldOf fun cc hcc => .fieldOf fun bop hb => .rsv (.bind fun d hd => .bind fun a ha => .bind fun k hc =>
      .ite (fun h => .optIf fun hk => ⟨rfl, congrArg some ?_⟩) fun h => .bind fun b hb' => .optIf fun hk => ⟨rfl, congrArg some ?_⟩)
    · exact (c.three h).eq_of (Raw.fn7_setp hf hcc hb) (by simp_all)
    · exact (c.not3 h).eq_of (Raw.fn7_setp hf hcc hb) (by simp_all)
  · have c : r.Cell 0x33#8 := .of_nibbles hs hl hr ho
    refine .minor fun hf => .rsv (.bind fun a ha => .bind fun b hb => .bind fun k hc => .optIf fun hk => ⟨rfl, congrArg some ?_⟩)
    rw [Raw.putA_of_srcA ha rfl, Raw.putB_of_srcB hb rfl]
    exact c.only2.eq_of (Raw.fn7_only1 hf) (by simp_all)
  · have c : r.Cell 0x34#8 := .of_nibbles hs hl hr ho
    refine .ite (fun h => .minor fun hf => .ok rfl (congrArg some ?_))
      fun h => .minor fun hf => .rsv (.bind fun a ha => .optIf fun hk => ⟨rfl, congrArg some ?_⟩)
    · exact (c.one h).eq_of (beq_iff_eq.mp hf).symm ⟨rfl, rfl⟩
    · obtain ⟨hau, ha⟩ := Raw.putLSrc_of_lsrc (x := (form 2 0x34#8 r.guard 0#7).putD r.d) ha rfl rfl
      rw [ha]
      exact (c.not1 h).eq_of (Raw.fn7_only0 hf) (by simp_all)
  · have c : r.Cell 0x35#8 := .of_nibbles hs hl hr ho
    exact .minor fun hf => .rsv (.optIf fun hk =>
      ⟨rfl, congrArg some (c.only3.eq_of (Raw.fn7_only0 hf) (by simp_all))⟩)
  · have c : r.Cell 0x36#8 := .of_nibbles hs hl hr ho
    exact .minor fun hf => .rsv (.bind fun a ha => .optIf fun hk =>
      ⟨rfl, congrArg some (c.only2.eq_of (Raw.fn7_only1 hf) (by simp_all))⟩)
  · have c : r.Cell 0x37#8 := .of_nibbles hs hl hr ho
    refine .ite (fun h => .minor fun hf => .ok rfl (congrArg some ?_))
      fun h => .minor fun hf => .rsv (.bind fun a ha => .optIf fun hk => ⟨rfl, congrArg some ?_⟩)
    · exact (c.one h).eq_of (beq_iff_eq.mp hf).symm ⟨rfl, rfl⟩
    · obtain ⟨hau, ha⟩ := Raw.putLSrc_of_lsrc (x := (form 2 0x37#8 r.guard 0#7).putD r.d) ha rfl rfl
      rw [ha]
      exact (c.not1 h).eq_of (Raw.fn7_only0 hf) (by simp_all)
  · have c : r.Cell 0x38#8 := .of_nibbles hs hl hr ho
    refine .minor fun hf => .rsv (.ite (fun h0 => .bind fun d hd => .optIf fun hk => ?_) fun h0 => .optIf fun hk => ?_)
    · exact ⟨by simp_all [Instr.wf, MfsDst.wf], congrArg some (c.only2.eq_of (Raw.fn7_mfs_uni hf h0) (by simp_all))⟩
    · exact ⟨by simp_all [Instr.wf, MfsDst.wf], congrArg some (c.only2.eq_of (Raw.fn7_mfs_lane hf h0) (by simp_all))⟩
  · have c : r.Cell 0x39#8 := .of_nibbles hs hl hr ho
    exact .minor fun hf => .rsv (.bind fun a ha => .optIf fun hk =>
      ⟨by simp_all [Instr.wf], congrArg some (c.only2.eq_of (Raw.fn7_only0 hf) (by simp_all))⟩)
  · have c : r.Cell 0x3A#8 := .of_nibbles hs hl hr ho
    exact .minor fun hf => .rsv (.bind fun d hd => .bind fun a ha => .optIf fun hk =>
      ⟨rfl, congrArg some (c.only2.eq_of (Raw.fn7_only0 hf) (by simp_all))⟩)
  · have c : r.Cell 0x3B#8 := .of_nibbles hs hl hr ho
    exact .minor fun hf => .rsv (.bind fun d hd => .optIf fun hk =>
      ⟨rfl, congrArg some (c.only3.eq_of (Raw.fn7_kmovi hf) (by simp_all))⟩)
  · have c : r.Cell 0x3C#8 := .of_nibbles hs hl hr ho
    refine .minor fun hf => .rsv ?_
    by_cases h0 : r.f 0 = true
    · simp only [if_pos h0]
      exact .ite (fun h => .shape (c.three h).encK2L_eq (Raw.fn7_is1 hf h0)) fun h => .shape (c.not3 h).encK2_eq (Raw.fn7_is1 hf h0)
    · simp only [if_neg h0]
      exact .ite (fun h => .shape (c.three h).encK2L_eq (Raw.fn7_is0 hf h0)) fun h => .shape (c.not3 h).encK2_eq (Raw.fn7_is0 hf h0)
  · have c : r.Cell 0x3D#8 := .of_nibbles hs hl hr ho
    exact .minor fun hf => .rsv (.ite (fun h => .shape (c.three h).encK2L_eq (Raw.fn7_only0 hf))
      fun h => .shape (c.not3 h).encK2_eq (Raw.fn7_only0 hf))
  · have c : r.Cell 0x3E#8 := .of_nibbles hs hl hr ho
    refine .minor fun hf => .rsv (.bind fun d hd => .bind fun a ha => .ite (fun h2 => .bind fun n hn => .optIf fun hk => ?_)
      fun h2 => .bind fun b hb => .optIf fun hk => ?_)
    · split <;> rename_i h0
      · exact ⟨rfl, congrArg some (c.only2.eq_of (by rw [← Raw.fn7_ksh hf, h0, h2]; rfl) (by simp_all))⟩
      · exact ⟨rfl, congrArg some (c.only2.eq_of (by rw [← Raw.fn7_ksh hf, eq_false_of_ne_true h0, h2]; rfl) (by simp_all))⟩
    · have h2 := eq_false_of_ne_true h2
      split <;> rename_i h0
      · exact ⟨rfl, congrArg some (c.only2.eq_of (by rw [← Raw.fn7_ksh hf, h0, h2]; rfl) (by simp_all))⟩
      · exact ⟨rfl, congrArg some (c.only2.eq_of (by rw [← Raw.fn7_ksh hf, eq_false_of_ne_true h0, h2]; rfl) (by simp_all))⟩
  · have c : r.Cell 0x3F#8 := .of_nibbles hs hl hr (by apply last_nibble <;> assumption)
    refine .minor fun hf => .rsv ?_
    have h7 := Raw.fn7_two_bits hf
    by_cases h1 : r.f 1 = true
    · simp only [if_pos h1] at h7 ⊢
      exact .ite (fun h => .shape (c.three h).encK2L_eq h7) fun h => .shape (c.not3 h).encK2_eq h7
    · by_cases h0 : r.f 0 = true
      · simp only [if_neg h1, if_pos h0] at h7 ⊢
        exact .ite (fun h => .shape (c.three h).encK2L_eq h7) fun h => .shape (c.not3 h).encK2_eq h7
      · simp only [if_neg h1, if_neg h0] at h7 ⊢
        exact .ite (fun h => .shape (c.three h).encK2L_eq h7) fun h => .shape (c.not3 h).encK2_eq h7

theorem decRow8_exact (hs : r.Shaped) (hl : lenAllowed r.op r.len = true) (hr : r.op.extractLsb' 4 4 = 0x8#4) :
    r.Exact (decRow8 r) := by
  unfold decRow8
  split <;> rename_i ho
  · have c : r.Cell 0x80#8 := .of_nibbles hs hl hr ho
    exact .minor fun hf => .rsv (.optIf fun hk =>
      ⟨rfl, congrArg some (c.only3.eq_of (Raw.fn7_only0 hf) (by simp_all))⟩)
  · have c : r.Cell 0x81#8 := .of_nibbles hs hl hr ho
    exact .minor fun hf => .rsv (.optIf fun hk =>
      ⟨rfl, congrArg some (c.only3.eq_of (Raw.fn7_only0 hf) (by simp_all))⟩)
  · have c : r.Cell 0x82#8 := .of_nibbles hs hl hr ho
    refine .minor fun hf => .rsv (.bind fun a ha => .optIf fun hk => ?_)
    obtain ⟨hk, hp⟩ := Bool.and_eq_true_iff.mp hk
    refine ⟨hp, congrArg some ?_⟩
    rw [Raw.putA_of_srcA ha rfl]
    exact c.only2.eq_of (Raw.fn7_only0 hf) (by simp_all)
  · have c : r.Cell 0x83#8 := .of_nibbles hs hl hr ho
    refine .minor fun hf => .rsv (.optIf fun hk => ?_)
    obtain ⟨hk, hp⟩ := Bool.and_eq_true_iff.mp hk
    exact ⟨hp, congrArg some (c.only3.eq_of (Raw.fn7_only0 hf) (by simp_all))⟩
  · have c : r.Cell 0x84#8 := .of_nibbles hs hl hr ho
    refine .minor fun hf => .rsv (.bind fun a ha => .optIf fun hk => ?_)
    refine ⟨by simp_all [Instr.wf], congrArg some ?_⟩
    rw [Raw.putA_of_srcA ha rfl]
    exact c.only2.eq_of (Raw.fn7_only0 hf) (by simp_all)
  · have c : r.Cell 0x85#8 := .of_nibbles hs hl hr ho
    refine .minor fun hf => .rsv (.optIf fun hk => ?_)
    obtain ⟨hd, hp⟩ := Bool.and_eq_true_iff.mp hk
    exact ⟨hp, congrArg some (c.only1.eq_of (beq_iff_eq.mp hf).symm ⟨(beq_iff_eq.mp hd).symm, rfl⟩)⟩
  · have c : r.Cell 0x86#8 := .of_nibbles hs hl hr ho
    exact .minor fun hf => .rsv (.optIf fun hz => c.only1.bare hf hz)
  · have c : r.Cell 0x87#8 := .of_nibbles hs hl hr ho
    exact .minor fun hf => .rsv (.optIf fun hz => c.only1.bare hf hz)
  · have c : r.Cell 0x88#8 := .of_nibbles hs hl hr ho
    refine .minor fun hf => .rsv (.bind fun d hd => .optIf fun hk => ?_)
    obtain ⟨hk, hp⟩ := Bool.and_eq_true_iff.mp hk
    exact ⟨hp, congrArg some (c.only2.eq_of (Raw.fn7_only0 hf) (by simp_all))⟩
  · exact .error _

theorem decRow9_exact (hs : r.Shaped) (hl : lenAllowed r.op r.len = true) (hr : r.op.extractLsb' 4 4 = 0x9#4) :
    r.Exact (decRow9 r) := by
  unfold decRow9
  split <;> rename_i ho
  · have c : r.Cell 0x90#8 := .of_nibbles hs hl hr ho
    exact .minor fun hf => .rsv (.optIf fun hz => c.only1.bare hf hz)
  · have c : r.Cell 0x91#8 := .of_nibbles hs hl hr ho
    exact .minor fun hf => .rsv (.optIf fun hz => c.only1.bare hf hz)
  · have c : r.Cell 0x92#8 := .of_nibbles hs hl hr ho
    exact .minor fun hf => .rsv (.bind fun d hd => .bind fun a ha => .bind fun b hb => .optIf fun hk =>
      ⟨rfl, congrArg some (c.only2.eq_of (Raw.fn7_only0 hf) (by simp_all))⟩)
  · have c : r.Cell 0x93#8 := .of_nibbles hs hl hr ho
    exact .minor fun hf => .fieldOf fun g hg => .rsv (.optIf fun hk =>
      ⟨rfl, congrArg some (c.only2.eq_of (Raw.fn7_grade hf hg) (by simp_all))⟩)
  · have c : r.Cell 0x94#8 := .of_nibbles hs hl hr ho
    exact .minor fun hf => .rsv (.bind fun a ha => .optIf fun hk =>
      ⟨rfl, congrArg some (c.only2.eq_of (Raw.fn7_only0 hf) (by simp_all))⟩)
  · have c : r.Cell 0x95#8 := .of_nibbles hs hl hr ho
    exact .minor fun hf => .fieldOf fun q hq => .rsv (.bind fun d hd => .bind fun a ha => .optIf fun hk =>
      ⟨by simp_all [Instr.wf], congrArg some (c.only2.eq_of (Raw.fn7_query hf hq) (by simp_all))⟩)
  · exact .error _

theorem decRowF_exact (hs : r.Shaped) (hl : lenAllowed r.op r.len = true) (hr : r.op.extractLsb' 4 4 = 0xF#4) :
    r.Exact (decRowF r) := by
  unfold decRowF
  split <;> rename_i ho
  · have c : r.Cell 0xF0#8 := .of_nibbles hs hl hr ho
    exact .minor fun hf => .rsv (.bind fun d hd => .bind fun a ha => .optIf fun hk =>
      ⟨rfl, congrArg some (c.only2.eq_of (Raw.fn7_only0 hf) (by simp_all))⟩)
  · have c : r.Cell 0xF1#8 := .of_nibbles hs hl hr ho
    refine .minor fun hf => .rsv (.optIf fun hk => ?_)
    split
    · exact ⟨rfl, congrArg some (c.only1.eq_of (beq_iff_eq.mp ‹_›).symm (by simp_all [Raw.zero1, form1]))⟩
    · exact ⟨rfl, congrArg some (c.only1.eq_of (by simp_all [form1]) (by simp_all [Raw.zero1, form1]))⟩
  · have c : r.Cell 0xF2#8 := .of_nibbles hs hl hr ho
    refine .minor fun hf => .rsv (.optIf fun hk => ?_)
    split
    · exact ⟨rfl, congrArg some (c.only1.eq_of (beq_iff_eq.mp ‹_›).symm (by simp_all [Raw.zero1, form1]))⟩
    · exact ⟨rfl, congrArg some (c.only1.eq_of (by simp_all [form1]) (by simp_all [Raw.zero1, form1]))⟩
  · have c : r.Cell 0xF3#8 := .of_nibbles hs hl hr ho
    exact .minor fun hf => .rsv (.optIf fun hk =>
      ⟨rfl, congrArg some (c.only1.eq_of (beq_iff_eq.mp hf).symm ⟨(beq_iff_eq.mp hk).symm, rfl⟩)⟩)
  · have c : r.Cell 0xF4#8 := .of_nibbles hs hl hr ho
    refine .ite (fun h => .minor fun hf => .rsv (.optIf fun hz => (c.one h).bare hf hz))
      fun h => .minor fun hf => .rsv (.optIf fun hk => ?_)
    split
    · exact ⟨rfl, congrArg some ((c.three ‹_›).eq_of (Raw.fn7_only0 hf) (by simp_all))⟩
    · exact ⟨rfl, congrArg some ((c.not13 h ‹_›).eq_of (Raw.fn7_only0 hf) (by simp_all))⟩
  · have c : r.Cell 0xF5#8 := .of_nibbles hs hl hr ho
    exact .minor fun hf => .rsv (.bind fun d hd => .bind fun a ha => .bind fun b hb => .optIf fun hk =>
      ⟨by simp_all [Instr.wf], congrArg some (c.only2.eq_of (Raw.fn7_only0 hf) (by simp_all))⟩)
  · have c : r.Cell 0xF6#8 := .of_nibbles hs hl hr ho
    exact .minor fun hf => .rsv (.bind fun d hd => .bind fun a ha => .bind fun b hb => .optIf fun hk =>
      ⟨by simp_all [Instr.wf], congrArg some (c.only2.eq_of (Raw.fn7_only0 hf) (by simp_all))⟩)
  · have c : r.Cell 0xF7#8 := .of_nibbles hs hl hr ho
    exact .minor fun hf => .rsv (.bind fun d hd => .bind fun a ha => .bind fun b hb => .bind fun k hk => .optIf fun hk =>
      ⟨by simp_all [Instr.wf], congrArg some (c.only2.eq_of (Raw.fn7_only0 hf) (by simp_all))⟩)
  · have c : r.Cell 0xF8#8 := .of_nibbles hs hl hr ho
    exact .minor fun hf => .rsv (.bind fun d hd => .bind fun a ha => .bind fun b hb => .bind fun k hk => .optIf fun hk =>
      ⟨by simp_all [Instr.wf], congrArg some (c.only2.eq_of (Raw.fn7_only0 hf) (by simp_all))⟩)
  · exact .error _

end Sys2Proof
end

section
/-! Proofs/RowsFloat: rows 4 to 7 of the opcode map, cell by cell (02_encoding R51 to R53). -/

namespace Sys2Proof

variable {r : Raw}

theorem decRow4_exact (hs : r.Shaped) (hl : lenAllowed r.op r.len = true) (hr : r.op.extractLsb' 4 4 = 0x4#4) :
    r.Exact (decRow4 r) := by
  unfold decRow4
  split <;> rename_i ho
  · have c : r.Cell 0x40#8 := .of_nibbles hs hl hr ho
    exact .minor fun hf => .rsv (.ite (fun h => .shape (c.three h).encL2L_eq (Raw.fn7_fmod hf))
      fun h => .shape (c.not3 h).encL2_eq (Raw.fn7_fmod hf))
  · have c : r.Cell 0x41#8 := .of_nibbles hs hl hr ho
    exact .minor fun hf => .rsv (.ite (fun h => .shape (c.three h).encL2L_eq (Raw.fn7_fmod hf))
      fun h => .shape (c.not3 h).encL2_eq (Raw.fn7_fmod hf))
  · have c : r.Cell 0x42#8 := .of_nibbles hs hl hr ho
    exact .minor fun hf => .rsv (.ite (fun h => .shape (c.three h).encL2L_eq (Raw.fn7_fmod hf))
      fun h => .shape (c.not3 h).encL2_eq (Raw.fn7_fmod hf))
  · have c : r.Cell 0x43#8 := .of_nibbles hs hl hr ho
    exact .minor fun hf => .rsv (.ite (fun h => .shape (c.three h).encL3L_eq (Raw.fn7_fmod hf))
      fun h => .shape (c.not3 h).encL3_eq (Raw.fn7_fmod hf))
  · have c : r.Cell 0x44#8 := .of_nibbles hs hl hr ho
    exact .minor fun hf => .rsv (.shape c.only2.encL2_eq (Raw.fn7_aneg hf))
  · have c : r.Cell 0x45#8 := .of_nibbles hs hl hr ho
    exact .minor fun hf => .rsv (.shape c.only2.encL2_eq (Raw.fn7_aneg hf))
  · have c : r.Cell 0x46#8 := .of_nibbles hs hl hr ho
    refine .minor fun hf => .fieldOf fun f hff => .minor fun hh => ?_
    exact .rsv (.shape c.only2.encL1_eq (Raw.fn7_fclass hf hff) (hw := fun _ => hh))
  · have c : r.Cell 0x47#8 := .of_nibbles hs hl hr ho
    exact .minor fun hf => .rsv (.shape c.only2.encL1_eq (Raw.fn7_fmod hf))
  · have c : r.Cell 0x48#8 := .of_nibbles hs hl hr ho
    exact .minor fun hf => .rsv (.shape c.only2.encL1_eq (Raw.fn7_aneg hf))
  · have c : r.Cell 0x49#8 := .of_nibbles hs hl hr ho
    exact .minor fun hf => .rsv (.shape c.only2.encL1_eq (Raw.fn7_fmod hf))
  · have c : r.Cell 0x4A#8 := .of_nibbles hs hl hr ho
    exact .minor fun hf => .rsv (.shape c.only2.encL1_eq (Raw.fn7_aneg hf))
  · have c : r.Cell 0x4B#8 := .of_nibbles hs hl hr ho
    exact .minor fun hf => .rsv (.shape c.only2.encL1_eq (Raw.fn7_aneg hf))
  · have c : r.Cell 0x4C#8 := .of_nibbles hs hl hr ho
    exact .minor fun hf => .rsv (.shape c.only2.encL1_eq (Raw.fn7_aneg hf))
  · have c : r.Cell 0x4D#8 := .of_nibbles hs hl hr ho
    exact .minor fun hf => .rsv (.shape c.only2.encL1_eq (Raw.fn7_aneg hf))
  · exact .error _

theorem decRow5_exact (hs : r.Shaped) (hl : lenAllowed r.op r.len = true) (hr : r.op.extractLsb' 4 4 = 0x5#4) :
    r.Exact (decRow5 r) := by
  unfold decRow5
  split <;> rename_i ho
  · have c : r.Cell 0x50#8 := .of_nibbles hs hl hr ho
    exact .minor fun hf => .rsv (.ite (fun h => .shape (c.three h).encL2L_eq (Raw.fn7_pkmod hf))
      fun h => .shape (c.not3 h).encL2_eq (Raw.fn7_pkmod hf))
  · have c : r.Cell 0x51#8 := .of_nibbles hs hl hr ho
    exact .minor fun hf => .rsv (.ite (fun h => .shape (c.three h).encL2L_eq (Raw.fn7_pkmod hf))
      fun h => .shape (c.not3 h).encL2_eq (Raw.fn7_pkmod hf))
  · have c : r.Cell 0x52#8 := .of_nibbles hs hl hr ho
    exact .minor fun hf => .rsv (.ite (fun h => .shape (c.three h).encL3L_eq (Raw.fn7_pkmod hf))
      fun h => .shape (c.not3 h).encL3_eq (Raw.fn7_pkmod hf))
  · have c : r.Cell 0x53#8 := .of_nibbles hs hl hr ho
    exact .minor fun hf => .rsv (.shape c.only2.encL2_eq (Raw.fn7_pkmin hf))
  · have c : r.Cell 0x54#8 := .of_nibbles hs hl hr ho
    exact .minor fun hf => .rsv (.shape c.only2.encL2_eq (Raw.fn7_pkmin hf))
  · exact .error _

theorem decCvt_exact (c : r.Cell 0x60#8) : r.Exact (decCvt r) := by
  refine .minor fun hf => .rsv (.bind fun s hs => .bind fun d hd => .bind fun a ha => .optIf fun hk => ?_)
  rw [hs, hd] at hf
  have hw : cvtWf ⟨rmOf (r.fn7.extractLsb' 0 2), r.f 2, r.f 3, r.f 4, r.f 5⟩ d s r.d a = true := by
    simp_all [cvtWf]
  refine ⟨hw, congrArg some ?_⟩
  rw [Raw.c_cvt hs hd, Raw.putA_of_srcA ha rfl]
  exact c.only2.eq_of (Raw.fn7_cvt (by simp_all)) (by simp_all)

theorem decCvt8_exact (c : r.Cell 0x62#8) : r.Exact (decCvt8 r) := by
  refine .minor fun hf => .rsv (.bind fun a ha => .ite (fun h0 => .optIf fun hk => ?_)
    fun h0 => .bind fun b hb => .optIf fun hk => ?_)
  · obtain ⟨hk, hd⟩ := Bool.and_eq_true_iff.mp hk
    have hz : r.c.extractLsb' 3 5 = 0#5 := by simp_all
    refine ⟨hd, congrArg some ?_⟩
    unfold encCvt8
    dsimp only
    rw [setWidth_of_high_zero hz, Raw.putA_of_srcA ha rfl]
    exact c.only2.eq_of (Raw.fn7_cvt8_from hf h0) (by simp_all)
  · have hz : r.c.extractLsb' 3 5 = 0#5 := by simp_all
    refine ⟨rfl, congrArg some ?_⟩
    unfold encCvt8
    dsimp only
    rw [setWidth_of_high_zero hz, Raw.putA_of_srcA ha rfl, Raw.putB_of_srcB hb rfl]
    exact c.only2.eq_of (Raw.fn7_cvt8_to hf h0) (by simp_all)

theorem decCvtx_exact (c : r.Cell 0x63#8) : r.Exact (decCvtx r) := by
  refine .minor fun hf => ?_
  obtain ⟨hf, hn⟩ := Bool.and_eq_true_iff.mp hf
  have h7 := Raw.fn7_cvtx hf
  split
  case h_4 => exact .notNative _
  all_goals
    rename_i hk
    rw [hk] at h7
    exact .rsv (.shape c.only2.encL1_eq h7 (hw := fun _ => by simp_all [Instr.wf]))

theorem unpack_wf {b : Bool} {c : Byte} (h : (!(b && c.getLsbD 1)) = true) : (!b || decide ((c.setWidth 2).toNat < 2)) = true := by
  have hc : ∀ c : Byte, c.getLsbD 1 = false → (c.setWidth 2).toNat < 2 := by decide
  cases b <;> simp_all

theorem decRow6_exact (hs : r.Shaped) (hl : lenAllowed r.op r.len = true) (hr : r.op.extractLsb' 4 4 = 0x6#4) :
    r.Exact (decRow6 r) := by
  unfold decRow6
  split <;> rename_i ho
  · have c : r.Cell 0x60#8 := .of_nibbles hs hl hr ho
    exact decCvt_exact c
  · have c : r.Cell 0x61#8 := .of_nibbles hs hl hr ho
    exact .minor fun hf => .rsv (.shape c.only2.encL2_eq (Raw.fn7_cvts hf))
  · have c : r.Cell 0x62#8 := .of_nibbles hs hl hr ho
    exact decCvt8_exact c
  · have c : r.Cell 0x63#8 := .of_nibbles hs hl hr ho
    exact decCvtx_exact c
  · have c : r.Cell 0x64#8 := .of_nibbles hs hl hr ho
    refine .minor fun hf => .rsv (.bind fun k hk => .optIf fun ho => ⟨rfl, congrArg some ?_⟩)
    obtain ⟨ho, hz⟩ := Bool.and_eq_true_iff.mp ho
    rw [setWidth_of_high_zero (beq_iff_eq.mp hz)]
    exact c.only2.eq_of (Raw.fn7_cvtmx hf) (by simp_all)
  · have c : r.Cell 0x65#8 := .of_nibbles hs hl hr ho
    split <;> rename_i hf
    · exact .rsv (.shape c.only2.encL2_eq hf.symm)
    · exact .rsv (.shape c.only2.encL2_eq hf.symm)
    · exact .rsv (.shape c.only2.encL2_eq hf.symm)
    · exact .error _
  · have c : r.Cell 0x66#8 := .of_nibbles hs hl hr ho
    refine .minor fun hf => .rsv (.bind fun a ha => .optIf fun hk => ?_)
    obtain ⟨hk, hn⟩ := Bool.and_eq_true_iff.mp hk
    obtain ⟨hk, hz⟩ := Bool.and_eq_true_iff.mp hk
    refine ⟨unpack_wf hn, congrArg some ?_⟩
    rw [setWidth_of_high_zero (beq_iff_eq.mp hz), Raw.putA_of_srcA ha rfl]
    exact c.only2.eq_of (Raw.fn7_only3 hf) (by simp_all)
  · exact .error _

theorem decVote_exact (c : r.Cell 0x72#8) : r.Exact (decVote r) := by
  refine .minor fun hf => .rsv (.bind fun a ha => ?_)
  obtain ⟨hf, h2⟩ := Bool.and_eq_true_iff.mp hf
  obtain ⟨hf, h3⟩ := Bool.and_eq_true_iff.mp hf
  have h7 := Raw.fn7_vote hf h2
  dsimp only
  split <;> rename_i hq
  · refine .bind fun x hx => .optIf fun hk => ?_
    obtain ⟨d, hd, rfl⟩ := Option.map_eq_some_iff.mp hx
    exact ⟨rfl, congrArg some (c.only2.eq_of (by simp_all) (by simp_all))⟩
  · refine .bind fun x hx => .optIf fun hk => ?_
    obtain ⟨d, hd, rfl⟩ := Option.map_eq_some_iff.mp hx
    exact ⟨rfl, congrArg some (c.only2.eq_of (by simp_all) (by simp_all))⟩
  · rename_i h0
    have hq : r.fn7.extractLsb' 0 2 = 2#2 := by
      revert hq h0 h3
      generalize r.fn7.extractLsb' 0 2 = k
      revert k
      decide
    refine .ite (fun h2 => .bind fun x hx => .optIf fun hk => ?_) fun h2 => .optIf fun hk => ?_
    · obtain ⟨d, hd, rfl⟩ := Option.map_eq_some_iff.mp hx
      exact ⟨rfl, congrArg some (c.only2.eq_of (by simp_all) (by simp_all))⟩
    · exact ⟨rfl, congrArg some (c.only2.eq_of (by simp_all) (by simp_all))⟩

theorem decRow7_exact (hs : r.Shaped) (hl : lenAllowed r.op r.len = true) (hr : r.op.extractLsb' 4 4 = 0x7#4) :
    r.Exact (decRow7 r) := by
  unfold decRow7
  split <;> rename_i ho
  · have c : r.Cell 0x70#8 := .of_nibbles hs hl hr ho
    refine .fieldOf fun seg hseg => .rsv (.bind fun pc hpc => .ite (fun h6 => .bind fun b hb => .optIf fun hk => ?_)
      fun h6 => .bind fun b hb => .optIf fun hk => ?_)
    · obtain ⟨hz, rfl⟩ := optIf_eq_some.mp hb
      obtain ⟨hz, hbu⟩ := Bool.and_eq_true_iff.mp hz
      refine ⟨rfl, congrArg some ?_⟩
      dsimp only
      rw [setWidth_of_high_zero (beq_iff_eq.mp hz), Raw.putOptC_of_optC hpc rfl, Raw.isSome_of_optC hpc]
      exact c.only2.eq_of (Raw.fn7_lget_imm hseg h6) (by simp_all)
    · obtain ⟨y, hy, rfl⟩ := Option.map_eq_some_iff.mp hb
      refine ⟨rfl, congrArg some ?_⟩
      dsimp only
      rw [Raw.putB_of_srcB hy rfl, Raw.putOptC_of_optC hpc rfl, Raw.isSome_of_optC hpc]
      exact c.only2.eq_of (Raw.fn7_lget_src hseg h6) (by simp_all)
  · have c : r.Cell 0x71#8 := .of_nibbles hs hl hr ho
    refine .minor fun hf => .rsv (.bind fun pc hpc => .bind fun b hb => .optIf fun hk => ⟨rfl, congrArg some ?_⟩)
    rw [Raw.putB_of_srcB hb rfl, Raw.putOptC_of_optC hpc rfl, Raw.isSome_of_optC hpc]
    exact c.only2.eq_of (Raw.fn7_perm hf) (by simp_all)
  · have c : r.Cell 0x72#8 := .of_nibbles hs hl hr ho
    exact decVote_exact c
  · have c : r.Cell 0x73#8 := .of_nibbles hs hl hr ho
    refine .minor fun hf => .fieldOf fun op ho' => .minor fun hr => .rsv (.bind fun d hd => .bind fun a ha => .optIf fun hk => ?_)
    refine ⟨hr, congrArg some ?_⟩
    obtain ⟨hau, ha⟩ := Raw.putLSrc_of_lsrc (x := (form 2 0x73#8 r.guard (redBits op ||| f1 3 (r.f 3))).putD6 d) ha rfl rfl
    rw [ha]
    exact c.only2.eq_of (Raw.fn7_redux hf ho') (by simp_all)
  · have c : r.Cell 0x74#8 := .of_nibbles hs hl hr ho
    refine .minor fun hf => .rsv (.ite (fun h1 => .bind fun k hc => .optIf fun hk => ⟨rfl, congrArg some ?_⟩)
      fun h1 => .bind fun a ha => .optIf fun hk => ?_)
    · exact c.only2.eq_of (by rw [← Raw.fn7_only3 hf, h1]; rfl) (by simp_all [Raw.putLSrc])
    · refine ⟨by cases a <;> rfl, congrArg some ?_⟩
      obtain ⟨hau, ha⟩ := Raw.putLSrc_of_lsrc (x := (form 2 0x74#8 r.guard (f1 0 (r.f 0))).putD r.d) ha rfl rfl
      dsimp only
      rw [ha]
      exact c.only2.eq_of (by rw [← Raw.fn7_only3 hf, eq_false_of_ne_true h1]; exact BitVec.or_zero.symm) (by simp_all)
  · have c : r.Cell 0x75#8 := .of_nibbles hs hl hr ho
    refine .minor fun hf => .rsv (.bind fun pc hpc => .optIf fun hk => ?_)
    obtain ⟨hk, hw⟩ := Bool.and_eq_true_iff.mp hk
    refine ⟨hw, congrArg some ?_⟩
    rw [Raw.putOptC_of_optC hpc rfl, Raw.isSome_of_optC hpc]
    exact c.only2.eq_of (Raw.fn7_perm hf) (by simp_all)
  · have c : r.Cell 0x76#8 := .of_nibbles hs hl hr ho
    exact .minor fun hf => .rsv (.bind fun k hk => .optIf fun hk =>
      ⟨rfl, congrArg some (c.only2.eq_of (Raw.fn7_only0 hf) (by simp_all))⟩)
  · exact .error _

end Sys2Proof
end

section
/-! Proofs/RowsMemory: rows A and B of the opcode map, cell by cell (02_encoding R51 to R53). -/

namespace Sys2Proof

variable {r x : Raw} {op : Byte}

/-- A load or store in either length, of the encoder's words. -/
theorem Raw.ReadsAs.ldst {flags : Bool} {short : Addr → Instr} {long : AddrL → Instr} (c : r.Cell op)
    (h1 : ops1.contains op = false)
    (hs : ∀ ad, ad.wf = true → memWf r.mem r.d = true → (flags = true ∨ r.noFlags = true) → (short ad).wf = true ∧
      enc (short ad) = some ((((form 2 op r.guard (memBits r.mem)).putD r.d).putAddr ad).putSF r.flags))
    (hl : ∀ ad, ad.wf = true → memWf r.mem r.d = true → (flags = true ∨ r.noFlags = true) → (long ad).wf = true ∧
      enc (long ad) = some ((((form 3 op r.guard (memBits r.mem)).putD r.d).putAddrL ad).putSF r.flags)) :
    r.ReadsAs (r.ldst flags short long) := by
  refine .ite (fun hk => ?_) fun _ => .nothing
  obtain ⟨hm, hf⟩ := Bool.and_eq_true_iff.mp hk
  refine .ite (fun h3 => .map fun ad had => ?_) fun h3 => .map fun ad had => ?_
  · obtain ⟨hw, hai, h31, hc, hp⟩ := Raw.putAddrL_of_addrL (x := (form 3 op r.guard (memBits r.mem)).putD r.d) had rfl rfl
    obtain ⟨hi, he⟩ := hl ad hw hm (Bool.or_eq_true_iff.mp hf)
    refine ⟨hi, he.trans (congrArg some ?_)⟩
    rw [hp]
    exact (c.three h3).eq_of Raw.fn7_mem (by simp_all [Raw.flags])
  · obtain ⟨hw, hai, h31, hp⟩ := Raw.putAddr_of_addr (x := (form 2 op r.guard (memBits r.mem)).putD r.d) had rfl rfl
    obtain ⟨hi, he⟩ := hs ad hw hm (Bool.or_eq_true_iff.mp hf)
    refine ⟨hi, he.trans (congrArg some ?_)⟩
    rw [hp]
    exact (c.not3 h3 h1).eq_of Raw.fn7_mem (by simp_all [Raw.flags])

/-- A short load or another access of the 64-bit form alone. -/
theorem Raw.Two.access (t : r.Two op) {ad : Addr} (had : r.addr = some ad) :
    ad.wf = true ∧ (((form 2 op r.guard (memBits r.mem)).putD r.d).putAddr ad).putSF r.flags = r := by
  obtain ⟨hw, hai, h31, hp⟩ := Raw.putAddr_of_addr (x := (form 2 op r.guard (memBits r.mem)).putD r.d) had rfl rfl
  refine ⟨hw, ?_⟩
  rw [hp]
  exact t.eq_of Raw.fn7_mem (by simp_all [Raw.flags])

/-- Without a flag, the flags' writer writes nothing. -/
theorem Raw.putSF_of_noFlags (h : r.noFlags = true) (hx : x.sfa = false ∧ x.sfb = false) : x.putSF r.flags = x := by
  obtain ⟨ha, hb⟩ := hx
  cases x
  simp_all [Raw.noFlags, Raw.flags]

@[simp] theorem Raw.putA_flags (a : Src) : (r.putA a).sfa = r.sfa ∧ (r.putA a).sfb = r.sfb := by cases a <;> exact ⟨rfl, rfl⟩
@[simp] theorem Raw.putB_flags (b : Src) : (r.putB b).sfa = r.sfa ∧ (r.putB b).sfb = r.sfb := by cases b <;> exact ⟨rfl, rfl⟩
theorem Raw.putAddr_flags (ad : Addr) : (r.putAddr ad).sfa = r.sfa ∧ (r.putAddr ad).sfb = r.sfb := by simp [Raw.putAddr]
theorem Raw.putAddrL_flags (ad : AddrL) : (r.putAddrL ad).sfa = r.sfa ∧ (r.putAddrL ad).sfb = r.sfb := by simp [Raw.putAddrL]

theorem decRowA_exact (hs : r.Shaped) (hl : lenAllowed r.op r.len = true) (hr : r.op.extractLsb' 4 4 = 0xA#4) :
    r.Exact (decRowA r) := by
  unfold decRowA
  split <;> rename_i ho
  · have c : r.Cell 0xA0#8 := .of_nibbles hs hl hr ho
    refine .minor fun hm => .rsv (.ldst c rfl (fun ad haw hw hf => ?_) fun ad haw hw hf => ?_)
    · refine ⟨by simp_all [Instr.wf, loadSize], congrArg some ?_⟩
      exact (Raw.putSF_of_noFlags (hf.resolve_left Bool.false_ne_true) (Raw.putAddr_flags ad)).symm
    · refine ⟨by simp_all [Instr.wf, loadSize], congrArg some ?_⟩
      exact (Raw.putSF_of_noFlags (hf.resolve_left Bool.false_ne_true) (Raw.putAddrL_flags ad)).symm
  · have c : r.Cell 0xA1#8 := .of_nibbles hs hl hr ho
    refine .minor fun hm => .rsv (.ldst c rfl (fun ad haw hw hf => ?_) fun ad haw hw hf => ?_)
    · exact ⟨by simp_all [Instr.wf, storeSize], rfl⟩
    · exact ⟨by simp_all [Instr.wf, storeSize], rfl⟩
  · have c : r.Cell 0xA2#8 := .of_nibbles hs hl hr ho
    refine .minor fun hm => .rsv (.bind fun ad had => .optIf fun hk => ?_)
    obtain ⟨haw, he⟩ := Raw.Two.access c.only2 had
    rw [Raw.putSF_of_noFlags (by simp_all) (Raw.putAddr_flags ad)] at he
    exact ⟨by simp_all [Instr.wf, memWf], congrArg some he⟩
  · have c : r.Cell 0xA3#8 := .of_nibbles hs hl hr ho
    refine .minor fun hm => .rsv (.bind fun ad had => .optIf fun hk => ?_)
    obtain ⟨haw, he⟩ := Raw.Two.access c.only2 had
    exact ⟨by simp_all [Instr.wf], congrArg some he⟩
  · have c : r.Cell 0xA4#8 := .of_nibbles hs hl hr ho
    refine .minor fun hm => .rsv (.bind fun ad had => .optIf fun hk => ?_)
    obtain ⟨haw, he⟩ := Raw.Two.access c.only2 had
    rw [Raw.putSF_of_noFlags (by simp_all) (Raw.putAddr_flags ad)] at he
    exact ⟨by simp_all [Instr.wf], congrArg some he⟩
  · have c : r.Cell 0xA5#8 := .of_nibbles hs hl hr ho
    refine .minor fun hf => .rsv (.bind fun sp hs => .bind fun ad had => .optIf fun hk => ?_)
    obtain ⟨hd, hw⟩ := Bool.and_eq_true_iff.mp hk
    obtain ⟨haw, hai, h31, hp⟩ := Raw.putAddr_of_addr (x := form 2 0xA5#8 r.guard (at7 3 (gspaceCode sp) ||| f1 5 (r.f 5))) had rfl rfl
    refine ⟨Bool.and_eq_true_iff.mpr ⟨hw, haw⟩, congrArg some ?_⟩
    rw [hp]
    exact c.only2.eq_of (Raw.fn7_pref hf hs) (by simp_all [Raw.flags])
  · have c : r.Cell 0xA6#8 := .of_nibbles hs hl hr ho
    exact .minor fun hf => .fieldOf fun k hk => .fieldOf fun sc hs => .rsv (.optIf fun hz =>
      ⟨rfl, congrArg some (c.only2.eq_of (Raw.fn7_fence hf hk hs) (by simp_all))⟩)
  · have c : r.Cell 0xA7#8 := .of_nibbles hs hl hr ho
    refine .minor fun hm => .rsv (.bind fun d hd => .bind fun a ha => .bind fun b hb => .ite (fun hk => ?_) fun _ => .nothing)
    refine .ite (fun h => .optIf fun hc => ?_) fun h => .just ?_ ?_
    · exact ⟨by simp_all [Instr.wf], congrArg some ((c.three h).eq_of Raw.fn7_mem (by simp_all))⟩
    · simp_all [Instr.wf]
    · exact congrArg some ((c.not3 h).eq_of Raw.fn7_mem (by simp_all))
  · exact .error _

theorem decRowB_exact (hs : r.Shaped) (hl : lenAllowed r.op r.len = true) (hr : r.op.extractLsb' 4 4 = 0xB#4) :
    r.Exact (decRowB r) := by
  unfold decRowB
  split <;> rename_i ho
  · have c : r.Cell 0xB0#8 := .of_nibbles hs hl hr ho
    refine .fieldOf fun op hop => .fieldOf fun sc hsc => .rsv (.bind fun m hm => .bind fun a ha => .bind fun b hb => .optIf fun hk => ?_)
    obtain ⟨hc, hsp⟩ := Raw.amod_eq_some hsc hm
    obtain ⟨ha, hp⟩ := Raw.base_eq_some.mp ha
    refine ⟨by simp_all [Instr.wf, atomWf], congrArg some ?_⟩
    rw [Raw.putA_of_srcA ha rfl, Raw.putB_of_srcB hb rfl, hc]
    exact c.only2.eq_of (Raw.fn7_atom hop hsp) (by simp_all)
  · have c : r.Cell 0xB1#8 := .of_nibbles hs hl hr ho
    refine .minor fun hf => .fieldOf fun sc hsc => .rsv (.bind fun m hm => .bind fun a ha => .bind fun b hb => .optIf fun hk => ?_)
    obtain ⟨hc, hsp⟩ := Raw.amod_eq_some hsc hm
    obtain ⟨ha, hp⟩ := Raw.base_eq_some.mp ha
    refine ⟨by simp_all [Instr.wf, atomWf], congrArg some ?_⟩
    rw [Raw.putA_of_srcA ha rfl, Raw.putB_of_srcB hb rfl, hc]
    exact c.only2.eq_of (Raw.fn7_atomcas hf hsp) (by simp_all)
  · have c : r.Cell 0xB2#8 := .of_nibbles hs hl hr ho
    refine .fieldOf fun op hop => .minor fun hx => .fieldOf fun sc hsc => .rsv (.bind fun m hm => .bind fun a ha => ?_)
    obtain ⟨hc, hsp⟩ := Raw.amod_eq_some hsc hm
    obtain ⟨ha, hp⟩ := Raw.base_eq_some.mp ha
    refine .ite (fun hk => .ite (fun h => .optIf fun hb => ?_) fun h => .bind fun b hb => .optIf fun hw => ?_) fun _ => .nothing
    · refine ⟨by simp_all [Instr.wf], congrArg some ?_⟩
      rw [Raw.putA_of_srcA ha rfl, hc]
      exact (c.three h).eq_of (Raw.fn7_atom hop hsp) (by simp_all [Raw.flags])
    · refine ⟨by simp_all [Instr.wf, atomWf], congrArg some ?_⟩
      rw [Raw.putA_of_srcA ha rfl, Raw.putB_of_srcB hb rfl, hc]
      exact (c.not3 h).eq_of (Raw.fn7_atom hop hsp) (by simp_all [Raw.flags])
  · have c : r.Cell 0xB3#8 := .of_nibbles hs hl hr ho
    exact .minor fun hf => .fieldOf fun sc hsc => .rsv (.bind fun sp hsp => .bind fun a ha => .bind fun k hc => .optIf fun hk =>
      ⟨rfl, congrArg some (c.only2.eq_of (Raw.fn7_queue hf hsc hsp) (by simp_all))⟩)
  · have c : r.Cell 0xB4#8 := .of_nibbles hs hl hr ho
    exact .minor fun hf => .fieldOf fun sc hsc => .rsv (.bind fun sp hsp => .bind fun a ha => .bind fun k hc => .optIf fun hk =>
      ⟨rfl, congrArg some (c.only2.eq_of (Raw.fn7_queue hf hsc hsp) (by simp_all))⟩)
  · exact .error _

end Sys2Proof
end

section
/-! Proofs/RowsEngines: rows C to E of the opcode map, cell by cell (02_encoding R51 to R53). -/

namespace Sys2Proof

variable {r : Raw} {op : Byte}

/-- A matrix product's cell, of the encoder's words. -/
theorem decMma_exact {mk : Guard → TileReg → VReg → VReg → Slot → Slot → Instr} {fn7 : BitVec 7} (t : r.Two op) (h7 : fn7 = r.fn7)
    (hw : ∀ g d a b fa fb, (mk g d a b fa fb).wf = tileWf d := by intros; rfl)
    (he : ∀ g d a b fa fb, enc (mk g d a b fa fb) = some { (form 2 op g fn7).putD6 d with
      a := a, b := b, c := (fb.setWidth 8 <<< 3) ||| fa.setWidth 8 } := by intros; rfl) :
    r.Exact (decMma r mk) := by
  refine .rsv (.bind fun d hd => .optIf fun hk => ?_)
  obtain ⟨hd, ht⟩ := tileF_eq_some.mp hd
  obtain ⟨hk, hz⟩ := Bool.and_eq_true_iff.mp hk
  refine ⟨(hw ..).trans ht, (he ..).trans (congrArg some ?_)⟩
  rw [c_formats (beq_iff_eq.mp hz)]
  exact t.eq_of h7 (by simp_all)

theorem decAccmov_exact (c : r.Cell 0xC6#8) : r.Exact (decAccmov r) := by
  refine .minor fun hf => ?_
  have h7 := Raw.fn7_accmov hf
  split
  · rename_i hm
    rw [hm] at h7
    refine .minor fun hq => .rsv (.bind fun d hd => .bind fun a ha => .optIf fun hk => ?_)
    obtain ⟨hd, htd⟩ := tileF_eq_some.mp hd
    obtain ⟨ha, hta⟩ := tileF_eq_some.mp ha
    rw [beq_iff_eq.mp hq] at h7
    exact ⟨Bool.and_eq_true_iff.mpr ⟨htd, hta⟩, congrArg some (c.only2.eq_of h7 (by simp_all))⟩
  · rename_i hm
    rw [hm] at h7
    refine .rsv (.bind fun a ha => .optIf fun hk => ?_)
    obtain ⟨ha, hta⟩ := tileF_eq_some.mp ha
    exact ⟨hta, congrArg some (c.only2.eq_of h7 (by simp_all))⟩
  · rename_i hm
    rw [hm] at h7
    refine .rsv (.bind fun d hd => .optIf fun hk => ?_)
    obtain ⟨hd, htd⟩ := tileF_eq_some.mp hd
    exact ⟨htd, congrArg some (c.only2.eq_of h7 (by simp_all))⟩
  · exact .error _

theorem decRowC_exact (hs : r.Shaped) (hl : lenAllowed r.op r.len = true) (hr : r.op.extractLsb' 4 4 = 0xC#4) :
    r.Exact (decRowC r) := by
  unfold decRowC
  split <;> rename_i ho
  · have c : r.Cell 0xC0#8 := .of_nibbles hs hl hr ho
    refine .minor fun hf => ?_
    obtain ⟨hf, hq⟩ := Bool.and_eq_true_iff.mp hf
    by_cases h0 : r.f 0 = true
    · simp only [if_pos h0]
      exact decMma_exact c.only2 (Raw.fn7_mma_small hf h0)
    · simp only [if_neg h0]
      exact decMma_exact c.only2 (Raw.fn7_mma_whole hf h0 (by simp_all))
  · have c : r.Cell 0xC1#8 := .of_nibbles hs hl hr ho
    exact .minor fun hf => decMma_exact c.only2 (Raw.fn7_only2 hf)
  · have c : r.Cell 0xC2#8 := .of_nibbles hs hl hr ho
    exact .minor fun hf => decMma_exact c.only2 (Raw.fn7_only2 hf)
  · have c : r.Cell 0xC3#8 := .of_nibbles hs hl hr ho
    refine .minor fun hf => .rsv (.bind fun d hd => .optIf fun hk => ?_)
    obtain ⟨hd, ht⟩ := tileF_eq_some.mp hd
    obtain ⟨hk, hz⟩ := Bool.and_eq_true_iff.mp hk
    refine ⟨ht, congrArg some ?_⟩
    rw [setWidth_of_high_zero (beq_iff_eq.mp hz)]
    exact c.only2.eq_of (Raw.fn7_only0 hf) (by simp_all)
  · have c : r.Cell 0xC4#8 := .of_nibbles hs hl hr ho
    refine .minor fun hf => .rsv (.bind fun sp hs => .bind fun d hd => .bind fun a ha => .bind fun b hb => .optIf fun hk => ?_)
    obtain ⟨hd, ht⟩ := tileF_eq_some.mp hd
    obtain ⟨hk, hz⟩ := Bool.and_eq_true_iff.mp hk
    refine ⟨ht, congrArg some ?_⟩
    rw [setWidth_of_high_zero (beq_iff_eq.mp hz)]
    exact c.only2.eq_of (Raw.fn7_accld hf hs) (by simp_all)
  · have c : r.Cell 0xC5#8 := .of_nibbles hs hl hr ho
    refine .minor fun hf => .rsv (.bind fun sp hs => .bind fun d hd => .bind fun a ha => .bind fun b hb => .optIf fun hk => ?_)
    obtain ⟨hd, ht⟩ := tileF_eq_some.mp hd
    obtain ⟨hk, hz⟩ := Bool.and_eq_true_iff.mp hk
    refine ⟨ht, congrArg some ?_⟩
    rw [setWidth_of_high_zero (beq_iff_eq.mp hz)]
    exact c.only2.eq_of (Raw.fn7_accst hf hs) (by simp_all [Raw.flags])
  · have c : r.Cell 0xC6#8 := .of_nibbles hs hl hr ho
    exact decAccmov_exact c
  · have c : r.Cell 0xC7#8 := .of_nibbles hs hl hr ho
    exact .minor fun hf => .rsv (.bind fun d hd => .optIf fun hk =>
      ⟨rfl, congrArg some (c.only2.eq_of (Raw.fn7_only0 hf) (by simp_all))⟩)
  · have c : r.Cell 0xC8#8 := .of_nibbles hs hl hr ho
    exact .minor fun hf => .rsv (.ite
      (fun h0 => .optIf fun hk => ⟨rfl, congrArg some (c.only2.eq_of (Raw.fn7_is1 hf h0) (by simp_all))⟩)
      fun h0 => .bind fun a ha => .optIf fun hk => ⟨rfl, congrArg some (c.only2.eq_of (Raw.fn7_is0 hf h0) (by simp_all))⟩)
  · exact .error _

theorem decRowD_exact (hs : r.Shaped) (hl : lenAllowed r.op r.len = true) (hr : r.op.extractLsb' 4 4 = 0xD#4) :
    r.Exact (decRowD r) := by
  unfold decRowD
  split <;> rename_i ho
  · have c : r.Cell 0xD0#8 := .of_nibbles hs hl hr ho
    refine .fieldOf fun sc hs => .rsv (.bind fun m hm => .ite (fun hb => ?_) fun _ => .nothing)
    obtain ⟨h31, hu, hd, -, he⟩ := Raw.encCpy_of_cpy (op := 0xD0#8) hs hm
    refine .ite (fun h => .optIf fun hw => ⟨hw, congrArg some ?_⟩) fun h => .optIf fun hw => ⟨hw, congrArg some ?_⟩
    · rw [he 3]
      exact (c.three h).eq_of rfl (by simp_all)
    · rw [he 2]
      exact (c.not3 h).eq_of rfl (by simp_all)
  · have c : r.Cell 0xD1#8 := .of_nibbles hs hl hr ho
    refine .fieldOf fun sc hs => .rsv (.bind fun m hm => .bind fun k hb => .optIf fun hw => ?_)
    obtain ⟨h31, hu, hd, rfl, he⟩ := Raw.encCpy_of_cpy (op := 0xD1#8) hs hm
    refine ⟨hw, congrArg some ?_⟩
    rw [he 2]
    exact c.only2.eq_of rfl (by simp_all)
  · have c : r.Cell 0xD2#8 := .of_nibbles hs hl hr ho
    refine .fieldOf fun sc hs => .rsv (.bind fun m hm => .bind fun k hb => .optIf fun hw => ?_)
    obtain ⟨h31, hu, hd, rfl, he⟩ := Raw.encCpy_of_cpy (op := 0xD2#8) hs hm
    refine ⟨hw, congrArg some ?_⟩
    rw [he 2]
    exact c.only2.eq_of rfl (by simp_all)
  · have c : r.Cell 0xD3#8 := .of_nibbles hs hl hr ho
    exact .minor fun hf => .rsv (.bind fun a ha => .bind fun b hb => .optIf fun hk =>
      ⟨rfl, congrArg some (c.only2.eq_of (Raw.fn7_only0 hf) (by simp_all))⟩)
  · have c : r.Cell 0xD4#8 := .of_nibbles hs hl hr ho
    exact .minor fun hf => .rsv (.bind fun a ha => .optIf fun hk =>
      ⟨rfl, congrArg some (c.only2.eq_of (Raw.fn7_only0 hf) (by simp_all))⟩)
  · have c : r.Cell 0xD5#8 := .of_nibbles hs hl hr ho
    exact .minor fun hf => .rsv (.bind fun a ha => .optIf fun hk =>
      ⟨rfl, congrArg some (c.only2.eq_of (Raw.fn7_only0 hf) (by simp_all))⟩)
  · have c : r.Cell 0xD6#8 := .of_nibbles hs hl hr ho
    refine .minor fun hf => .rsv (.bind fun d hd => .bind fun a ha => .bind fun b hb => .bind fun k hc => ?_)
    have h7 := Raw.fn7_low2 hf
    dsimp only
    split
    case h_4 =>
      rw [last_of_two_bits (r.fn7.extractLsb' 0 2) ‹_› ‹_› ‹_›] at h7
      exact .optIf fun hk => ⟨by simp_all [Instr.wf], congrArg some (c.only2.eq_of h7 (by simp_all))⟩
    all_goals
      rename_i hm
      rw [hm] at h7
      exact .optIf fun hk => ⟨by simp_all [Instr.wf], congrArg some (c.only2.eq_of h7 (by simp_all))⟩
  · have c : r.Cell 0xD7#8 := .of_nibbles hs hl hr ho
    exact .minor fun hf => .rsv (.bind fun a ha => .optIf fun hk =>
      ⟨rfl, congrArg some (c.only2.eq_of (Raw.fn7_only0 hf) (by simp_all))⟩)
  · have c : r.Cell 0xD8#8 := .of_nibbles hs hl hr ho
    refine .minor fun hf => .rsv (.bind fun a ha => .bind fun b hb => .optIf fun hk => ⟨rfl, congrArg some ?_⟩)
    have h7 := Raw.fn7_surrender hf
    by_cases h0 : r.f 0 = true
    · simp only [if_pos h0] at h7 ⊢
      exact c.only2.eq_of h7 (by simp_all)
    · by_cases h1 : r.f 1 = true
      · simp only [if_neg h0, if_pos h1] at h7 ⊢
        exact c.only2.eq_of h7 (by simp_all [x6])
      · simp only [if_neg h0, if_neg h1] at h7 ⊢
        exact c.only2.eq_of h7 (by simp_all [x6])
  · exact .error _

theorem decRowE_exact (hs : r.Shaped) (hl : lenAllowed r.op r.len = true) (hr : r.op.extractLsb' 4 4 = 0xE#4) :
    r.Exact (decRowE r) := by
  unfold decRowE
  split <;> rename_i ho
  · have c : r.Cell 0xE0#8 := .of_nibbles hs hl hr ho
    refine .minor fun hf => .fieldOf fun b hb => .rsv (.bind fun d hd => .bind fun a ha => .bind fun n hn => .ite (fun hk => ?_)
      fun _ => .nothing)
    obtain ⟨hw, hc⟩ := countF_eq_some hn
    refine .ite (fun h => .optIf fun hz => ⟨hw, congrArg some ?_⟩) fun h => .just hw (congrArg some ?_)
    · exact (c.three h).eq_of (Raw.fn7_bind hf hb) (by simp_all [x6])
    · exact (c.not3 h).eq_of (Raw.fn7_bind hf hb) (by simp_all)
  · have c : r.Cell 0xE1#8 := .of_nibbles hs hl hr ho
    refine .minor fun hf => .rsv (.bind fun d hd => .bind fun a ha => .optIf fun hk => ?_)
    split <;> rename_i h0
    · exact ⟨rfl, congrArg some (c.only2.eq_of (Raw.fn7_is1 hf h0) (by simp_all))⟩
    · exact ⟨rfl, congrArg some (c.only2.eq_of (Raw.fn7_is0 hf h0) (by simp_all [x6]))⟩
  · have c : r.Cell 0xE2#8 := .of_nibbles hs hl hr ho
    exact .minor fun hf => .fieldOf fun sc hs => .minor fun hg => .rsv (.bind fun a ha => .optIf fun hk =>
      ⟨hg, congrArg some (c.only2.eq_of (Raw.fn7_evsig hf hs) (by simp_all))⟩)
  · have c : r.Cell 0xE3#8 := .of_nibbles hs hl hr ho
    refine .minor fun hf => .fieldOf fun b hb => .rsv (.bind fun a ha => .bind fun n hn => .optIf fun hk => ?_)
    obtain ⟨hw, hc⟩ := countF_eq_some hn
    exact ⟨hw, congrArg some (c.only2.eq_of (Raw.fn7_evwait hf hb) (by simp_all))⟩
  · have c : r.Cell 0xE4#8 := .of_nibbles hs hl hr ho
    refine .minor fun hf => .rsv (.bind fun sp hs => .bind fun d hd => .bind fun a ha => .optIf fun hk => ?_)
    obtain ⟨ha, hp⟩ := Raw.base_eq_some.mp ha
    refine ⟨hp, congrArg some ?_⟩
    rw [Raw.putA_of_srcA ha rfl]
    exact c.only2.eq_of (Raw.fn7_cntdec hf hs) (by simp_all)
  · have c : r.Cell 0xE5#8 := .of_nibbles hs hl hr ho
    exact .minor fun hf => .rsv (.optIf fun hz => c.only1.bare hf hz)
  · have c : r.Cell 0xE6#8 := .of_nibbles hs hl hr ho
    refine .minor fun hf => .rsv (.bind fun d hd => .optIf fun hk => ⟨rfl, congrArg some ?_⟩)
    obtain ⟨hk, hz⟩ := Bool.and_eq_true_iff.mp hk
    rw [setWidth_of_high_zero (beq_iff_eq.mp hz)]
    exact c.only2.eq_of (Raw.fn7_only0 hf) (by simp_all)
  · have c : r.Cell 0xE7#8 := .of_nibbles hs hl hr ho
    exact .minor fun hf => .rsv (.optIf fun hz => c.only1.bare hf hz)
  · have c : r.Cell 0xE8#8 := .of_nibbles hs hl hr ho
    exact .minor fun hf => .rsv (.bind fun d hd => .bind fun a ha => .bind fun b hb => .optIf fun hk =>
      ⟨rfl, congrArg some (c.only2.eq_of (Raw.fn7_only0 hf) (by simp_all))⟩)
  · have c : r.Cell 0xE9#8 := .of_nibbles hs hl hr ho
    exact .minor fun hf => .rsv (.optIf fun hz => c.only1.bare hf hz)
  · have c : r.Cell 0xEA#8 := .of_nibbles hs hl hr ho
    exact .minor fun hf => .rsv (.optIf fun hz => c.only1.bare hf hz)
  · have c : r.Cell 0xEB#8 := .of_nibbles hs hl hr ho
    exact .minor fun hf => .rsv (.bind fun a ha => .bind fun b hb => .bind fun k hk => .optIf fun hk =>
      ⟨rfl, congrArg some (c.only2.eq_of (Raw.fn7_only0 hf) (by simp_all [Raw.flags]))⟩)
  · have c : r.Cell 0xEC#8 := .of_nibbles hs hl hr ho
    exact .minor fun hf => .rsv (.bind fun d hd => .optIf fun hk =>
      ⟨rfl, congrArg some (c.only2.eq_of (Raw.fn7_slot hf) (by simp_all))⟩)
  · have c : r.Cell 0xED#8 := .of_nibbles hs hl hr ho
    exact .minor fun hf => .rsv (.bind fun d hd => .optIf fun hk =>
      ⟨rfl, congrArg some (c.only2.eq_of (Raw.fn7_cbpush hf) (by simp_all))⟩)
  · have c : r.Cell 0xEE#8 := .of_nibbles hs hl hr ho
    exact .minor fun hf => .rsv (.bind fun b hb => .bind fun k hk => .optIf fun hk =>
      ⟨rfl, congrArg some (c.only2.eq_of (Raw.fn7_slot hf) (by simp_all))⟩)
  · have c : r.Cell 0xEF#8 := .of_nibbles hs hl hr (by apply last_nibble <;> assumption)
    split <;> rename_i hm
    · exact .minor fun hf => .rsv (.bind fun d hd => .bind fun a ha => .optIf fun hk =>
        ⟨rfl, congrArg some (c.only2.eq_of (Raw.fn7_cbdone hf) (by simp_all))⟩)
    · exact .minor fun hf => .rsv (.bind fun d hd => .optIf fun hk =>
        ⟨rfl, congrArg some (c.only2.eq_of (Raw.fn7_cbflush hf hm) (by simp_all))⟩)
    · exact .error _

end Sys2Proof
end

section
/-! Proofs/EncodeDecode: what decodes has the words it was decoded from, and what the part without MMAS decodes
(00_scope R2; 02_encoding R55, R58). -/

namespace Sys2Proof

variable {r : Raw}

theorem decRow_exact (hs : r.Shaped) (hl : lenAllowed r.op r.len = true) : r.Exact (decRow r) := by
  unfold decRow
  split
  case h_16 =>
    exact decRowF_exact hs hl (by apply last_nibble <;> assumption)
  · exact decRow0_exact hs hl ‹_›
  · exact decRow1_exact hs hl ‹_›
  · exact decRow2_exact hs hl ‹_›
  · exact decRow3_exact hs hl ‹_›
  · exact decRow4_exact hs hl ‹_›
  · exact decRow5_exact hs hl ‹_›
  · exact decRow6_exact hs hl ‹_›
  · exact decRow7_exact hs hl ‹_›
  · exact decRow8_exact hs hl ‹_›
  · exact decRow9_exact hs hl ‹_›
  · exact decRowA_exact hs hl ‹_›
  · exact decRowB_exact hs hl ‹_›
  · exact decRowC_exact hs hl ‹_›
  · exact decRowD_exact hs hl ‹_›
  · exact decRowE_exact hs hl ‹_›

theorem decodeRaw_exact (mmas : Bool) (hs : r.Shaped) : r.Exact (decodeRaw mmas r) :=
  .ite (fun _ => .error _) fun _ => .ite (fun _ => .error _) fun hl => .ite (fun _ => .error _) fun _ =>
    decRow_exact hs (by simpa using hl)

/-- An instruction's fields are those of its parcels. -/
theorem encode_of_rawOf {p0 p1 p2 : Word} {mmas : Bool} {i : Instr} (hr : rawOf p0 p1 p2 = some r)
    (h : decodeRaw mmas r = .ok i) :
    i.wf = true ∧ encode i = [p0, p1, p2].take (encode i).length ∧ encode i ≠ [] := by
  obtain ⟨hs, -, hp, hn⟩ := rawOf_some hr
  obtain ⟨hw, he⟩ := decodeRaw_exact mmas hs i h
  have hi : encode i = r.parcels := by simp [encode, he]
  exact ⟨hw, by rw [hi]; exact hp, by rw [hi]; exact hn⟩

/-! The part without MMAS. -/

/-- A word of MMAS's opcode decodes to it, or has a wrong FN or a reserved field. -/
theorem decRow_mmas (h : r.op = 0xC1#8) :
    (∃ st g d a b fa fb, decRow r = .ok (.mmas st g d a b fa fb)) ∨ decRow r = .error 0x0002#16 ∨ decRow r = .error 0x0004#16 := by
  have hc : decRow r = minor (r.only 2#7) (decMma r (.mmas (r.f 1))) := by
    unfold decRow
    rw [h]
    show decRowC r = _
    unfold decRowC
    rw [h]
    rfl
  rw [hc]
  unfold minor
  split
  · unfold decMma
    cases hd : tileF r.d with
    | none => exact .inr (.inr rfl)
    | some d =>
      by_cases hk : (r.noSF && r.noU && r.c.extractLsb' 6 2 == 0#2) = true
      · exact .inl ⟨_, _, _, _, _, _, _, by simp [optIf, hk]; rfl⟩
      · exact .inr (.inr (by simp [optIf, hk]; rfl))
  · exact .inr (.inl rfl)

/-- Without MMAS, only the words of its opcode that have a form decode otherwise: to 0x0006. -/
theorem decodeRaw_false :
    decodeRaw false r = if r.op = 0xC1#8 ∧ lenAllowed r.op r.len = true then .error 0x0006#16 else decodeRaw true r := by
  unfold decodeRaw
  by_cases ho : r.op = 0xC1#8
  · have ha : opAssigned 0xC1#8 = true := by decide
    cases hl : lenAllowed r.op r.len <;> simp [ho, ha]
  · simp [ho]

theorem decodeRaw_true_mmas (ho : r.op = 0xC1#8) (hl : lenAllowed r.op r.len = true) : decodeRaw true r = decRow r := by
  have ha : opAssigned 0xC1#8 = true := by decide
  unfold decodeRaw
  simp [ho ▸ ha, hl]

/-- What decodes to MMAS has its opcode, in the 64-bit form. -/
theorem op_of_mmas {st : Bool} {g : Guard} {d : TileReg} {a b : VReg} {fa fb : Slot} (hs : r.Shaped)
    (h : decodeRaw true r = .ok (.mmas st g d a b fa fb)) : r.op = 0xC1#8 ∧ lenAllowed r.op r.len = true := by
  obtain ⟨-, he⟩ := decodeRaw_exact true hs _ h
  cases he
  exact ⟨rfl, (by decide : lenAllowed 0xC1#8 2 = true)⟩

/-- Parcels without the fields of a form are refused alike by every part; the others decode by their fields. -/
theorem decode_cases (p0 p1 p2 : Word) :
    (∃ e, ∀ m, decode m p0 p1 p2 = .error e) ∨ ∃ r, rawOf p0 p1 p2 = some r ∧ ∀ m, decode m p0 p1 p2 = decodeRaw m r := by
  unfold decode
  split
  · exact .inl ⟨_, fun _ => rfl⟩
  · split
    · exact .inl ⟨_, fun _ => rfl⟩
    · rename_i r hr
      exact .inr ⟨r, hr, fun _ => rfl⟩

/-- Settles O57: each cell of the opcode map reads the fields that the encoder writes; the parts with and without MMAS differ
on its opcode alone. -/
theorem encodeDecode : Obligations.EncodeDecode := by
  intro p0 p1 p2 i
  obtain ⟨e, he⟩ | ⟨r, hr, hd⟩ := decode_cases p0 p1 p2
  · simp [he]
  · obtain ⟨hs, hop, -, -⟩ := rawOf_some hr
    rw [hd true, hd false, decodeRaw_false, ← hop]
    refine ⟨encode_of_rawOf hr, ?_⟩
    by_cases hc : r.op = 0xC1#8 ∧ lenAllowed r.op r.len = true
    · rw [if_pos hc, decodeRaw_true_mmas hc.1 hc.2]
      refine ⟨(nomatch ·), fun hi hn => ?_, fun _ ho => absurd hc.1 ho, fun e _ he => .inr ⟨?_, rfl⟩,
        fun _ _ _ _ _ _ _ _ => rfl⟩
      all_goals obtain ⟨st, g, d, a, b, fa, fb, h⟩ | h | h := decRow_mmas hc.1
      · exact absurd (Except.ok.inj (hi.symm.trans h)) (hn st g d a b fa fb)
      · exact nomatch hi.symm.trans h
      · exact nomatch hi.symm.trans h
      · exact nomatch he.symm.trans h
      · exact .inl (Except.error.inj (he.symm.trans h))
      · exact .inr (Except.error.inj (he.symm.trans h))
    · rw [if_neg hc]
      refine ⟨id, fun h _ => h, fun _ _ => Iff.rfl, fun _ _ h => .inl h, fun st g d a b fa fb h => ?_⟩
      exact absurd (op_of_mmas hs h) hc

end Sys2Proof
end

section
/-! Proofs/Canonical: what keeps the storage canonical, step by step of a meaning: updates that leave it, bodies that wait,
results that retire (00_scope R4, R5; 06_memory_port R175). -/

namespace Sys2Proof.Machine

/-! The storage alone. -/

/-- The canonical form of memory, the polder and the cores' write-combining lines. -/
def wfStore (mem polder : Cells 8) (cores : Tbl Core) : Bool :=
  mem.wf && polder.wf && cores.all (fun c => c.2.wcb.all (fun w => Tbl.wf w.bytes))

@[simp] theorem State.storageWf_mk {part mem polder poison failed decoders tiles seals copies sweeps cores pcache homeDir filters pend
    ctxs grids teams groups growQ sent rxHeld rxSeq txSeq routes wire mgmt field dump heldDumps goneDbg hostBuf deviceNo ptrs quad
    cur inputs engine timers nextId fresh ticks} :
    (State.mk part mem polder poison failed decoders tiles seals copies sweeps cores pcache homeDir filters pend ctxs grids teams
      groups growQ sent rxHeld rxSeq txSeq routes wire mgmt field dump heldDumps goneDbg hostBuf deviceNo ptrs quad cur inputs
      engine timers nextId fresh ticks).storageWf = wfStore mem polder cores := rfl

/-- A state's own memory, polder and cores. -/
@[simp] theorem wfStore_state (s : State) : wfStore s.mem s.polder s.cores = s.storageWf := rfl

variable {s : State} {α β : Type}

@[simp] theorem State.storageWf_setGroup (i : Nat) (g : Group) : (s.setGroup i g).storageWf = s.storageWf := rfl
@[simp] theorem State.storageWf_updGroup (i : Nat) (f : Group → Group) : (s.updGroup i f).storageWf = s.storageWf := rfl
@[simp] theorem State.storageWf_updCtx (i : Nat) (f : Ctx → Ctx) : (s.updCtx i f).storageWf = s.storageWf := rfl
@[simp] theorem State.storageWf_updTeam (i : Nat) (f : Team → Team) : (s.updTeam i f).storageWf = s.storageWf := rfl
@[simp] theorem State.storageWf_updGrid (i : Nat) (f : Grid → Grid) : (s.updGrid i f).storageWf = s.storageWf := rfl
@[simp] theorem State.storageWf_newId : s.newId.2.storageWf = s.storageWf := rfl
@[simp] theorem State.storageWf_post (i : Instr) : (s.post i).storageWf = s.storageWf := rfl

/-! Bodies that stop. -/

/-- What waits in a state of its own waits in a canonical one. -/
def Stop.Canon : Stop → Prop
  | .wait s => s.storageWf = true
  | _ => True

/-- A body that ends in a result with a property, or stops; a state it waits in is canonical. -/
def Run.All (P : α → Prop) (x : Run α) : Prop :=
  match x with
  | .ok a => P a
  | .error e => e.Canon

/-- A body that never waits in a state of its own, but a canonical one. -/
abbrev Run.Quiet (x : Run α) : Prop := Run.All (fun _ => True) x

variable {P : α → Prop} {Q : β → Prop} {x : Run β} {f : β → Run α}

@[simp] theorem Run.all_ok {a : α} : Run.All P (.ok a) ↔ P a := .rfl
@[simp] theorem Run.all_pure {a : α} : Run.All P (pure a) ↔ P a := .rfl
@[simp] theorem Run.all_stall : Run.All P (.error .stall) := trivial
@[simp] theorem Run.all_emu {c : Cause} : Run.All P (.error (.emu c)) := trivial
@[simp] theorem Run.all_berm {c : Cause} {m : Option Mask} {a b : DWord} : Run.All P (.error (.berm c m a b)) := trivial
@[simp] theorem Run.all_handler {k : HandlerKind} {c : Cause} {w : DWord} : Run.All P (.error (.handler k c w)) := trivial
@[simp] theorem Run.all_wait : Run.All P (.error (.wait s)) ↔ s.storageWf = true := .rfl
@[simp] theorem Run.all_raise {c : Cause} : Run.All P (raise c) := trivial
@[simp] theorem Run.all_raiseA {c : Cause} {a : DWord} : Run.All P (raiseA c a) := trivial
@[simp] theorem Run.all_raiseL {c : Cause} {m : Mask} {a : DWord} : Run.All P (raiseL c m a) := trivial
@[simp] theorem Run.all_invalid : Run.All P (invalid : Run α) := trivial
@[simp] theorem Run.all_wrongReturn : Run.All P (wrongReturn : Run α) := trivial
@[simp] theorem Run.all_ite {p : Prop} [Decidable p] {y z : Run α} :
    Run.All P (if p then y else z) ↔ (p → Run.All P y) ∧ (¬ p → Run.All P z) := by split <;> simp [*]

theorem Run.all_bind (hx : Run.All Q x) (hf : ∀ b, Q b → Run.All P (f b)) : Run.All P (x >>= f) := by
  cases x with
  | ok b => exact hf b hx
  | error e => exact hx

/-- After a body that never waits, what follows is asked alone. -/
@[simp] theorem Run.all_bind_iff (hx : Run.Quiet x) : Run.All P (x >>= f) ↔ ∀ b, x = .ok b → Run.All P (f b) := by
  cases x with
  | ok b => exact ⟨fun h c hc => by cases hc; exact h, fun h => h b rfl⟩
  | error e => exact ⟨fun _ _ hc => (nomatch hc), fun _ => hx⟩

theorem Run.all_bind_quiet (hx : Run.Quiet x) (hf : ∀ b, Run.All P (f b)) : Run.All P (x >>= f) :=
  Run.all_bind hx fun b _ => hf b

@[simp] theorem Run.all_fmap {g : β → α} : Run.All P (g <$> x) ↔ Run.All (fun b => P (g b)) x := by cases x <;> rfl
@[simp] theorem Run.all_map {g : β → α} : Run.All P (x.map g) ↔ Run.All (fun b => P (g b)) x := by cases x <;> rfl

@[simp] theorem Stop.canon_stall : Stop.Canon .stall := trivial
@[simp] theorem Stop.canon_emu (c : Cause) : Stop.Canon (.emu c) := trivial
@[simp] theorem Stop.canon_berm (c : Cause) (m : Option Mask) (a b : DWord) : Stop.Canon (.berm c m a b) := trivial
@[simp] theorem Stop.canon_handler (k : HandlerKind) (c : Cause) (w : DWord) : Stop.Canon (.handler k c w) := trivial
@[simp] theorem Stop.canon_wait : Stop.Canon (.wait s) ↔ s.storageWf = true := .rfl

@[simp] theorem Run.quiet_need (b : Bool) (e : Stop) : Run.Quiet (need b e) ↔ (b = false → e.Canon) := by
  unfold need; cases b <;> simp [Run.All]

theorem Run.Quiet.all (hx : Run.Quiet x) (h : ∀ b, Q b) : Run.All Q x := by
  cases x with
  | ok b => exact h b
  | error e => exact hx

end Sys2Proof.Machine
end

section
/-! Proofs/Quiet: reading operands, addresses and records never waits in a state of its own. -/

namespace Sys2Proof.Machine

theorem Run.quiet_filterM {α : Type} {f : α → Run Bool} (hf : ∀ a, Run.Quiet (f a)) (l : List α) : Run.Quiet (l.filterM f) := by
  have aux : ∀ l acc, Run.Quiet (List.filterAuxM f l acc) := by
    intro l
    induction l with
    | nil => intro acc; simp [List.filterAuxM]
    | cons a l ih => intro acc; simp [List.filterAuxM, hf, ih]
  simp [List.filterM, aux]

@[simp] theorem Group.quiet_loc (g : Group) (n : Nat) : Run.Quiet (Group.loc g n) := by
  simp [Group.loc]

@[simp] theorem Group.quiet_locInd (g : Group) (k : KReg) (off : VReg) : Run.Quiet (Group.locInd g k off) := by
  simp [Group.locInd]

@[simp] theorem Group.quiet_locPair (g : Group) (n : Nat) : Run.Quiet (Group.locPair g n) := by
  simp [Group.locPair]

@[simp] theorem State.quiet_isHeader (s : State) (ctx : Nat) (a : CAddr) : Run.Quiet (State.isHeader s ctx a) := by
  unfold State.isHeader
  split
  · simp
  · split <;> simp

@[simp] theorem Group.quiet_src (g : Group) (x : Src) : Run.Quiet (Group.src g x) := by
  unfold Group.src
  split <;> simp

@[simp] theorem Group.quiet_asrc (g : Group) (x : ASrc) : Run.Quiet (Group.asrc g x) := by
  unfold Group.asrc
  split <;> simp

@[simp] theorem Group.quiet_lloc (g : Group) (x : LSrc) : Run.Quiet (Group.lloc g x) := by
  unfold Group.lloc
  split <;> simp

@[simp] theorem Group.quiet_src64 (g : Group) (x : Src) : Run.Quiet (Group.src64 g x) := by
  unfold Group.src64
  split <;> simp

@[simp] theorem Group.quiet_locIndPair (g : Group) (k : KReg) (off : VReg) : Run.Quiet (Group.locIndPair g k off) := by
  refine Run.all_bind (g.quiet_locInd k off) fun a _ => ?_
  cases a <;> simp

@[simp] theorem Group.quiet_asrc64 (g : Group) (x : ASrc) : Run.Quiet (Group.asrc64 g x) := by
  unfold Group.asrc64
  split <;> simp

@[simp] theorem Iss.quiet_lane1 (c : Iss) (o : L1) (f : Word → Word) (x : Bool) : Run.Quiet (Iss.lane1 c o f x) := by
  simp [Iss.lane1]

@[simp] theorem Iss.quiet_lane2 (c : Iss) (o : L2) (f : Word → Word → Word) (x : Bool) : Run.Quiet (Iss.lane2 c o f x) := by
  simp [Iss.lane2]

@[simp] theorem Iss.quiet_lane2l (c : Iss) (o : L2L) (f : Word → Word → Word) (x : Bool) : Run.Quiet (Iss.lane2l c o f x) := by
  simp [Iss.lane2l]

@[simp] theorem Iss.quiet_lane3 (c : Iss) (o : L3) (f : Word → Word → Word → Word) : Run.Quiet (Iss.lane3 c o f) := by
  simp [Iss.lane3]

@[simp] theorem Iss.quiet_lane3l (c : Iss) (o : L3L) (f : Word → Word → Word → Word) : Run.Quiet (Iss.lane3l c o f) := by
  simp [Iss.lane3l]

@[simp] theorem Iss.quiet_lane64 (c : Iss) (o : L2) (f : DWord → DWord → DWord) (x : Bool) : Run.Quiet (Iss.lane64 c o f x) := by
  simp [Iss.lane64]

@[simp] theorem Iss.quiet_short (c : Iss) (d a : VReg) (f : Word → Word → Word) : Run.Quiet (Iss.short c d a f) := by
  simp [Iss.short]

@[simp] theorem Group.quiet_raiseFlags (g : Group) (fl : List Nat) : Run.Quiet (Group.raiseFlags g fl) := by
  unfold Group.raiseFlags
  induction fl generalizing g with
  | nil => simp
  | cons i fl ih => simp [ih]

@[simp] theorem Iss.quiet_accessIn (c : Iss) (order : List Cause) (sp : Space) (k : Kind) (lanes : Mask) (addr : Nat → DWord) (n : Nat)
    : Run.Quiet (Iss.accessIn c order sp k lanes addr n) := by
  unfold Iss.accessIn
  dsimp only
  split
  · split <;> simp
  · simp

@[simp] theorem Iss.quiet_access (c : Iss) (sp : Space) (k : Kind) (lanes : Mask) (addr : Nat → DWord) (n : Nat)
    : Run.Quiet (Iss.access c sp k lanes addr n) := by
  simp [Iss.access]

@[simp] theorem Iss.quiet_sat2 (c : Iss) (z sat : Bool) (o : L2) (f : Int → Int → Int) : Run.Quiet (Iss.sat2 c z sat o f) := by
  simp [Iss.sat2]

@[simp] theorem Iss.quiet_sat2l (c : Iss) (z sat : Bool) (o : L2L) (f : Int → Int → Int) : Run.Quiet (Iss.sat2l c z sat o f) := by
  simp [Iss.sat2l]

@[simp] theorem Iss.quiet_sat1 (c : Iss) (sat : Bool) (o : L1) (f : Int → Int) (x : Bool) : Run.Quiet (Iss.sat1 c sat o f x) := by
  simp [Iss.sat1]

@[simp] theorem Iss.quiet_sat64 (c : Iss) (z sat : Bool) (o : L2) (f : Int → Int → Int) : Run.Quiet (Iss.sat64 c z sat o f) := by
  simp [Iss.sat64]

@[simp] theorem Iss.quiet_shiftOp (c : Iss) (o : Shift) (f : Word → Nat → Word) (canExact : Bool)
    : Run.Quiet (Iss.shiftOp c o f canExact) := by
  unfold Iss.shiftOp
  split <;> simp

@[simp] theorem Iss.quiet_pbin (c : Iss) (na nb : Bool) (o : P2) (f : Mask → Mask → Mask) (x : Bool)
    : Run.Quiet (Iss.pbin c na nb o f x) := by
  simp [Iss.pbin]

@[simp] theorem Iss.quiet_movOp (c : Iss) (d : Nat) (src : Run Loc) (x : Bool) (h : Run.Quiet src)
    : Run.Quiet (Iss.movOp c d src x) := by
  simp [Iss.movOp, h]

@[simp] theorem Iss.quiet_swapOp (c : Iss) (d : Nat) (src : Run Loc) (h : Run.Quiet src) : Run.Quiet (Iss.swapOp c d src) := by
  simp [Iss.swapOp, h]

@[simp] theorem Iss.quiet_cvt (c : Iss) (m : CvtMod) (dst src : CvtType) (d : VReg) (a : Src)
    : Run.Quiet (Iss.cvt c m dst src d a) := by
  simp [Iss.cvt]

@[simp] theorem Iss.quiet_cvt8 (c : Iss) (o : Cvt8Op) : Run.Quiet (Iss.cvt8 c o) := by
  unfold Iss.cvt8
  dsimp only
  split
  · split <;> simp
  · split <;> simp

@[simp] theorem Iss.quiet_cvtmx (c : Iss) (src : MxSrc) (d : VReg) (ks : KReg) (a : VReg) (n : Nat)
    : Run.Quiet (Iss.cvtmx c src d ks a n) := by
  simp [Iss.cvtmx]

@[simp] theorem Group.quiet_lgB (g : Group) (b : LgB) : Run.Quiet (Group.lgB g b) := by
  unfold Group.lgB
  split <;> simp

@[simp] theorem Iss.quiet_lget (c : Iss) (m : LgMode) (seg : Seg) (d a : VReg) (b : LgB) (pc : Option PReg)
    : Run.Quiet (Iss.lget c m seg d a b pc) := by
  simp [Iss.lget]

@[simp] theorem Iss.quiet_perm (c : Iss) (b8 : Bool) (d a : VReg) (b : Src) (pc : Option PReg)
    : Run.Quiet (Iss.perm c b8 d a b pc) := by
  simp [Iss.perm]

@[simp] theorem Iss.quiet_vote (c : Iss) (dst : VoteDst) (na : Bool) (a : PReg) : Run.Quiet (Iss.vote c dst na a) := by
  unfold Iss.vote
  split <;> simp

@[simp] theorem Iss.quiet_redux (c : Iss) (op : RedOp) (z : Bool) (d : KReg) (a : LSrc) : Run.Quiet (Iss.redux c op z d a) := by
  simp [Iss.redux]

@[simp] theorem Iss.quiet_scan (c : Iss) (exc : Bool) (d : VReg) (a : LSrc) (kc : Option KReg)
    : Run.Quiet (Iss.scan c exc d a kc) := by
  simp [Iss.scan]

@[simp] theorem Iss.quiet_match_ (c : Iss) (wide : Bool) (d a : VReg) (pc : Option PReg)
    : Run.Quiet (Iss.match_ c wide d a pc) := by
  simp [Iss.match_]

@[simp] theorem Iss.quiet_isect (c : Iss) (d : VReg) (kc : KReg) (a b : VReg) : Run.Quiet (Iss.isect c d kc a b) := by
  simp [Iss.isect]

@[simp] theorem Group.quiet_baseIdx (g : Group) (base idx : Src) : Run.Quiet (Group.baseIdx g base idx) := by
  unfold Group.baseIdx
  split <;> simp

@[simp] theorem Group.quiet_addr (g : Group) (ad : Addr) (scale : Nat) : Run.Quiet (Group.addr g ad scale) := by
  simp [Group.addr]

@[simp] theorem Group.quiet_addrL (g : Group) (ad : AddrL) : Run.Quiet (Group.addrL g ad) := by
  simp [Group.addrL]

@[simp] theorem Group.quiet_locRun (g : Group) (a n : Nat) : Run.Quiet (g.locRun a n) := by
  induction n generalizing a with
  | zero => simp [Group.locRun]
  | succ n ih => simp [Group.locRun, ih]

@[simp] theorem Iss.quiet_accessKIn (c : Iss) (order : List Cause) (sp : Space) (k : Kind) (a : DWord) (n : Nat)
    : Run.Quiet (Iss.accessKIn c order sp k a n) := by
  unfold Iss.accessKIn
  split
  · simp
  · have h := c.quiet_accessIn order sp k (BitVec.twoPow 32 (lowLane c.ex)) (fun _ => a) n
    split
    · simp
    · exact h

@[simp] theorem Iss.quiet_accessK (c : Iss) (sp : Space) (k : Kind) (a : DWord) (n : Nat)
    : Run.Quiet (Iss.accessK c sp k a n) := by
  simp [Iss.accessK]

@[simp] theorem Group.quiet_atomB (g : Group) (m : AMod) (b : Src) : Run.Quiet (Group.atomB g m b) := by
  simp [Group.atomB]

@[simp] theorem Iss.quiet_block (c : Iss) (sp : Space) (addr : DWord) : Run.Quiet (Iss.block c sp addr) := by
  unfold Iss.block
  dsimp only
  split <;> simp

@[simp] theorem Iss.quiet_queueOp (c : Iss) (enq : Bool) (sp : Space) (a : KReg) (d : VReg)
    : Run.Quiet (Iss.queueOp c enq sp a d) := by
  simp [Iss.queueOp]

@[simp] theorem Iss.quiet_k2op (c : Iss) (o : K2) (f : DWord → DWord → DWord) (x : Bool) : Run.Quiet (Iss.k2op c o f x) := by
  simp [Iss.k2op]

@[simp] theorem Iss.quiet_k2lop (c : Iss) (o : K2L) (f : DWord → DWord → DWord) (x : Bool) : Run.Quiet (Iss.k2lop c o f x) := by
  simp [Iss.k2lop]

@[simp] theorem Iss.quiet_checkTargets (c : Iss) (ts : List (CAddr × Mask)) : Run.Quiet (Iss.checkTargets c ts) := by
  unfold Iss.checkTargets
  refine Run.all_bind (Run.quiet_filterM (fun t => by simp) ts) fun bad _ => ?_
  split <;> simp

@[simp] theorem Iss.quiet_divide (c : Iss) (g : Group) (ts : List (CAddr × Mask)) (rest : Mask)
    : Run.Quiet (Iss.divide c g ts rest) := by
  unfold Iss.divide
  split <;> simp

@[simp] theorem Iss.quiet_satTest (c : Iss) : Run.Quiet (Iss.satTest c) := by
  simp [Iss.satTest]

@[simp] theorem State.quiet_byHandle (s : State) (ctx h : Nat) : Run.Quiet (State.byHandle s ctx h) := by
  unfold State.byHandle
  split <;> simp

@[simp] theorem State.quiet_polderOp (s : State) (ctx : Nat) (x : DWord) (len : Nat) : Run.Quiet (State.polderOp s ctx x len) := by
  simp [State.polderOp]

@[simp] theorem quiet_invalid {α : Type} : Run.Quiet (invalid : Run α) := by
  simp [invalid]

@[simp] theorem quiet_valid (b : Bool) : Run.Quiet (valid b) := by
  simp [valid]

@[simp] theorem Iss.quiet_tileWords (c : Iss) (m : TileMode) (ka kb : DWord) : Run.Quiet (Iss.tileWords c m ka kb) := by
  simp [Iss.tileWords]

@[simp] theorem Iss.quiet_summary (c : Iss) (o : SurrOut) : Run.Quiet (Iss.summary c o) := by
  unfold Iss.summary
  split <;> simp

@[simp] theorem Iss.quiet_sealAt (c : Iss) (a : KReg) : Run.Quiet (Iss.sealAt c a) := by
  simp [Iss.sealAt]

@[simp] theorem Iss.quiet_side (c : Iss) (sp : ASpace) (x : DWord) (len : Nat) : Run.Quiet (Iss.side c sp x len) := by
  unfold Iss.side
  split <;> simp

@[simp] theorem Iss.quiet_copyCheck (c : Iss) (m : CpyMod) (k : CopyKind) (desc : Option Desc) (src dst : DWord)
    : Run.Quiet (Iss.copyCheck c m k desc src dst) := by
  unfold Iss.copyCheck
  split <;> simp

@[simp] theorem Iss.quiet_frame (c : Iss) : Run.Quiet (Iss.frame c) := by
  unfold Iss.frame
  split <;> simp

@[simp] theorem Iss.quiet_mayEdit (c : Iss) : Run.Quiet (Iss.mayEdit c) := by
  simp [Iss.mayEdit]

@[simp] theorem Iss.quiet_notInHandler (c : Iss) : Run.Quiet (Iss.notInHandler c) := by
  simp [Iss.notInHandler]

@[simp] theorem Iss.quiet_eventAt (c : Iss) (n : Nat) : Run.Quiet (Iss.eventAt c n) := by
  unfold Iss.eventAt
  split <;> simp

@[simp] theorem Iss.quiet_taskSpace (c : Iss) (a : DWord) : Run.Quiet (Iss.taskSpace c a) := by
  unfold Iss.taskSpace
  split
  · split <;> simp
  · simp

@[simp] theorem Iss.quiet_launchRecord (c : Iss) (a : DWord) : Run.Quiet (Iss.launchRecord c a) := by
  refine Run.all_bind (c.quiet_accessK .global .load a 256) fun accs _ => ?_
  dsimp only
  split <;> simp

@[simp] theorem Iss.quiet_needTile (c : Iss) (n : Nat) : Run.Quiet (Iss.needTile c n) := by
  simp [Iss.needTile]

@[simp] theorem Iss.quiet_tileFree (c : Iss) (ts : List Nat) : Run.Quiet (Iss.tileFree c ts) := by
  simp [Iss.tileFree]

@[simp] theorem Iss.quiet_whole (c : Iss) : Run.Quiet (Iss.whole c) := by
  simp [Iss.whole]

@[simp] theorem Iss.quiet_needRegs (c : Iss) (base n : Nat) : Run.Quiet (Iss.needRegs c base n) := by
  simp [Iss.needRegs]

@[simp] theorem Iss.quiet_tileAccess (c : Iss) (sp : Space) (k : Kind) (base : DWord) (bc z : Nat)
    : Run.Quiet (Iss.tileAccess c sp k base bc z) := by
  unfold Iss.tileAccess
  generalize List.range 4096 = l
  dsimp only
  split <;> simp

end Sys2Proof.Machine
end

section
/-! Proofs/Records: fault records, the pool's records, a group's departure and commits keep the storage canonical (17_traps R384,
14_task_engine R345 to R354, 09_history R251). -/

namespace Sys2Proof.Machine

variable {s : State} {α : Type}

/-- Writing memory alone. -/
theorem State.storageWf_withMem (h : s.storageWf = true) {m : Cells 8} (hm : m.wf = true) :
    ({ s with mem := m } : State).storageWf = true := by
  obtain ⟨-, h2, h3⟩ := s.storageWf_iff.mp h
  exact (State.storageWf_iff _).mpr ⟨hm, h2, h3⟩

/-- Writing the polder alone. -/
theorem State.storageWf_withPolder (h : s.storageWf = true) {m : Cells 8} (hm : m.wf = true) :
    ({ s with polder := m } : State).storageWf = true := by
  obtain ⟨h1, -, h3⟩ := s.storageWf_iff.mp h
  exact (State.storageWf_iff _).mpr ⟨h1, hm, h3⟩

theorem State.mem_wf (h : s.storageWf = true) : s.mem.wf = true := (s.storageWf_iff.mp h).1
theorem State.polder_wf (h : s.storageWf = true) : s.polder.wf = true := (s.storageWf_iff.mp h).2.1

/-- Writing a core but for its write-combining buffer. -/
theorem State.storageWf_setCore_wcb (h : s.storageWf = true) {i : Nat} {x : Core} (hx : x.wcb = (s.core i).wcb) :
    (s.setCore i x).storageWf = true :=
  State.storageWf_setCore h i x (hx ▸ s.wcb_wf h i)

/-! Fault records. -/

@[simp] theorem State.storageWf_appendFault (h : s.storageWf = true) (ctx : Nat) (r : FaultRec) :
    (s.appendFault ctx r).2.storageWf = true := by
  refine State.storageWf_withMem (s := s.newId.2) h ?_
  show Cells.wf ((s.ctxs.get ctx).elim s.mem _) = true
  cases s.ctxs.get ctx with
  | none => exact State.mem_wf h
  | some c =>
    dsimp only [Option.elim]
    split
    · exact State.ringMem_wf _ _ _ (State.mem_wf h)
    · exact State.mem_wf h

theorem State.storageWf_refillRun (ctx : Nat) (l : List (Nat × FaultRec)) :
    ∀ s : State, s.storageWf = true → (s.refillRun ctx l).storageWf = true := by
  induction l with
  | nil => exact fun s h => h
  | cons x t ih =>
    intro s h
    unfold State.refillRun
    split
    · exact h
    · split
      · exact ih _ (State.storageWf_withMem h (State.ringMem_wf _ _ _ (State.mem_wf h)))
      · exact h

@[simp] theorem State.storageWf_refillFaults (h : s.storageWf = true) (ctx : Nat) : (s.refillFaults ctx).storageWf = true :=
  State.storageWf_refillRun _ _ s h

@[simp] theorem State.storageWf_ctxFault (h : s.storageWf = true) (ctx gridNo teamNo : Nat) (cause : Cause) (a b : DWord)
    (saved : List DWord) : (s.ctxFault ctx gridNo teamNo cause a b saved).storageWf = true :=
  State.storageWf_appendFault h _ _

@[simp] theorem State.storageWf_toBerm (h : s.storageWf = true) (gid : Nat) (g : Group) (sn : Nat) (cause : Cause) (lanes : Mask)
    (a : CAddr) (detA detB : DWord) (parcels : Nat) (replyTo : Option KReg) :
    (s.toBerm gid g sn cause lanes a detA detB parcels replyTo).storageWf = true :=
  State.storageWf_appendFault h _ _

@[simp] theorem State.storageWf_impreciseWith (h : s.storageWf = true) (gid : Nat) (g : Group) (cause : Cause) (lanes : Mask)
    (detA : DWord) (saved : List DWord) : (s.impreciseWith gid g cause lanes detA saved).storageWf = true :=
  State.storageWf_appendFault h _ _

@[simp] theorem State.storageWf_imprecise (h : s.storageWf = true) (gid : Nat) (g : Group) (cause : Cause) (lanes : Mask)
    (detA : DWord) : (s.imprecise gid g cause lanes detA).storageWf = true :=
  State.storageWf_impreciseWith h _ _ _ _ _ _

/-! Stores made visible. -/

@[simp] theorem State.storageWf_dropRow (h : s.storageWf = true) (block line : Nat) : (s.dropRow block line).storageWf = true :=
  State.storageWf_dropAll h _ _

@[simp] theorem State.storageWf_writeLines (p : Nat → Bool) : (s.writeLines p).storageWf = s.storageWf := rfl

theorem State.storageWf_publish (h : s.storageWf = true) (lines : List Nat) : (s.publish lines).storageWf = true :=
  storageWf_foldl _ (fun _ _ ht => storageWf_foldl _ (fun _ _ hu => State.storageWf_dropCopy hu _ _) _ _ ht) _ s h

/-! Records in bins. -/

@[simp] theorem State.storageWf_poolMode (ctx : Nat) : (s.poolMode ctx).storageWf = s.storageWf := rfl

@[simp] theorem State.storageWf_enterBin (h : s.storageWf = true) (ctx : Nat) (r : Rec) : (s.enterBin ctx r).storageWf = true := by
  unfold State.enterBin
  dsimp only [State.newId]
  split
  · exact h
  · split
    · exact State.storageWf_setCore_wcb (s := s.newId.2) h rfl
    · split
      · exact State.storageWf_setCore_wcb (s := s.newId.2) h rfl
      · exact h

@[simp] theorem State.storageWf_makeReady (h : s.storageWf = true) (ctx : Nat) (rs : List Rec) :
    (s.makeReady ctx rs).storageWf = true :=
  storageWf_foldl _ (fun _ _ ht => State.storageWf_enterBin ht _ _) _ s h

@[simp] theorem State.storageWf_retryReady (h : s.storageWf = true) (ctx : Nat) : (s.retryReady ctx).storageWf = true := by
  unfold State.retryReady
  split <;> simp [h]

@[simp] theorem State.storageWf_retryAll (h : s.storageWf = true) : s.retryAll.storageWf = true := by
  refine storageWf_foldl _ (fun t c ht => ?_) _ s h
  split <;> simp [ht]

@[simp] theorem State.storageWf_reap (h : s.storageWf = true) (gid : Nat) : (s.reap gid).storageWf = true := by
  unfold State.reap
  split
  · exact h
  · split
    · exact h
    · exact storageWf_foldl _ (fun t x ht => State.storageWf_ctxFault ht _ _ _ _ _ _ _) _ _ h

@[simp] theorem State.storageWf_charge (gid ctx : Nat) : (s.charge gid ctx).storageWf = s.storageWf := by
  unfold State.charge
  dsimp only
  split
  · rfl
  · split <;> rfl

/-! Events, seals, commits. -/

@[simp] theorem State.storageWf_fireEvent (h : s.storageWf = true) (ctx name : Nat) : (s.fireEvent ctx name).storageWf = true := by
  unfold State.fireEvent
  split
  · split <;> simp [h]
  · exact h

@[simp] theorem State.storageWf_sealCheck (h : s.storageWf = true) (tile : Nat) : (s.sealCheck tile).storageWf = true := by
  unfold State.sealCheck
  split
  · split <;> simp [h]
  · exact h

@[simp] theorem State.storageWf_lowerSeal (h : s.storageWf = true) (d : Nat × Nat) : (s.lowerSeal d).storageWf = true := by
  unfold State.lowerSeal
  split
  · split <;> simp [h]
  · exact h

@[simp] theorem State.storageWf_commitOuter (h : s.storageWf = true) (gid core : Nat) (drops : List (Nat × Nat)) :
    (s.commitOuter gid core drops).storageWf = true :=
  storageWf_foldl _ (fun _ _ ht => State.storageWf_lowerSeal ht _) _ _ (State.storageWf_release h _ _ _)

@[simp] theorem State.all_commit (h : s.storageWf = true) (gid : Nat) :
    Run.All (fun t : State => t.storageWf = true) (s.commit gid) := by
  unfold State.commit
  split
  · exact h
  · split <;> simp [h]

end Sys2Proof.Machine
end

section
/-! Proofs/Issuing: an instruction that issues leaves the storage canonical where its body does (Machine/Issue). -/

namespace Sys2Proof.Machine

variable {s : State}

/-- The next state, if there is one, is canonical. -/
def Keeps (o : Out) : Prop := ∀ t, o = .next t → t.storageWf = true

@[simp] theorem keeps_next : Keeps (.next s) ↔ s.storageWf = true :=
  ⟨fun h => h s rfl, fun h _ ht => by cases ht; exact h⟩
@[simp] theorem keeps_fault (f : Fault) : Keeps (.fault f) := fun _ h => nomatch h
@[simp] theorem keeps_refused (r : Refusal) : Keeps (.refused r) := fun _ h => nomatch h

/-- A result whose state is canonical. -/
def Fin.Canon (f : Fin) : Prop := f.s.storageWf = true

/-- A body all of whose ends are canonical. -/
abbrev Run.Ends (x : Run Fin) : Prop := Run.All Fin.Canon x

@[simp] theorem Fin.canon_mk {a b c : Bool} : Fin.Canon ⟨s, a, b, c⟩ ↔ s.storageWf = true := .rfl
@[simp] theorem Iss.canon_done (c : Iss) (g : Group) : (c.done g).Canon ↔ c.s.storageWf = true := .rfl
@[simp] theorem Iss.canon_doneS (c : Iss) (t : State) : (c.doneS t).Canon ↔ t.storageWf = true := .rfl

/-- The state that an option holds is canonical. -/
def KeepsSome (o : Option State) : Prop := ∀ t, o = some t → t.storageWf = true

@[simp] theorem keepsSome_none : KeepsSome none := fun _ h => nomatch h
@[simp] theorem keepsSome_some : KeepsSome (some s) ↔ s.storageWf = true :=
  ⟨fun h => h s rfl, fun h _ ht => by cases ht; exact h⟩
@[simp] theorem keepsSome_ite {p : Prop} [Decidable p] {a b : Option State} :
    KeepsSome (if p then a else b) ↔ (p → KeepsSome a) ∧ (¬ p → KeepsSome b) := by split <;> simp [*]
@[simp] theorem keepsSome_map {α : Type} {a : Option α} {f : α → State} :
    KeepsSome (a.map f) ↔ ∀ x, a = some x → (f x).storageWf = true := by cases a <;> simp
@[simp] theorem keepsSome_bind {α : Type} {a : Option α} {f : α → Option State} :
    KeepsSome (a.bind f) ↔ ∀ x, a = some x → KeepsSome (f x) := by cases a <;> simp

@[simp] theorem keepsSome_or {a b : Option State} (ha : KeepsSome a) (hb : KeepsSome b) : KeepsSome (a.or b) := by
  cases a with
  | none => exact hb
  | some t => exact ha

@[simp] theorem storageWf_getD {o : Option State} (ho : KeepsSome o) (h : s.storageWf = true) : (o.getD s).storageWf = true := by
  cases o with
  | none => exact h
  | some t => exact ho t rfl

/-- The state that a computation with a cause of failure ends in is canonical. -/
def KeepsOk {ε : Type} (x : Except ε State) : Prop := ∀ t, x = .ok t → t.storageWf = true

section
variable {ε : Type}
@[simp] theorem keepsOk_error {e : ε} : KeepsOk (.error e) := fun _ h => nomatch h
@[simp] theorem keepsOk_throw {e : ε} : KeepsOk (throw e : Except ε State) := fun _ h => nomatch h
@[simp] theorem keepsOk_ok : KeepsOk (.ok s : Except ε State) ↔ s.storageWf = true :=
  ⟨fun h => h s rfl, fun h _ ht => by cases ht; exact h⟩
@[simp] theorem keepsOk_pure : KeepsOk (pure s : Except ε State) ↔ s.storageWf = true := keepsOk_ok
@[simp] theorem keepsOk_ite {p : Prop} [Decidable p] {a b : Except ε State} :
    KeepsOk (if p then a else b) ↔ (p → KeepsOk a) ∧ (¬ p → KeepsOk b) := by split <;> simp [*]
@[simp] theorem keepsOk_bind {α : Type} {a : Except ε α} {f : α → Except ε State} :
    KeepsOk (a >>= f) ↔ ∀ x, a = .ok x → KeepsOk (f x) := by cases a <;> simp [bind, Except.bind]
end

@[simp] theorem State.keepsSome_portFault (h : s.storageWf = true) (ctx gridNo : Nat) (ps : List Place) (a : DWord) :
    KeepsSome (s.portFault ctx gridNo ps a) := by
  simp [State.portFault, h]

/-! Handler entries. -/

@[simp] theorem State.storageWf_frameLost (h : s.storageWf = true) (gid : Nat) (g : Group) (e : Entry) :
    (s.frameLost gid g e).storageWf = true := by
  simp [State.frameLost, h]

@[simp] theorem State.storageWf_enterAt (h : s.storageWf = true) (gid : Nat) (g : Group) (e : Entry) :
    (s.enterAt gid g e).storageWf = true := by
  unfold State.enterAt
  split
  · simp [h]
  · split <;> simp [h]

@[simp] theorem State.storageWf_countDefault (core : Nat) : (s.countDefault core).storageWf = s.storageWf := rfl

@[simp] theorem State.storageWf_fullAtEntry (h : s.storageWf = true) (gid : Nat) (g : Group) (e : Entry) :
    (s.fullAtEntry gid g e).storageWf = true := by
  have hc : (((s.setGroup gid g).commitOuter gid g.core g.drops).countDefault g.core).storageWf = true := by simp [h]
  unfold State.fullAtEntry
  dsimp only
  split
  · simp [h]
  · split
    · simp [h]
    · split
      · exact h
      · split
        · exact hc
        · split <;> simp [h]

@[simp] theorem State.storageWf_enterHandler (h : s.storageWf = true) (gid : Nat) (g : Group) (e : Entry) :
    (s.enterHandler gid g e).storageWf = true := by
  simp only [State.enterHandler]
  split
  · exact h
  · split <;> simp [h]

@[simp] theorem State.storageWf_emulate (h : s.storageWf = true) (gid : Nat) (g : Group) (sp : Split) (cause : Cause) (a : CAddr)
    (p0 p1 p2 : Word) (n : Nat) (whole : Bool) (ex : Mask) :
    (s.emulate gid g sp cause a p0 p1 p2 n whole ex).storageWf = true := by
  unfold State.emulate
  split
  · simp [h]
  · split <;> simp [h]

/-! What an instruction leaves that does not retire. -/

@[simp] theorem Iss.storageWf_fault {c : Iss} (h : c.s.storageWf = true) (cause : Cause) (lanes : Mask) (a b : DWord) :
    (c.fault cause lanes a b).storageWf = true := State.storageWf_toBerm h _ _ _ _ _ _ _ _ _ _

theorem Iss.storageWf_stopWith {c : Iss} (h : c.s.storageWf = true) {e : Stop} (he : e.Canon) :
    (c.stopWith e).storageWf = true := by
  unfold Iss.stopWith
  split
  · simp [h]
  · simp [h]
  · split <;> simp [h]
  · exact h
  · exact he

/-! Retirement. -/

@[simp] theorem State.storageWf_stepHalt (gid sn : Nat) : (s.stepHalt gid sn).storageWf = s.storageWf := by
  unfold State.stepHalt
  dsimp only
  split
  · rfl
  · split
    · split <;> rfl
    · rfl

@[simp] theorem Iss.storageWf_retire (c : Iss) (f : Fin) (g : Group) : (c.retire f g).storageWf = f.s.storageWf := by
  unfold Iss.retire
  dsimp only
  split <;> simp

/-- An attempt that is over left a canonical state. -/
def Attempt.Canon : Attempt → Prop
  | .over s => s.storageWf = true
  | .full _ => True

theorem Iss.canon_attempt {c : Iss} (h : c.s.storageWf = true) {body : Iss → Run Fin} (hb : Run.Ends (body c)) :
    (c.attempt body).Canon := by
  unfold Iss.attempt
  cases hc : body c with
  | error e => exact Iss.storageWf_stopWith h (by rw [hc] at hb; exact hb)
  | ok f =>
    have hf : f.s.storageWf = true := by rw [hc] at hb; exact hb
    dsimp only
    split
    · exact hf
    · split
      · trivial
      · split
        · exact h
        · exact (c.storageWf_retire f _).trans hf

/-- The default action asks the body again after a commit. -/
theorem Iss.storageWf_defaultAction {c : Iss} (h : c.s.storageWf = true) {body : Iss → Run Fin}
    (hb : ∀ c : Iss, c.s.storageWf = true → Run.Ends (body c)) : (c.defaultAction body).storageWf = true := by
  have hc := State.all_commit h c.gid
  unfold Iss.defaultAction
  split
  · exact h
  · next t ht =>
    have ht : t.storageWf = true := by rw [ht] at hc; exact hc
    dsimp only
    split
    · exact ht
    · next g hg =>
      have ha := Iss.canon_attempt (c := { c with s := t.countDefault c.g.core, g := g }) ht (hb _ ht)
      split
      · next u hu => rw [hu] at ha; exact ha
      · exact Iss.storageWf_fault ht _ _ _ _

theorem Iss.storageWf_historyFull {c : Iss} (h : c.s.storageWf = true) {body : Iss → Run Fin}
    (hb : ∀ c : Iss, c.s.storageWf = true → Run.Ends (body c)) (reason : Nat) :
    (c.historyFull reason body).storageWf = true := by
  unfold Iss.historyFull
  split
  · simp [h]
  · split
    · simp [h]
    · exact Iss.storageWf_defaultAction h hb

/-- An issue of a body whose ends are canonical. -/
theorem keeps_issue (h : s.storageWf = true) {body : Iss → Run Fin} (hb : ∀ c : Iss, c.s.storageWf = true → Run.Ends (body c))
    (len : Nat) (gd : Guard) : Keeps (issue len gd s body) := by
  unfold issue
  split
  · simp
  · next g sp cl _ =>
    split
    · simpa using h
    · have hi : (s.iss g sp cl gd len).s.storageWf = true := h
      have ha := Iss.canon_attempt hi (hb _ hi)
      rw [keeps_next]
      split
      · next u hu => rw [hu] at ha; exact ha
      · exact Iss.storageWf_historyFull hi hb _

/-- An instruction over its group's registers alone. -/
theorem keeps_regOp (h : s.storageWf = true) {body : Iss → Run Group} (hb : ∀ c : Iss, Run.Quiet (body c)) (len : Nat)
    (gd : Guard) : Keeps (regOp len gd s body) := by
  refine keeps_issue h (fun c hc => ?_) len gd
  refine Run.all_map.mpr ?_
  exact (hb c).all fun g => (c.canon_done g).mpr hc

/-- A class S instruction. -/
@[simp] theorem Iss.ends_sealing {c : Iss} (h : c.s.storageWf = true) {effect : Iss → Run State}
    (he : ∀ c : Iss, c.s.storageWf = true → Run.All (fun t : State => t.storageWf = true) (effect c)) :
    Run.Ends (c.sealing effect) := by
  unfold Iss.sealing
  split
  · exact h
  · refine Run.all_bind (State.all_commit h c.gid) fun t ht => ?_
    split
    · exact ht
    · exact Run.all_bind (he _ ht) fun u hu => hu

/-- The same where the result is only marked afterwards. -/
@[simp] theorem Iss.all_sealing {c : Iss} (h : c.s.storageWf = true) {effect : Iss → Run State}
    (he : ∀ c : Iss, c.s.storageWf = true → Run.All (fun t : State => t.storageWf = true) (effect c)) :
    Run.All (fun f : Fin => f.s.storageWf = true) (c.sealing effect) :=
  Iss.ends_sealing h he

end Sys2Proof.Machine
end

section
/-! Proofs/MemoryKeeps: loads, stores, atomics and queues keep the storage canonical (06_memory_port R186 to R199, 07_memory_order
R201 to R207). -/

namespace Sys2Proof.Machine

variable {s : State} {α : Type}

/-- The state of a pair. -/
theorem storageWf_fst {p : State × α} {t : State} {a : α} (hp : p = (t, a)) (h : p.1.storageWf = true) : t.storageWf = true := by
  rw [hp] at h; exact h
theorem storageWf_snd {p : α × State} {t : State} {a : α} (hp : p = (a, t)) (h : p.2.storageWf = true) : t.storageWf = true := by
  rw [hp] at h; exact h

@[simp] theorem State.storageWf_await (p : Pending) (ev : Nat → Instr) : (s.await p ev).storageWf = s.storageWf := rfl

/-! Places at their homes. -/

@[simp] theorem State.storageWf_catchUp (h : s.storageWf = true) (core : Nat) (ps : List Place) :
    (s.catchUp core ps).storageWf = true := by
  refine storageWf_foldl _ (fun t l ht => ?_) _ s h
  have hc := State.storageWf_cacheLine ht l
  dsimp only
  split
  · exact State.storageWf_dropCopy hc _ _
  · exact hc

@[simp] theorem State.storageWf_toHome (h : s.storageWf = true) (core : Nat) (ps : List Place) :
    (s.toHome core ps).storageWf = true :=
  State.storageWf_catchUp (State.storageWf_preBypass h _ _) _ _

@[simp] theorem State.storageWf_pointPut (h : s.storageWf = true) (core gid : Nat) (sp : Space) (bs : List (Place × Byte)) :
    (s.pointPut core gid sp bs).storageWf = true := by
  unfold State.pointPut
  split
  · exact State.storageWf_storeBytes h _ _ _ _ _ _
  · exact State.storageWf_putBytes h _ _

@[simp] theorem State.storageWf_rmw (h : s.storageWf = true) (core gid : Nat) (sp : Space) (f : Nat → Nat → Option Nat)
    (l : List Acc) : (s.rmw core gid sp f l).1.storageWf = true := by
  induction l generalizing s with
  | nil => exact h
  | cons a t ih =>
    unfold State.rmw
    dsimp only
    split
    · exact ih (State.storageWf_pointPut h _ _ _ _)
    · exact ih h

@[simp] theorem State.storageWf_takeLoad (h : s.storageWf = true) (core gid : Nat) (m : MemMod) (accs : List Acc) :
    (s.takeLoad core gid m accs).1.storageWf = true := by
  have hp := State.storageWf_preLoad h core gid (accs.flatMap (·.places))
  refine State.storageWf_refresh (State.storageWf_askFills ?_ _ _ _) _ _ _
  split
  · exact State.storageWf_fillPriv hp _ _
  · split
    · exact State.storageWf_catchUp hp _ _
    · exact hp

/-! Loads and stores. -/

@[simp] theorem Iss.ends_ld {c : Iss} (h : c.s.storageWf = true) (m : MemMod) (d : VReg)
    {addr : Run Vals64} (ha : Run.Quiet addr) : Run.Ends (c.ld m d addr) := by
  simp [Iss.ld, h, ha]

@[simp] theorem Iss.ends_kld {c : Iss} (h : c.s.storageWf = true) (m : MemMod) (d a b : KReg) (disp : DWord) :
    Run.Ends (c.kld m d a b disp) := by
  simp [Iss.kld, h]

@[simp] theorem Iss.ends_ldx {c : Iss} (h : c.s.storageWf = true) (m : MemMod) (d : VReg)
    {addr : Run Vals64} (ha : Run.Quiet addr) : Run.Ends (c.ldx m d addr) := by
  simp [Iss.ldx, h, ha]

@[simp] theorem Iss.ends_st {c : Iss} (h : c.s.storageWf = true) (m : MemMod) (fl : SFlags) (d : VReg) {addr : Run Vals64}
    (ha : Run.Quiet addr) : Run.Ends (c.st m fl d addr) := by
  simp only [Iss.st, Run.all_bind_iff, Group.quiet_locRun, ha, Iss.quiet_access, Run.all_ite, Group.quiet_raiseFlags]
  refine fun ls _ a _ accs _ => ⟨fun _ => h, fun _ g _ => ?_⟩
  have hp : State.storageWf (if g.recGrade = .off then c.s else c.s.preLoad g.core c.gid (accs.flatMap (·.places))) = true := by
    split
    · exact h
    · exact State.storageWf_preLoad h _ _ _
  simp only [Run.all_pure, Iss.canon_doneS]
  split
  · simp [State.storageWf_storeBytes, hp]
  · simp [State.storageWf_storeBytes, hp]

@[simp] theorem Iss.ends_stx {c : Iss} (h : c.s.storageWf = true) (m : MemMod) (fl : SFlags) (d : VReg) {addr : Run Vals64}
    (ha : Run.Quiet addr) : Run.Ends (c.stx m fl d addr) := by
  simp only [Iss.stx, Run.all_bind_iff, Group.quiet_locRun, ha, Iss.quiet_access, Run.all_ite, Group.quiet_raiseFlags]
  refine fun ls _ a _ accs _ => ⟨fun _ => h, fun _ g _ => ?_⟩
  simp only [Run.all_pure, Iss.canon_doneS]
  split <;> split <;> simp [h]

@[simp] theorem Iss.ends_xchg {c : Iss} (h : c.s.storageWf = true) (m : MemMod) (d : VReg)
    {addr : Run Vals64} (ha : Run.Quiet addr) : Run.Ends (c.xchg m d addr) := by
  simp [Iss.xchg, h, ha]

@[simp] theorem Iss.ends_pref {c : Iss} (h : c.s.storageWf = true) (pc : Bool) (sp : GSpace) (fl : SFlags) (ad : Addr) :
    Run.Ends (c.pref pc sp fl ad) := by
  simp only [Iss.pref, Run.all_bind_iff, Group.quiet_addr, Run.all_ite, Group.quiet_raiseFlags]
  refine fun a _ => ⟨fun _ => h, fun _ g _ => ?_⟩
  simp only [Run.all_pure, Iss.canon_doneS, State.storageWf_await]
  split
  · exact storageWf_foldl _ (fun _ _ ht => State.storageWf_cacheLine ht _) _ _ h
  · simp [State.storageWf_askFills, h]

/-! Atomics and queues. -/

theorem Group.quiet_atomicOf {g : Group} {i : Instr} {x : Run Atomic} (h : g.atomicOf i = some x) : Run.Quiet x := by
  unfold Group.atomicOf at h
  split at h <;> cases h <;> simp

@[simp] theorem State.storageWf_atHome (h : s.storageWf = true) (core gid : Nat) (x : Atomic) (accs : List Acc) :
    (s.atHome core gid x accs).1.storageWf = true :=
  State.storageWf_rmw (State.storageWf_toHome h _ _) _ _ _ _ _

@[simp] theorem Iss.ends_atomic {c : Iss} (h : c.s.storageWf = true) (fl : SFlags) (x : Atomic) : Run.Ends (c.atomic fl x) := by
  simp only [Iss.atomic, Run.all_bind_iff, Iss.quiet_access, Run.all_ite, Group.quiet_raiseFlags]
  refine fun accs _ => ⟨fun _ => h, fun _ g _ => ?_⟩
  have ht : State.storageWf (if orderReleases x.m.order then (c.s.setGroup c.gid g).release g.core c.gid x.m.scope
      else c.s.setGroup c.gid g) = true := by
    split
    · simp [State.storageWf_release, h]
    · exact h
  have hr := State.storageWf_atHome ht
  simp only [Run.all_pure, Iss.canon_doneS]
  generalize (if orderReleases x.m.order then (c.s.setGroup c.gid g).release g.core c.gid x.m.scope
      else c.s.setGroup c.gid g) = u at hr ⊢
  split <;> split <;> exact hr _ _ _ _

@[simp] theorem Iss.ends_atomicI {c : Iss} (h : c.s.storageWf = true) (i : Instr) (fl : SFlags) : Run.Ends (c.atomicI i fl) := by
  unfold Iss.atomicI
  split
  next r hr => exact Run.all_bind (Group.quiet_atomicOf hr) fun x _ => Iss.ends_atomic h fl x
  · exact h

@[simp] theorem Iss.ends_queue {c : Iss} (h : c.s.storageWf = true) (enq : Bool) (sp : Space) (sc : Scope) (pc : PReg) (a : KReg)
    (d : VReg) : Run.Ends (c.queue enq sp sc pc a d) := by
  unfold Iss.queue
  split
  · exact h
  · refine Run.all_bind (Iss.quiet_queueOp _ enq sp a d) fun _ _ => Iss.ends_sealing (State.storageWf_release h _ _ _) ?_
    refine fun c hc => Run.all_bind (Iss.quiet_queueOp c enq sp a d) fun q _ => ?_
    have ht := State.storageWf_toHome hc c.g.core (q.block ++ q.served.flatMap (·.places))
    simp only [Run.all_pure, State.storageWf_updGroup]
    split
    · exact State.storageWf_putBytes (State.storageWf_putBytes ht _ _) _ _
    · exact State.storageWf_putBytes (s := State.updGroup _ _ _) ht _ _

end Sys2Proof.Machine
end

section
/-! Proofs/ControlKeeps: transfers, EXIT and CONV, special registers and the conflict batcher keep the storage canonical
(04_lane_integer_control R124 to R133, 03_group_state R81, R83, 15_conflict_batcher R374). -/

namespace Sys2Proof.Machine
variable {s : State} {α : Type}

@[simp] theorem Iss.ends_transferOf {c : Iss} (h : c.s.storageWf = true) (x : Transfer) : Run.Ends (c.transferOf x) := by
  unfold Iss.transferOf
  refine Run.all_bind (Q := fun _ => True) (by simp) fun _ _ => ?_
  dsimp only
  split
  all_goals
    refine Run.all_bind (Q := fun _ => True) (by simp) fun link _ => Run.all_ite.mpr ⟨fun _ => h, fun _ => ?_⟩
    refine Run.all_bind (Q := fun _ => True) (by simp) fun _ _ => Run.all_bind (Q := fun _ => True) (by simp) fun _ _ =>
      Run.all_bind (Q := fun _ => True) (by simp) fun _ _ => ?_
    split
    · simp [h]
    · refine Run.all_bind (Run.all_wait.mpr ?_) fun _ => False.elim
      exact Iss.storageWf_fault (c := Iss.withoutGrant { c with g := _ }) h _ _ _ _
    · exact Run.all_bind (Run.all_wait.mpr h) fun _ => False.elim

theorem Run.all_ungranted {c : Iss} (h : c.s.storageWf = true) {P : α → Prop} {x : Run α} (hx : Run.All P x) :
    Run.All P (c.ungranted x) := by
  unfold Iss.ungranted
  split
  · split
    · exact Iss.storageWf_stopWith (c := c.withoutGrant) h trivial
    · trivial
  · exact hx

@[simp] theorem Iss.ends_transfer {c : Iss} (h : c.s.storageWf = true) (x : Transfer) : Run.Ends (c.transfer x) :=
  Run.all_ungranted h (Iss.ends_transferOf h x)

theorem keeps_execMts (h : s.storageWf = true) (g : Guard) (sr : BitVec 8) (a : KReg) : Keeps (execMts g sr a s) := by
  refine keeps_issue h (fun c hc => ?_) _ _
  simp only [Run.all_ite, Run.all_ok, Iss.canon_done, hc, Run.all_raise]
  refine ⟨fun _ => trivial, fun _ => ⟨fun _ => trivial, fun _ => ⟨fun _ => ?_, fun _ => trivial⟩⟩⟩
  refine Iss.ends_sealing hc fun c hc => ?_
  split <;> exact hc

theorem keeps_execExit (h : s.storageWf = true) : Keeps (execExit s) := by
  refine keeps_issue h (fun c hc => ?_) _ _
  refine Run.all_bind ((Run.quiet_need _ _).mpr fun _ => trivial) fun _ _ => Run.all_fmap.mpr (Iss.ends_sealing hc fun c hc => ?_)
  exact State.storageWf_reap (s := c.s.setGroup _ _) hc _

theorem keeps_execConv (h : s.storageWf = true) : Keeps (execConv s) := by
  refine keeps_issue h (fun c hc => ?_) _ _
  exact Run.all_bind c.quiet_satTest fun _ _ => hc

@[simp] theorem State.storageWf_setStream (ctx n : Nat) (x : Stream) : (s.setStream ctx n x).storageWf = s.storageWf := rfl

@[simp] theorem Iss.ends_cbopen {c : Iss} (h : c.s.storageWf = true) (n : Nat) (d : KReg) : Run.Ends (c.cbopen n d) := by
  unfold Iss.cbopen
  refine Run.all_ite.mpr ⟨fun _ => h, fun _ => Iss.ends_sealing h fun c hc => ?_⟩
  dsimp only
  rw [Run.all_ok]
  split <;> exact hc

@[simp] theorem Iss.ends_cbpush {c : Iss} (h : c.s.storageWf = true) (n bodies : Nat) (d : PReg) (a b : VReg) :
    Run.Ends (c.cbpush n bodies d a b) := by
  refine Run.all_bind (c.g.quiet_loc _) fun la _ => Run.all_bind (c.g.quiet_locRun _ _) fun lb _ => ?_
  refine Run.all_ite.mpr ⟨fun _ => h, fun _ => Run.all_ite.mpr ⟨fun _ => trivial, fun _ => ?_⟩⟩
  exact Iss.ends_sealing h fun c hc => hc

@[simp] theorem Iss.ends_cbpull {c : Iss} (h : c.s.storageWf = true) (n : Nat) (d : VReg) (b : KReg) (p : PReg) :
    Run.Ends (c.cbpull n d b p) := by
  refine Run.all_bind (c.g.quiet_loc _) fun ld _ => ?_
  refine Run.all_ite.mpr ⟨fun _ => h, fun _ => Run.all_ite.mpr ⟨fun _ => trivial, fun _ => ?_⟩⟩
  refine Iss.ends_sealing h fun c hc => ?_
  dsimp only
  rw [Run.all_ok]
  split <;> exact hc

@[simp] theorem Iss.ends_cbdone {c : Iss} (h : c.s.storageWf = true) (n : Nat) (d a : KReg) : Run.Ends (c.cbdone n d a) := by
  unfold Iss.cbdone
  refine Run.all_ite.mpr ⟨fun _ => h, fun _ => Run.all_ite.mpr ⟨fun _ => trivial, fun _ => ?_⟩⟩
  exact Iss.ends_sealing h fun c hc => hc

@[simp] theorem Iss.ends_cbflush {c : Iss} (h : c.s.storageWf = true) (n : Nat) (close : Bool) (d : KReg) :
    Run.Ends (c.cbflush n close d) := by
  unfold Iss.cbflush
  refine Run.all_ite.mpr ⟨fun _ => h, fun _ => Run.all_ite.mpr ⟨fun _ => trivial, fun _ => ?_⟩⟩
  exact Iss.ends_sealing h fun c hc => hc

end Sys2Proof.Machine
end

section
/-! Proofs/TileKeeps: tiles, surrender, seals and copies keep the storage canonical (12_polder R310 to R334). -/

namespace Sys2Proof.Machine

/-! Handover and release. -/

@[simp] theorem State.storageWf_updTeamIn {s : State} (h : s.storageWf = true) (k : Nat) (f : Team → Team) :
    (s.updTeamIn k f).storageWf = true := by
  unfold State.updTeamIn
  split <;> simp [h]

@[simp] theorem State.storageWf_mailbox {s : State} (h : s.storageWf = true) (r : TileReq) (outcome len : Nat)
    (handle : Nat) (va : Nat) (summary : List Byte) : (s.mailbox r outcome len handle va summary).storageWf = true := by
  simp [State.mailbox, h]

@[simp] theorem State.storageWf_handover {s : State} (h : s.storageWf = true) (t : Nat) (sum : Nat × Nat) :
    (s.handover t sum).storageWf = true := by
  unfold State.handover
  split
  · simp [h]
  · split <;> simp [h]

@[simp] theorem State.storageWf_settleTile {s : State} (h : s.storageWf = true) (t : Nat) : (s.settleTile t).storageWf = true := by
  unfold State.settleTile
  split
  · simp [h]
  · split <;> simp [h]

@[simp] theorem State.storageWf_releaseDone {s : State} (h : s.storageWf = true) (id gid t : Nat) (sum : Option (Nat × Nat)) :
    (s.releaseDone id gid t sum).storageWf = true := by
  unfold State.releaseDone
  split
  · simp [h]
  · split <;> simp [h]

@[simp] theorem State.storageWf_routineOver {s : State} (h : s.storageWf = true) (t : Nat) :
    (s.routineOver t).storageWf = true := by
  unfold State.routineOver
  split <;> simp [h]

@[simp] theorem State.storageWf_handoverDone {s : State} (h : s.storageWf = true) (id gid t : Nat) (sum : Nat × Nat)
    (overrun : Bool) : (s.handoverDone id gid t sum overrun).storageWf = true := by
  have hs : ((({ s with sweeps := s.sweeps.del id } : State).routineOver t).handover t sum).storageWf = true := by
    simp [h]
  unfold State.handoverDone
  split
  · exact h
  · dsimp only
    generalize (({ s with sweeps := s.sweeps.del id } : State).routineOver t).handover t sum = u at hs ⊢
    split
    · exact hs
    · split
      · exact hs
      · split <;> simp [hs]

@[simp] theorem State.storageWf_sweepTile {s : State} (h : s.storageWf = true) (gid t : Nat) (sum : Option (Nat × Nat)) :
    (s.sweepTile gid t sum).2.storageWf = true := h

@[simp] theorem State.storageWf_beginHandover {s : State} (h : s.storageWf = true) (gid t : Nat) (sum : Nat × Nat)
    (overrun : Bool) : (s.beginHandover gid t sum overrun).storageWf = true := h

@[simp] theorem State.storageWf_locksDropped {s : State} (h : s.storageWf = true) : s.locksDropped.storageWf = true := by
  refine storageWf_foldl _ (fun t a ht => ?_) _ _ h
  split
  · split <;> simp [ht]
  · split <;> simp [ht]
  · exact ht

@[simp] theorem Iss.storageWf_askTile {c : Iss} (h : c.s.storageWf = true) (t : Nat) (x : TileRec) (ka kb : DWord)
    (event : Nat) : (c.askTile t x ka kb event).2.storageWf = true := by
  unfold Iss.askTile
  split
  · exact h
  · split
    · exact h
    · exact h
    · exact h
    · split <;> exact h

@[simp] theorem State.storageWf_putPair {s : State} (h : s.storageWf = true) (gid : Nat) (d : KReg) (x y : DWord) :
    (s.putPair gid d x y).storageWf = true := h

@[simp] theorem Iss.ends_tileget {c : Iss} (h : c.s.storageWf = true) (m : TileMode) (d a b ev : KReg) :
    Run.Ends (c.tileget m d a b ev) := by
  unfold Iss.tileget
  refine Run.all_ite.mpr ⟨fun _ => h, fun _ => Run.all_bind_quiet (c.quiet_tileWords m _ _) fun _ => ?_⟩
  dsimp only
  split
  · refine Run.all_bind_quiet (c.s.quiet_byHandle _ _) fun _ => Run.all_bind_quiet (by simp) fun _ => ?_
    refine Iss.ends_sealing h fun c hc => Run.all_bind_quiet (c.s.quiet_byHandle _ _) fun x => ?_
    simp [hc]
  · refine Run.all_bind_quiet (by simp) fun _ => Iss.ends_sealing h fun c hc => ?_
    split <;> simp [hc]

@[simp] theorem Iss.ends_tileput {c : Iss} (h : c.s.storageWf = true) (a : KReg) : Run.Ends (c.tileput a) := by
  simp +contextual [Iss.tileput, h]

@[simp] theorem State.storageWf_commitFor {s : State} (h : s.storageWf = true) (gid : Nat) :
    (s.commitFor gid).storageWf = true := by
  unfold State.commitFor
  split <;> simp [h]

@[simp] theorem State.storageWf_routineRuns {s : State} (h : s.storageWf = true) (tile team gid : Nat) :
    (s.routineRuns tile team gid).storageWf = true := by
  unfold State.routineRuns
  split <;> simp [h]

/-! Surrender. -/

theorem keeps_execSurrenderEntry {s : State} (h : s.storageWf = true) (tile : Nat) : Keeps (execSurrenderEntry tile s) := by
  simp only [execSurrenderEntry, keeps_next]
  split
  · exact h
  · simp [h]
  · next x r i g _ =>
    split
    · have hc := State.storageWf_commitFor
        (s := ({ s with tiles := s.tiles.put tile { x with queue := s.liveReqs x.queue } } : State).setGroup i
          { g with cur := g.standing }) h i
      split <;> simp [hc]
    · simp [h]

@[simp] theorem State.storageWf_refuse {s : State} (h : s.storageWf = true) (t : Nat) : (s.refuse t).storageWf = true := by
  unfold State.refuse
  split
  · simp [h]
  · split
    · simp [h]
    · split <;> simp [h]

@[simp] theorem State.storageWf_surrOutcome {s : State} (h : s.storageWf = true) (gid : Nat) (f : HFrame) (refuse : Bool)
    (sum : Nat × Nat) : (s.surrOutcome gid f refuse sum).storageWf = true := by
  unfold State.surrOutcome
  split <;> simp [h]

theorem keeps_execSurrender {s : State} (h : s.storageWf = true) (o : SurrOut) (g : Guard) : Keeps (execSurrender o g s) := by
  refine keeps_issue h (fun c hc => ?_) _ _
  refine Run.all_ite.mpr ⟨fun _ => hc, fun _ => ?_⟩
  split
  · trivial
  · simp +contextual [hc]

theorem keeps_execSurrenderOverrun {s : State} (h : s.storageWf = true) (gid : Nat) : Keeps (execSurrenderOverrun gid s) := by
  unfold execSurrenderOverrun
  split
  · simp [h]
  · split
    · split <;> simp [h]
    · simp [h]

/-! Seals. -/

@[simp] theorem Iss.ends_seal_ {c : Iss} (h : c.s.storageWf = true) (a b : KReg) : Run.Ends (c.seal_ a b) := by
  simp +contextual [Iss.seal_, h]

theorem keeps_execSeal {s : State} (h : s.storageWf = true) (g : Guard) (a b : KReg) : Keeps (execSeal g a b s) := by
  refine keeps_issue h (fun c hc => ?_) _ _
  simp [hc]

@[simp] theorem Iss.storageWf_leaveAs {s : State} (h : s.storageWf = true) (c : Iss) (m : Mask) :
    (c.leaveAs s m).storageWf = true := by
  exact State.storageWf_reap ((State.storageWf_charge (s := s.updGroup _ _) _ _).trans h) _

theorem keeps_execUnseal {s : State} (h : s.storageWf = true) (g : Guard) (a : KReg) : Keeps (execUnseal g a s) := by
  refine keeps_issue h (fun c hc => ?_) _ _
  refine Run.all_bind_quiet (by simp) fun _ => Run.all_ite.mpr ⟨fun _ => hc, fun _ => ?_⟩
  refine Run.all_bind_quiet (c.quiet_sealAt a) fun ⟨t, x⟩ => ?_
  cases x with
  | none => exact hc
  | some x =>
    refine Run.all_fmap.mpr (Iss.ends_sealing hc fun c hc => ?_)
    dsimp only
    split <;> simp [hc]

theorem keeps_execDrop {s : State} (h : s.storageWf = true) (g : Guard) (a : KReg) : Keeps (execDrop g a s) := by
  refine keeps_issue h (fun c hc => ?_) _ _
  refine Run.all_ite.mpr ⟨fun _ => hc, fun _ => Run.all_bind_quiet (c.quiet_sealAt a) fun ⟨t, x⟩ => ?_⟩
  cases x <;> simp [hc]

theorem keeps_execTileget {s : State} (h : s.storageWf = true) (m : TileMode) (g : Guard) (d a b c : KReg) :
    Keeps (execTileget m g d a b c s) := by
  refine keeps_issue h (fun c hc => ?_) _ _
  simp [hc]

theorem keeps_execTileput {s : State} (h : s.storageWf = true) (g : Guard) (a : KReg) : Keeps (execTileput g a s) := by
  refine keeps_issue h (fun c hc => ?_) _ _
  simp [hc]

/-! The copy engine. -/

@[simp] theorem Iss.ends_copy {c : Iss} (h : c.s.storageWf = true) (m : CpyMod) (k : CopyKind) (desc : Option Desc)
    (raw : List DWord) : Run.Ends (c.copy m k desc raw) := by
  refine Run.all_ite.mpr ⟨fun _ => h, fun _ => Run.all_bind_quiet (c.quiet_copyCheck m k desc _ _) fun ⟨d, r⟩ => ?_⟩
  refine Run.all_bind_quiet (by simp) fun _ => Run.all_bind_quiet (by simp) fun _ => Iss.ends_sealing h fun c hc => ?_
  refine Run.all_bind_quiet (by simp) fun g => ?_
  have hv := State.storageWf_visible hc g.core c.gid m.scope
  cases r.tile <;> simp [hv]

@[simp] theorem Iss.ends_copyReg {c : Iss} (h : c.s.storageWf = true) (m : CpyMod) (k : CopyKind) : Run.Ends (c.copyReg m k) := by
  simp [Iss.copyReg, h]

@[simp] theorem State.keepsOk_copyMove {s : State} (h : s.storageWf = true) (c : Copy) (m : Move) : KeepsOk (s.copyMove c m) := by
  simp only [State.copyMove, keepsOk_bind, keepsOk_ite]
  refine fun dst _ => ⟨fun _ _ ht => (nomatch ht), fun _ => ?_⟩
  have hp (bs : List (Place × Byte)) : (s.putBytes c.core bs).storageWf = true := State.storageWf_putBytes h _ _
  cases m.src <;> simp [hp]

@[simp] theorem State.storageWf_copyRun {s : State} (h : s.storageWf = true) (c : Copy) (y0 : List Move) :
    (s.copyRun c y0).1.storageWf = true := by
  induction y0 generalizing s with
  | nil => exact h
  | cons m l ih =>
    unfold State.copyRun
    split
    · exact h
    · next t ht => exact ih (State.keepsOk_copyMove h c m t ht)

@[simp] theorem State.storageWf_copyVisible {s : State} (h : s.storageWf = true) (c : Copy) :
    (s.copyVisible c).storageWf = true := by
  simp only [State.copyVisible]
  split
  · exact State.storageWf_writeHome (State.storageWf_settleIn h _)
  · exact State.storageWf_settleIn h _

@[simp] theorem State.storageWf_refillAll {s : State} (h : s.storageWf = true) : s.refillAll.storageWf = true := by
  refine storageWf_foldl _ (fun t a ht => ?_) _ _ h
  split <;> simp [ht]

@[simp] theorem State.storageWf_copyOver {s : State} (h : s.storageWf = true) (id : Nat) (c : Copy) :
    (s.copyOver id c).storageWf = true := by
  simp [State.copyOver, h]

@[simp] theorem State.storageWf_copyFault {s : State} (h : s.storageWf = true) (c : Copy) (bytes : Nat) :
    (s.copyFault c bytes).storageWf = true := by
  unfold State.copyFault
  split
  · split <;> simp [h]
  · simp [h]

theorem keeps_execCopyComplete {s : State} (h : s.storageWf = true) (id : Nat) : Keeps (execCopyComplete id s) := by
  simp only [execCopyComplete, keeps_next]
  split
  · exact h
  · next c _ =>
    have hr := State.storageWf_copyRun h c ((c.moves.drop c.done).take c.chunk)
    generalize s.copyRun c ((c.moves.drop c.done).take c.chunk) = r at hr ⊢
    split
    · exact h
    · split
      · split
        · exact State.storageWf_fireEvent (State.storageWf_copyOver (State.storageWf_copyVisible hr _) _ _) _ _
        · exact hr
      · split <;> exact hr

theorem keeps_execCopyResume {s : State} (h : s.storageWf = true) (id : Nat) : Keeps (execCopyResume id s) := by
  unfold execCopyResume
  split
  · simp [h]
  · split <;> simp [h]

theorem keeps_execCopyAbort {s : State} (h : s.storageWf = true) (id done : Nat) (_cause : Cause) :
    Keeps (execCopyAbort id done _cause s) := by
  simp only [execCopyAbort, keeps_next]
  split
  · exact h
  · split
    · exact h
    · exact State.storageWf_copyFault (State.storageWf_copyOver (State.storageWf_copyRun h _ _) _ _) _ _

/-! The end of a sweep. -/

@[simp] theorem State.storageWf_drainRange {s : State} (h : s.storageWf = true) (ctx : Nat) (r : PlaceRange) :
    (s.drainRange ctx r).storageWf = true := by
  refine storageWf_foldl _ (fun t x ht => ?_) _ _ h
  exact storageWf_foldl _ (fun u w hu => State.storageWf_drainLine hu _ _) _ _ ht

theorem keeps_execSweepComplete {s : State} (h : s.storageWf = true) (id : Nat) : Keeps (execSweepComplete id s) := by
  simp only [execSweepComplete, keeps_next]
  split
  · exact h
  · exact h
  · simp [h]
  · simp [h]
  · split
    · exact h
    · exact storageWf_foldl _ (fun t r ht => State.storageWf_drainRange ht _ r) _ _ h

theorem keeps_execCpy {s : State} (h : s.storageWf = true) (m : CpyMod) : Keeps (execCpy m s) := by
  refine keeps_issue h (fun c hc => ?_) _ _
  simp [hc]

theorem keeps_execCpyL96 {s : State} (h : s.storageWf = true) (m : CpyMod) (len : Word) : Keeps (execCpyL96 m len s) := by
  refine keeps_issue h (fun c hc => ?_) _ _
  simp [hc]

theorem keeps_execCpym {s : State} (h : s.storageWf = true) (m : CpyMod) (km : KReg) : Keeps (execCpym m km s) := by
  refine keeps_issue h (fun c hc => ?_) _ _
  simp [hc]

theorem keeps_execCpyg {s : State} (h : s.storageWf = true) (m : CpyMod) (km : KReg) : Keeps (execCpyg m km s) := by
  refine keeps_issue h (fun c hc => ?_) _ _
  simp [hc]

end Sys2Proof.Machine
end

section
/-! Proofs/MemoryOps: the memory, transfer and batcher instructions keep the storage canonical. -/

namespace Sys2Proof.Machine

theorem keeps_execLd {s : State} (h : s.storageWf = true) (m : MemMod) (g : Guard) (d : VReg) (ad : Addr) :
    Keeps (execLd m g d ad s) := by
  refine keeps_issue h (fun c hc => ?_) _ _
  simp [hc]

theorem keeps_execLdL96 {s : State} (h : s.storageWf = true) (m : MemMod) (g : Guard) (d : VReg) (ad : AddrL) :
    Keeps (execLdL96 m g d ad s) := by
  refine keeps_issue h (fun c hc => ?_) _ _
  simp [hc]

theorem keeps_execSt {s : State} (h : s.storageWf = true) (m : MemMod) (fl : SFlags) (g : Guard) (d : VReg) (ad : Addr) :
    Keeps (execSt m fl g d ad s) := by
  refine keeps_issue h (fun c hc => ?_) _ _
  simp [hc]

theorem keeps_execStL96 {s : State} (h : s.storageWf = true) (m : MemMod) (fl : SFlags) (g : Guard) (d : VReg) (ad : AddrL) :
    Keeps (execStL96 m fl g d ad s) := by
  refine keeps_issue h (fun c hc => ?_) _ _
  simp [hc]

theorem keeps_execKld {s : State} (h : s.storageWf = true) (m : MemMod) (g : Guard) (d a b : KReg) (disp : BitVec 8) :
    Keeps (execKld m g d a b disp s) := by
  refine keeps_issue h (fun c hc => ?_) _ _
  simp [hc]

theorem keeps_execKldL96 {s : State} (h : s.storageWf = true) (m : MemMod) (g : Guard) (d a b : KReg) (lit : Word) :
    Keeps (execKldL96 m g d a b lit s) := by
  refine keeps_issue h (fun c hc => ?_) _ _
  simp [hc]

theorem keeps_execLdx {s : State} (h : s.storageWf = true) (m : MemMod) (g : Guard) (d : VReg) (ad : Addr) :
    Keeps (execLdx m g d ad s) := by
  refine keeps_issue h (fun c hc => ?_) _ _
  simp [hc]

theorem keeps_execStx {s : State} (h : s.storageWf = true) (m : MemMod) (fl : SFlags) (g : Guard) (d : VReg) (ad : Addr) :
    Keeps (execStx m fl g d ad s) := by
  refine keeps_issue h (fun c hc => ?_) _ _
  simp [hc]

theorem keeps_execXchg {s : State} (h : s.storageWf = true) (m : MemMod) (g : Guard) (d : VReg) (ad : Addr) :
    Keeps (execXchg m g d ad s) := by
  refine keeps_issue h (fun c hc => ?_) _ _
  simp [hc]

theorem keeps_execPref {s : State} (h : s.storageWf = true) (pc : Bool) (space : GSpace) (fl : SFlags) (g : Guard) (ad : Addr) :
    Keeps (execPref pc space fl g ad s) := by
  refine keeps_issue h (fun c hc => ?_) _ _
  simp [hc]

theorem keeps_execFence {s : State} (h : s.storageWf = true) (kind : FenceKind) (scope : Scope) (g : Guard) :
    Keeps (execFence kind scope g s) := by
  refine keeps_issue h (fun c hc => ?_) _ _
  split <;> simp [hc, State.storageWf_release]

theorem keeps_execAtom {s : State} (h : s.storageWf = true) (op : AOp) (m : AMod) (g : Guard) (d : VReg) (a b : Src) :
    Keeps (execAtom op m g d a b s) := by
  refine keeps_issue h (fun c hc => ?_) _ _
  simp [hc]

theorem keeps_execAtomcas {s : State} (h : s.storageWf = true) (m : AMod) (g : Guard) (d : VReg) (a b : Src) :
    Keeps (execAtomcas m g d a b s) := by
  refine keeps_issue h (fun c hc => ?_) _ _
  simp [hc]

theorem keeps_execRed {s : State} (h : s.storageWf = true) (op : AOp) (m : AMod) (fl : SFlags) (g : Guard) (a b : Src) :
    Keeps (execRed op m fl g a b s) := by
  refine keeps_issue h (fun c hc => ?_) _ _
  simp [hc]

theorem keeps_execRedL96 {s : State} (h : s.storageWf = true) (op : AOp) (m : AMod) (fl : SFlags) (g : Guard) (a : Src)
    (lit : Word) : Keeps (execRedL96 op m fl g a lit s) := by
  refine keeps_issue h (fun c hc => ?_) _ _
  simp [hc]

theorem keeps_execEnq {s : State} (h : s.storageWf = true) (space : GSpace) (scope : Scope) (g : Guard) (pc : PReg)
    (a : KReg) (d : VReg) : Keeps (execEnq space scope g pc a d s) := by
  refine keeps_issue h (fun c hc => ?_) _ _
  simp [hc]

theorem keeps_execDeq {s : State} (h : s.storageWf = true) (space : GSpace) (scope : Scope) (g : Guard) (pc : PReg)
    (a : KReg) (d : VReg) : Keeps (execDeq space scope g pc a d s) := by
  refine keeps_issue h (fun c hc => ?_) _ _
  simp [hc]

@[simp] theorem Iss.storageWf_waitGrow {c : Iss} (h : c.s.storageWf = true) (n : Nat) : (c.waitGrow n).storageWf = true := h

@[simp] theorem Iss.ends_branch {c : Iss} (h : c.s.storageWf = true) (off : Word) (unif : Bool) :
    Run.Ends (c.branch off unif) := by
  simp [Iss.branch, h]

theorem keeps_execBra {s : State} (h : s.storageWf = true) (g : Guard) (off : Word) : Keeps (execBra g off s) := by
  refine keeps_issue h (fun c hc => ?_) _ _
  simp [hc]

theorem keeps_execBru {s : State} (h : s.storageWf = true) (g : Guard) (off : Word) : Keeps (execBru g off s) := by
  refine keeps_issue h (fun c hc => ?_) _ _
  simp [hc]

theorem keeps_execBrx {s : State} (h : s.storageWf = true) (g : Guard) (t : Src) : Keeps (execBrx g t s) := by
  refine keeps_issue h (fun c hc => ?_) _ _
  simp [hc]

theorem keeps_execCall {s : State} (h : s.storageWf = true) (g : Guard) (d : VReg) (off : Word) : Keeps (execCall g d off s) := by
  refine keeps_issue h (fun c hc => ?_) _ _
  simp [hc]

theorem keeps_execCalli {s : State} (h : s.storageWf = true) (g : Guard) (d : VReg) (t : Src) : Keeps (execCalli g d t s) := by
  refine keeps_issue h (fun c hc => ?_) _ _
  simp [hc]

theorem keeps_execRet {s : State} (h : s.storageWf = true) (a : VReg) : Keeps (execRet a s) := by
  refine keeps_issue h (fun c hc => ?_) _ _
  simp [hc]

theorem keeps_execCbopen {s : State} (h : s.storageWf = true) (n : BitVec 3) (g : Guard) (d : KReg) :
    Keeps (execCbopen n g d s) := by
  refine keeps_issue h (fun c hc => ?_) _ _
  simp [hc]

theorem keeps_execCbpush {s : State} (h : s.storageWf = true) (n : BitVec 3) (bodies : BitVec 2) (g : Guard) (d : PReg)
    (a b : VReg) : Keeps (execCbpush n bodies g d a b s) := by
  refine keeps_issue h (fun c hc => ?_) _ _
  simp [hc]

theorem keeps_execCbpull {s : State} (h : s.storageWf = true) (n : BitVec 3) (g : Guard) (d : VReg) (b : KReg) (p : PReg) :
    Keeps (execCbpull n g d b p s) := by
  refine keeps_issue h (fun c hc => ?_) _ _
  simp [hc]

theorem keeps_execCbdone {s : State} (h : s.storageWf = true) (n : BitVec 3) (g : Guard) (d a : KReg) :
    Keeps (execCbdone n g d a s) := by
  refine keeps_issue h (fun c hc => ?_) _ _
  simp [hc]

theorem keeps_execCbflush {s : State} (h : s.storageWf = true) (n : BitVec 3) (close : Bool) (g : Guard) (d : KReg) :
    Keeps (execCbflush n close g d s) := by
  refine keeps_issue h (fun c hc => ?_) _ _
  simp [hc]

end Sys2Proof.Machine
end

section
/-! Proofs/HistoryKeeps: the history and system instructions keep the storage canonical (09_history R241 to R263, 17_traps R399
to R406). -/

namespace Sys2Proof.Machine

@[simp] theorem State.storageWf_joinScores {s : State} (h : s.storageWf = true) (gid k r : Nat) :
    (s.joinScores gid k r).storageWf = true := h

/-! Undoing and landing. -/

@[simp] theorem State.storageWf_revStore {s : State} (h : s.storageWf = true) (gid : Nat) (g : Group) (sz : Size)
    (sp : Space) (p : MemPre) : (s.revStore gid g sz sp p).storageWf = true := by
  unfold State.revStore
  split
  · have hp := State.storageWf_pointPut h g.core gid sp
    dsimp only
    split
    · exact hp _
    · exact State.storageWf_publish (hp _) _
  · exact h

@[simp] theorem State.keepsSome_undo {s : State} (h : s.storageWf = true) (gid : Nat) (inner : Bool) (e : HEntry) :
    KeepsSome (s.undo gid inner e) := by
  unfold State.undo
  split
  · simp
  · next g _ =>
    have hput (g : Group) : KeepsSome (some (s.setGroup gid g)) := keepsSome_some.mpr h
    dsimp only
    split
    · exact hput _
    · exact hput _
    · exact hput _
    · exact keepsSome_some.mpr (storageWf_foldl _ (fun t p ht => State.storageWf_revStore ht _ _ _ _ p) _ _ h)
    · exact keepsSome_some.mpr h
    · exact hput _
    · exact hput _
    · split <;> exact hput _
    · split
      · split
        · exact hput _
        · exact keepsSome_none
      · exact keepsSome_none
    · split
      · exact hput _
      · exact keepsSome_none
    · exact hput _
    · split
      · exact hput _
      · exact keepsSome_none
    · exact hput _
    · exact hput _
    · exact hput _
    · exact hput _

@[simp] theorem State.keepsSome_undoAll {s : State} (h : s.storageWf = true) (gid : Nat) (y0 : Nat) (y1 : List HEntry) :
    KeepsSome (s.undoAll gid y0 y1) := by
  induction y1 generalizing s y0 with
  | nil => simpa [State.undoAll] using h
  | cons e l ih =>
    have hu (inner : Bool) : KeepsSome (if (s.groups.get gid).any (·.below e) then some s else s.undo gid inner e) := by
      simp [h]
    unfold State.undoAll
    dsimp only
    split
    · next t ht => exact ih (s := t.updGroup gid _) (hu _ t ht) _
    · simp

@[simp] theorem State.storageWf_land {s : State} (h : s.storageWf = true) (gid : Nat) : (s.land gid).storageWf = true := by
  unfold State.land
  split
  · exact h
  · split
    · exact h
    · dsimp only
      split <;> split <;> exact h

@[simp] theorem State.storageWf_begin {s : State} (h : s.storageWf = true) (gid : Nat) (r : Rev) :
    (s.begin gid r).storageWf = true := by
  unfold State.begin
  split
  · exact h
  · next g _ =>
    have hw (g : Group) : (s.writeHome.setGroup gid g).storageWf = true := h
    dsimp only
    split
    · exact State.storageWf_land (hw _) gid
    · exact hw _

/-! The history instructions. -/

theorem keeps_execCommit {s : State} (h : s.storageWf = true) : Keeps (execCommit s) := by
  refine keeps_issue h (fun c hc => ?_) _ _
  simp [hc]

theorem keeps_execReverse {s : State} (h : s.storageWf = true) (g : Guard) (d : PReg) (a b : KReg) :
    Keeps (execReverse g d a b s) := by
  refine keeps_issue h (fun c hc => ?_) _ _
  refine Run.all_ite.mpr ⟨fun _ => hc, fun _ => ?_⟩
  dsimp only
  split
  · exact hc
  · split
    · trivial
    · exact State.storageWf_begin (State.storageWf_release hc _ _ _) _ _

theorem keeps_execGrade {s : State} (h : s.storageWf = true) (g : Guard) (gr : Grade) : Keeps (execGrade g gr s) := by
  refine keeps_issue h (fun c hc => ?_) _ _
  simp [hc]

/-! Row F. -/

@[simp] theorem State.storageWf_queueGrid {s : State} (h : s.storageWf = true) (ctx : Nat) (l : LaunchRec)
    (aux : List DWord) (join : Option DWord) (parent : Option Nat) (last ltrHead : Nat) :
    (s.queueGrid ctx l aux join parent last ltrHead).2.2.storageWf = true := h

@[simp] theorem Iss.ends_trap {c : Iss} (h : c.s.storageWf = true) (d a : KReg) (code : Byte) : Run.Ends (c.trap d a code) := by
  refine Run.all_ite.mpr ⟨fun _ => h, fun _ => Run.all_bind (State.all_commit h c.gid) fun t ht => ?_⟩
  split
  · exact ht
  · exact State.storageWf_toBerm ht _ _ _ _ _ _ _ _ _ _

@[simp] theorem Iss.canon_returned {c : Iss} (h : c.s.storageWf = true) (g : Group) (count : Bool) :
    (c.returned g count).Canon := h

@[simp] theorem Iss.ends_eret {c : Iss} (h : c.s.storageWf = true) : Run.Ends (c.eret) := by
  refine Run.all_ite.mpr ⟨fun _ => h, fun _ => Run.all_bind_quiet c.quiet_frame fun f => ?_⟩
  cases f.kind <;> simp [h]

@[simp] theorem Iss.ends_eretSkip {c : Iss} (h : c.s.storageWf = true) : Run.Ends (c.eretSkip) := by
  refine Run.all_ite.mpr ⟨fun _ => by simp, fun _ => Run.all_bind_quiet c.quiet_frame fun f => ?_⟩
  cases f.kind <;> simp [h]

@[simp] theorem Iss.ends_emuretTo {c : Iss} (h : c.s.storageWf = true) (f : HFrame) (count : Bool) :
    Run.Ends (c.emuretTo f count) := by
  simp [Iss.emuretTo, h]

@[simp] theorem Iss.ends_emuret {c : Iss} (h : c.s.storageWf = true) : Run.Ends (c.emuret) := by
  refine Run.all_ite.mpr ⟨fun _ => by simp, fun _ => Run.all_bind_quiet c.quiet_frame fun f => ?_⟩
  simp [h]

@[simp] theorem Iss.ends_emuretRetry {c : Iss} (h : c.s.storageWf = true) : Run.Ends (c.emuretRetry) := by
  refine Run.all_ite.mpr ⟨fun _ => by simp, fun _ => Run.all_bind_quiet c.quiet_frame fun f => ?_⟩
  simp only [Run.all_ite, Run.all_wrongReturn, Run.all_raise, implies_true, true_and, Run.all_pure, Iss.canon_returned, h]
  refine fun _ _ _ => Run.all_bind_quiet (c.s.quiet_isHeader _ _) fun b => Run.all_ite.mpr ⟨fun _ => ?_, fun _ => ?_⟩
  · simp [h]
  · split <;> simp [h]

@[simp] theorem Iss.canon_bkpt {c : Iss} (h : c.s.storageWf = true) (tag : Byte) : (c.bkpt tag).Canon := by
  unfold Iss.bkpt
  split <;> simp [h]

@[simp] theorem State.keepsSome_editGroup {s : State} (h : s.storageWf = true) (gid : Nat) (g : Group) (sel x : DWord) :
    KeepsSome (s.editGroup gid g sel x) := by
  unfold State.editGroup
  dsimp only
  split
  · simp
  · split <;> simp [h]

@[simp] theorem Iss.ends_mfg {c : Iss} (h : c.s.storageWf = true) (d a b : KReg) : Run.Ends (c.mfg d a b) := by
  unfold Iss.mfg
  split
  · simp [h]
  · split
    · simp [h]
    · split <;> simp [h]

@[simp] theorem State.storageWf_answer {s : State} (h : s.storageWf = true) (gid : Nat) (d : KReg) (status : Nat) :
    (s.answer gid d status).storageWf = true := h

@[simp] theorem Iss.ends_mtg {c : Iss} (h : c.s.storageWf = true) (d a b : KReg) : Run.Ends (c.mtg d a b) := by
  refine Run.all_bind_quiet c.quiet_mayEdit fun _ => Run.all_ite.mpr ⟨fun _ => h, fun _ => ?_⟩
  dsimp only
  split
  · exact Iss.ends_sealing h fun c hc => hc
  · next i t _ =>
    refine Run.all_bind_quiet (by simp) fun _ => Iss.ends_sealing h fun c hc => ?_
    have he (sel x : DWord) : KeepsSome ((c.s.groups.get i).bind (fun t => c.s.editGroup i t sel x)) :=
      keepsSome_bind.mpr fun t _ => State.keepsSome_editGroup hc _ _ _ _
    rw [Run.all_ok]
    split
    · next u hu => exact he _ _ u hu
    · exact hc

@[simp] theorem State.storageWf_orderRev {s : State} (h : s.storageWf = true) (i : Nat) (t : Group) (r : Rev) :
    (s.orderRev i t r).storageWf = true := by
  unfold State.orderRev
  split
  · exact State.storageWf_begin (State.storageWf_release h _ _ _) _ _
  · exact h

@[simp] theorem Iss.ends_revg {c : Iss} (h : c.s.storageWf = true) (d a b kc : KReg) : Run.Ends (c.revg d a b kc) := by
  refine Run.all_bind_quiet c.quiet_mayEdit fun _ => Run.all_ite.mpr ⟨fun _ => h, fun _ => ?_⟩
  dsimp only
  split
  · exact Iss.ends_sealing h fun c hc => hc
  · refine Run.all_bind_quiet (by simp) fun _ => Run.all_ite.mpr ⟨fun _ => Iss.ends_sealing h fun c hc => hc, fun _ => ?_⟩
    split
    · exact Iss.ends_sealing h fun c hc => hc
    · exact Iss.ends_sealing h fun c hc => State.storageWf_orderRev (s := c.s.updGroup c.gid _) hc _ _ _

@[simp] theorem State.storageWf_launch {s : State} (h : s.storageWf = true) (ctx ring : Nat) (a : DWord) (l : LaunchRec)
    (aux : List DWord) (join : Option DWord) : (s.launch ctx ring a l aux join).2.storageWf = true := by
  unfold State.launch
  dsimp only
  split
  · simp [h]
  · split <;> simp [h]

@[simp] theorem Iss.ends_launch {c : Iss} (h : c.s.storageWf = true) (d a b kc : KReg) : Run.Ends (c.launch d a b kc) := by
  refine Run.all_bind_quiet (by simp) fun _ => Run.all_ite.mpr ⟨fun _ => h, fun _ => ?_⟩
  refine Run.all_ite.mpr ⟨fun _ => Iss.ends_sealing h fun c hc => hc, fun _ => ?_⟩
  refine Run.all_ite.mpr ⟨fun _ => Iss.ends_sealing h fun c hc => hc, fun _ => ?_⟩
  refine Run.all_ite.mpr ⟨fun _ => Iss.ends_sealing h fun c hc => hc, fun _ => ?_⟩
  split
  · trivial
  · refine Iss.ends_sealing h fun c hc => ?_
    split
    · trivial
    · exact State.storageWf_launch hc _ _ _ _ _ _

theorem keeps_execTrap {s : State} (h : s.storageWf = true) (g : Guard) (d a : KReg) (code : Byte) :
    Keeps (execTrap g d a code s) := by
  refine keeps_issue h (fun c hc => ?_) _ _
  simp [hc]

theorem keeps_execEret {s : State} (h : s.storageWf = true) : Keeps (execEret s) := by
  have hi : Keeps (issue 1 always s (fun c => c.eret)) := keeps_issue h (fun c hc => Iss.ends_eret hc) _ _
  unfold execEret
  split
  · next t g _ _ ht _ =>
    have ht : t.storageWf = true := hi t ht
    split
    · split
      · exact keeps_next.mpr ht
      · exact keeps_next.mpr ht
    · exact keeps_next.mpr ht
  · exact hi

theorem keeps_execEretSkip {s : State} (h : s.storageWf = true) : Keeps (execEretSkip s) := by
  refine keeps_issue h (fun c hc => ?_) _ _
  simp [hc]

theorem keeps_execEmuret {s : State} (h : s.storageWf = true) : Keeps (execEmuret s) := by
  refine keeps_issue h (fun c hc => ?_) _ _
  simp [hc]

theorem keeps_execEmuretRetry {s : State} (h : s.storageWf = true) : Keeps (execEmuretRetry s) := by
  refine keeps_issue h (fun c hc => ?_) _ _
  simp [hc]

theorem keeps_execBkpt {s : State} (h : s.storageWf = true) (tag : Byte) : Keeps (execBkpt tag s) := by
  refine keeps_issue h (fun c hc => ?_) _ _
  simp [hc]

theorem keeps_execMfg {s : State} (h : s.storageWf = true) (g : Guard) (d a b : KReg) : Keeps (execMfg g d a b s) := by
  refine keeps_issue h (fun c hc => ?_) _ _
  simp [hc]

theorem keeps_execMtg {s : State} (h : s.storageWf = true) (g : Guard) (d a b : KReg) : Keeps (execMtg g d a b s) := by
  refine keeps_issue h (fun c hc => ?_) _ _
  simp [hc]

theorem keeps_execRevg {s : State} (h : s.storageWf = true) (g : Guard) (d a b c : KReg) : Keeps (execRevg g d a b c s) := by
  refine keeps_issue h (fun c hc => ?_) _ _
  simp [hc]

theorem keeps_execLaunch {s : State} (h : s.storageWf = true) (g : Guard) (d a b c : KReg) : Keeps (execLaunch g d a b c s) := by
  refine keeps_issue h (fun c hc => ?_) _ _
  simp [hc]

theorem keeps_execEmulationEntry {s : State} (h : s.storageWf = true) (cause : Cause) (p0 p1 p2 : Word) :
    Keeps (execEmulationEntry cause p0 p1 p2 s) := by
  unfold execEmulationEntry
  split
  · exact keeps_fault _
  · split <;> simp [h]

end Sys2Proof.Machine
end

section
/-! Proofs/TaskKeeps: tasks, events, messages, the start and end of teams and grids, and fault replay keep the storage canonical
(14_task_engine, 16_engines, 17_traps R395). -/

namespace Sys2Proof.Machine

/-! Task instructions. -/

@[simp] theorem Iss.ends_waiting {c : Iss} (h : c.s.storageWf = true) (wait : Bool) (rs : List Rec)
    {put : State → List Rec → State} {other : State → State} (hp : ∀ t rs, t.storageWf = true → (put t rs).storageWf = true)
    (ho : ∀ t, t.storageWf = true → (other t).storageWf = true) : Run.Ends (c.waiting wait rs put other) := by
  refine Run.all_fmap.mpr (Iss.ends_sealing h fun c hc => ?_)
  cases wait
  · exact ho _ hc
  · exact Iss.storageWf_leaveAs (hp _ rs hc) c c.ex

@[simp] theorem State.storageWf_holdSpawn {s : State} (h : s.storageWf = true) (gid ctx : Nat) :
    (s.holdSpawn gid ctx).storageWf = true := by
  unfold State.holdSpawn
  split <;> simp [h]

@[simp] theorem Iss.ends_spawn {c : Iss} (h : c.s.storageWf = true) (bind : Bind) (d : PReg) (target : CAddr) (b : VReg)
    (n : Nat) : Run.Ends (c.spawn bind d target b n) := by
  refine Run.all_bind_quiet (by simp) fun _ => Run.all_ite.mpr ⟨fun _ => h, fun _ => ?_⟩
  refine Run.all_bind_quiet (by simp) fun _ => Run.all_bind_quiet (by simp) fun _ => Run.all_bind_quiet (by simp) fun _ => ?_
  refine Iss.ends_sealing h fun c hc => ?_
  exact State.storageWf_makeReady (State.storageWf_holdSpawn (s := c.s.updGroup c.gid _) hc _ _) _ _

@[simp] theorem State.storageWf_newEvent {s : State} (h : s.storageWf = true) (ctx : Nat) :
    (s.newEvent ctx).2.storageWf = true := by
  unfold State.newEvent
  split <;> simp [h]

@[simp] theorem State.storageWf_freeEvent {s : State} (h : s.storageWf = true) (ctx n : Nat) :
    (s.freeEvent ctx n).2.storageWf = true := by
  unfold State.freeEvent
  split
  · simp [h]
  · split <;> simp [h]

@[simp] theorem State.storageWf_addWaiters {s : State} (h : s.storageWf = true) (ctx n : Nat) (rs : List Rec) :
    (s.addWaiters ctx n rs).storageWf = true := h

@[simp] theorem State.storageWf_waitTask {s : State} (h : s.storageWf = true) (core ctx : Nat) (ps : List Place)
    (rs : List Rec) : (s.waitTask core ctx ps rs).storageWf = true := by
  unfold State.waitTask
  dsimp only
  split <;> simp [h, State.storageWf_putBytes]

@[simp] theorem Iss.storageWf_released {c : Iss} (h : c.s.storageWf = true) (ps : List Place) :
    (c.released ps).storageWf = true := by
  simp [Iss.released, h, State.storageWf_release]

@[simp] theorem State.storageWf_decTask {s : State} (h : s.storageWf = true) (core ctx : Nat) (ps : List Place) :
    (s.decTask core ctx ps).1.storageWf = true := by
  have hp := State.storageWf_putBytes h core
  simp only [State.decTask]
  split
  · exact h
  · split
    · split
      · exact hp _
      · refine State.storageWf_makeReady ?_ _ _
        rw [State.storageWf_updCtx]
        exact State.storageWf_putBytes (hp _) core _
    · exact hp _

@[simp] theorem State.storageWf_decAll {s : State} (h : s.storageWf = true) (core ctx : Nat) (y0 : List Acc) :
    (s.decAll core ctx y0).1.storageWf = true := by
  induction y0 generalizing s with
  | nil => exact h
  | cons a l ih => exact ih (State.storageWf_decTask h _ _ _)

@[simp] theorem Iss.ends_cntdec {c : Iss} (h : c.s.storageWf = true) (sp : Space) (d : PReg) (a : Src) :
    Run.Ends (c.cntdec sp d a) := by
  refine Run.all_bind_quiet (by simp) fun addr => Run.all_ite.mpr ⟨fun _ => h, fun _ => ?_⟩
  refine Run.all_bind_quiet (by simp) fun _ => Run.all_bind_quiet (by simp) fun _ => Run.all_bind_quiet (by simp) fun _ => ?_
  refine Iss.ends_sealing h fun c hc => ?_
  exact State.storageWf_decAll (State.storageWf_toHome hc _ _) _ _ _

@[simp] theorem Iss.ends_evwait {c : Iss} (h : c.s.storageWf = true) (cnt : Bool) (bind : Bind) (a : KReg) (b : VReg)
    (n : Nat) : Run.Ends (c.evwait cnt bind a b n) := by
  simp +contextual [Iss.evwait, h]

@[simp] theorem Iss.ends_bar {c : Iss} (h : c.s.storageWf = true) : Run.Ends (c.bar) := by
  simp [Iss.bar, h]

@[simp] theorem Iss.ends_grow {c : Iss} (h : c.s.storageWf = true) (d : PReg) (n : Nat) : Run.Ends (c.grow d n) := by
  unfold Iss.grow
  split
  · simp [h]
  · split <;> simp [h]

@[simp] theorem Iss.ends_gridl {c : Iss} (h : c.s.storageWf = true) (d a b : KReg) : Run.Ends (c.gridl d a b) := by
  refine Run.all_ite.mpr ⟨fun _ => h, fun _ => ?_⟩
  refine Run.all_ite.mpr ⟨fun _ => Iss.ends_sealing h fun c hc => hc, fun _ => ?_⟩
  refine Run.all_bind_quiet (by simp) fun _ => Iss.ends_sealing h fun c hc => Run.all_bind_quiet (by simp) fun ⟨l, aux⟩ => ?_
  dsimp only
  split
  · exact hc
  · split
    · exact hc
    · simp [hc]

@[simp] theorem State.storageWf_hint {s : State} (h : s.storageWf = true) (grid teamNo : Nat) :
    (s.hint grid teamNo).storageWf = true := h

@[simp] theorem Iss.ends_waitpred {c : Iss} (h : c.s.storageWf = true) : Run.Ends (c.waitpred) := by
  unfold Iss.waitpred
  split <;> simp +contextual [h]

@[simp] theorem State.storageWf_transmit {s : State} (h : s.storageWf = true) (f : Frame) : (s.transmit f).storageWf = true := by
  unfold State.transmit
  split <;> simp [h]

@[simp] theorem State.storageWf_postMessages {s : State} (h : s.storageWf = true) (mk : Nat → List Word → Frame)
    (gid ctx core dst batch : Nat) (flags : List Nat) (y0 : List (List Word)) :
    (s.postMessages mk gid ctx core dst batch flags y0).storageWf = true := by
  induction y0 generalizing s with
  | nil => exact h
  | cons m l ih =>
    refine ih (State.storageWf_transmit ?_ _)
    exact h

@[simp] theorem Iss.ends_send {c : Iss} (h : c.s.storageWf = true) (fl : SFlags) (d : VReg) (a b : KReg) (p : PReg) :
    Run.Ends (c.send fl d a b p) := by
  refine Run.all_bind_quiet (by simp) fun locs => Run.all_ite.mpr ⟨fun _ => h, fun _ => ?_⟩
  refine Run.all_bind_quiet (by simp) fun _ => Iss.ends_sealing h fun c hc => ?_
  have hv (g : Group) := State.storageWf_visible hc g.core c.gid .system
  dsimp only
  split <;> simp [hv]

theorem keeps_execSpawn {s : State} (h : s.storageWf = true) (bind : Bind) (g : Guard) (d : PReg) (a : KReg) (b : VReg)
    (n : BitVec 5) : Keeps (execSpawn bind g d a b n s) := by
  refine keeps_issue h (fun c hc => ?_) _ _
  simp [hc]

theorem keeps_execSpawnL96 {s : State} (h : s.storageWf = true) (bind : Bind) (g : Guard) (d : PReg) (off : Word) (b : VReg)
    (n : BitVec 5) : Keeps (execSpawnL96 bind g d off b n s) := by
  refine keeps_issue h (fun c hc => ?_) _ _
  simp [hc]

theorem keeps_execEvnew {s : State} (h : s.storageWf = true) (g : Guard) (d : KReg) : Keeps (execEvnew g d s) := by
  refine keeps_issue h (fun c hc => ?_) _ _
  simp [hc]

theorem keeps_execEvfree {s : State} (h : s.storageWf = true) (g : Guard) (d a : KReg) : Keeps (execEvfree g d a s) := by
  refine keeps_issue h (fun c hc => ?_) _ _
  simp [hc]

theorem keeps_execEvsig {s : State} (h : s.storageWf = true) (scope : Scope) (g : Guard) (a : KReg) :
    Keeps (execEvsig scope g a s) := by
  refine keeps_issue h (fun c hc => ?_) _ _
  refine Run.all_ite.mpr ⟨fun _ => hc, fun _ => Run.all_bind_quiet (by simp) fun _ => Iss.ends_sealing hc fun c hc => ?_⟩
  exact State.storageWf_fireEvent (State.storageWf_visible hc _ _ _) _ _

theorem keeps_execEvwait {s : State} (h : s.storageWf = true) (cnt : Bool) (bind : Bind) (g : Guard) (a : KReg) (b : VReg)
    (n : BitVec 5) : Keeps (execEvwait cnt bind g a b n s) := by
  refine keeps_issue h (fun c hc => ?_) _ _
  simp [hc]

theorem keeps_execCntdec {s : State} (h : s.storageWf = true) (space : GSpace) (g : Guard) (d : PReg) (a : Src) :
    Keeps (execCntdec space g d a s) := by
  refine keeps_issue h (fun c hc => ?_) _ _
  simp [hc]

theorem keeps_execBar {s : State} (h : s.storageWf = true) : Keeps (execBar s) := by
  refine keeps_issue h (fun c hc => ?_) _ _
  simp [hc]

theorem keeps_execGrow {s : State} (h : s.storageWf = true) (g : Guard) (d : PReg) (n : BitVec 4) : Keeps (execGrow g d n s) := by
  refine keeps_issue h (fun c hc => ?_) _ _
  simp [hc]

theorem keeps_execGridl {s : State} (h : s.storageWf = true) (g : Guard) (d a b : KReg) : Keeps (execGridl g d a b s) := by
  refine keeps_issue h (fun c hc => ?_) _ _
  simp [hc]

theorem keeps_execHintnext {s : State} (h : s.storageWf = true) : Keeps (execHintnext s) := by
  refine keeps_issue h (fun c hc => ?_) _ _
  simp +contextual [hc]

theorem keeps_execWaitpred {s : State} (h : s.storageWf = true) : Keeps (execWaitpred s) := by
  refine keeps_issue h (fun c hc => ?_) _ _
  simp [hc]

theorem keeps_execSend {s : State} (h : s.storageWf = true) (fl : SFlags) (g : Guard) (d : VReg) (a b : KReg) (c : PReg) :
    Keeps (execSend fl g d a b c s) := by
  refine keeps_issue h (fun c hc => ?_) _ _
  simp [hc]

/-! Residence. -/

@[simp] theorem State.storageWf_carve {s : State} (h : s.storageWf = true) (core n : Nat) : (s.carve core n).storageWf = true := by
  unfold State.carve
  split <;> simp [h, State.storageWf_writeBack, State.storageWf_setCore_wcb]

@[simp] theorem State.storageWf_startGroups {s : State} (h : s.storageWf = true) (gr : Grid) (grid team : Nat) (t : Team)
    (n : Nat) (y0 : Nat) : (s.startGroups gr grid team t n y0).storageWf = true := by
  induction y0 generalizing s n with
  | zero => exact h
  | succ k ih =>
    unfold State.startGroups
    split
    · simp [ih, h]
    · exact h

@[simp] theorem State.storageWf_startTeam {s : State} (h : s.storageWf = true) (grid : Nat) (gr : Grid)
    (cluster teamNo core : Nat) : (s.startTeam grid gr cluster teamNo core).storageWf = true := by
  simp [State.startTeam, h]

@[simp] theorem State.storageWf_startCluster {s : State} (h : s.storageWf = true) (grid cluster : Nat) (cores : List Nat) :
    (s.startCluster grid cluster cores).storageWf = true := by
  unfold State.startCluster
  split
  · exact h
  · next g _ =>
    dsimp only
    split
    · exact h
    · split
      · exact storageWf_foldl _ (fun t c ht => State.storageWf_startTeam ht _ _ _ _ _) _ (s.updGrid grid _) h
      · split <;> exact h

theorem keeps_execTeamResident {s : State} (h : s.storageWf = true) (grid team core : Nat) :
    Keeps (execTeamResident grid team core s) := by
  simp [execTeamResident, h]

theorem keeps_execClusterStart {s : State} (h : s.storageWf = true) (grid cluster : Nat) (cores : List Nat) :
    Keeps (execClusterStart grid cluster cores s) := by
  simp [execClusterStart, h]

/-! Bins and the ends of teams and grids. -/

@[simp] theorem State.storageWf_leaveBin {s : State} (h : s.storageWf = true) (core bin : Nat) (b : Bin) (rest : List Rec)
    (oldest : Bool) : (s.leaveBin core bin b rest oldest).storageWf = true := by
  have hb (x : Tbl Bin) : (s.setCore core { s.core core with bins := x }).storageWf = true := State.storageWf_setCore_wcb h rfl
  simp only [State.leaveBin]
  split
  · exact hb _
  · split <;> exact hb _

theorem keeps_execBinLaunch {s : State} (h : s.storageWf = true) (core bin : Nat) : Keeps (execBinLaunch core bin s) := by
  unfold execBinLaunch
  dsimp only
  split
  · simp [h]
  · split
    · split <;> simp [h]
    · simp [h]

theorem keeps_execBinTimerExpiry {s : State} (h : s.storageWf = true) (core bin : Nat) :
    Keeps (execBinTimerExpiry core bin s) := by
  exact keeps_next.mpr (State.storageWf_setCore_wcb h (x := { s.core core with bins := _ }) rfl)

theorem keeps_execSpawnRateExpiry {s : State} (h : s.storageWf = true) (gid : Nat) : Keeps (execSpawnRateExpiry gid s) := by
  simp [execSpawnRateExpiry, h]

@[simp] theorem State.storageWf_rebin {s : State} (h : s.storageWf = true) (core ctx : Nat) :
    (s.rebin core ctx).storageWf = true := by
  refine State.storageWf_retryAll (s := State.updCtx _ ctx _) ?_
  refine storageWf_foldl _ (fun t b ht => ?_) _ s h
  exact State.storageWf_setCore_wcb ht (i := core) (x := { t.core core with bins := (t.core core).bins.del b.1 }) rfl

@[simp] theorem State.storageWf_endTeam {s : State} (h : s.storageWf = true) (team : Nat) (t : Team) :
    (s.endTeam team t).storageWf = true := by
  refine State.storageWf_rebin (s := State.updGrid _ t.grid _) ?_ _ _
  refine storageWf_foldl _ (fun u x hu => ?_) _ s h
  split
  · exact hu
  · exact State.storageWf_sweepTile hu _ _ _

theorem keeps_execTeamEnd {s : State} (h : s.storageWf = true) (team : Nat) : Keeps (execTeamEnd team s) := by
  unfold execTeamEnd
  split
  · split <;> simp [h]
  · simp [h]

@[simp] theorem State.keepsSome_writeLtr {s : State} (h : s.storageWf = true) (ctx : Nat) (g : Grid) (status : Nat) :
    KeepsSome (s.writeLtr ctx g status) := by
  simp [State.writeLtr, h, State.storageWf_putBytes]

@[simp] theorem State.keepsSome_joinDone {s : State} (h : s.storageWf = true) (g : Grid) (cause : Option Nat) :
    KeepsSome (s.joinDone g cause) := by
  unfold State.joinDone
  split
  · exact keepsSome_some.mpr h
  · refine keepsSome_map.mpr fun ps _ => State.storageWf_decTask ?_ _ _ _
    split
    · split
      · exact h
      · exact State.storageWf_putBytes (State.storageWf_putBytes h _ _) _ _
    · exact h

@[simp] theorem State.storageWf_dropGrid {s : State} (h : s.storageWf = true) (grid : Nat) (g : Grid) :
    (s.dropGrid grid g).storageWf = true := by
  unfold State.dropGrid
  dsimp only
  split <;> simp [h]

@[simp] theorem State.keepsSome_endGrid {s : State} (h : s.storageWf = true) (grid : Nat) (g : Grid) (cause : Option Nat)
    (status : Nat) : KeepsSome (s.endGrid grid g cause status) := by
  refine keepsSome_bind.mpr fun t ht => keepsSome_bind.mpr fun u hu => keepsSome_some.mpr ?_
  have ht : t.storageWf = true := State.keepsSome_joinDone (State.storageWf_settle h) g cause t ht
  have hu : u.storageWf = true := State.keepsSome_writeLtr ht g.ctx g status u hu
  exact State.storageWf_dropGrid (State.storageWf_writeHome (State.storageWf_settle hu)) _ _

@[simp] theorem State.keepsSome_engPort {s : State} (h : s.storageWf = true) (ctx gridNo : Nat) (a : DWord) (n : Nat) :
    KeepsSome (s.engPort ctx gridNo a n) := by
  simp [State.engPort, h]

@[simp] theorem State.keepsSome_gridPort {s : State} (h : s.storageWf = true) (g : Grid) : KeepsSome (s.gridPort g) := by
  simp [State.gridPort, h]

@[simp] theorem State.keepsSome_gridDone {s : State} (h : s.storageWf = true) (grid : Nat) : KeepsSome (s.gridDone grid) := by
  unfold State.gridDone
  split
  · split
    · exact keepsSome_or (State.keepsSome_endGrid h _ _ _ _) (State.keepsSome_gridPort h _)
    · split
      · exact keepsSome_or (State.keepsSome_endGrid h _ _ _ _) (State.keepsSome_gridPort h _)
      · exact keepsSome_none
  · exact keepsSome_none

theorem keeps_execGridEnd {s : State} (h : s.storageWf = true) (grid : Nat) : Keeps (execGridEnd grid s) := by
  simp [execGridEnd, h]

@[simp] theorem State.keepsSome_refusedLtr {s : State} (h : s.storageWf = true) (ctx : Nat) (l : LaunchRec) (reason : Nat) :
    KeepsSome (s.refusedLtr ctx l reason) := by
  simp [State.refusedLtr, h, State.storageWf_putBytes]

@[simp] theorem State.keepsSome_stageTimes {s : State} (h : s.storageWf = true) (ctx : Nat) (l : LaunchRec) :
    KeepsSome (s.stageTimes ctx l) := by
  simp [State.stageTimes, h, State.storageWf_putBytes]

@[simp] theorem State.keepsSome_serve {s : State} (h : s.storageWf = true) (ctx ring : Nat) (req : Request) :
    KeepsSome (s.serve ctx ring req) := by
  unfold State.serve
  split
  · exact keepsSome_some.mpr h
  · split
    · exact keepsSome_bind.mpr fun bs _ => State.keepsSome_refusedLtr h _ _ _
    · refine keepsSome_bind.mpr fun x _ => ?_
      split
      · exact State.keepsSome_refusedLtr h _ _ _
      · split
        · exact keepsSome_none
        · exact keepsSome_map.mpr fun t ht => State.storageWf_launch (State.keepsSome_stageTimes h _ _ t ht) _ _ _ _ _ _

@[simp] theorem State.keepsSome_servePort {s : State} (h : s.storageWf = true) (ctx : Nat) (req : Request) :
    KeepsSome (s.servePort ctx req) := by
  unfold State.servePort
  split
  · exact keepsSome_none
  · refine keepsSome_or (State.keepsSome_engPort h _ _ _ _) (keepsSome_bind.mpr fun bs _ => ?_)
    exact keepsSome_or (State.keepsSome_engPort h _ _ _ _) (State.keepsSome_engPort h _ _ _ _)

theorem keeps_execDoorbell {s : State} (h : s.storageWf = true) (ctx ring : Nat) (req : Request) :
    Keeps (execDoorbell ctx ring req s) := by
  refine keeps_next.mpr ?_
  split
  · exact storageWf_getD (keepsSome_or (State.keepsSome_serve h _ _ _) (State.keepsSome_servePort h _ _)) h
  · exact h

theorem keeps_execContextCreation {s : State} (h : s.storageWf = true) (c : CtxParams) : Keeps (execContextCreation c s) := by
  simp only [execContextCreation, keeps_next]
  split
  · exact h
  · refine State.storageWf_withPolder (s := { s with ctxs := _, goneDbg := _, tiles := _ }) h ?_
    generalize c.tiles.filter _ = own
    have hp := State.polder_wf h
    generalize s.polder = p at hp ⊢
    induction own generalizing p with
    | nil => exact hp
    | cons x l ih => exact ih _ (Cells.wf_clear _ _ _ hp)

/-! Faults. -/

@[simp] theorem State.storageWf_popFault {s : State} (h : s.storageWf = true) (ctx id : Nat) :
    (s.popFault ctx id).storageWf = true := by
  simp [State.popFault, h]

@[simp] theorem State.storageWf_putCtxGroup {s : State} (h : s.storageWf = true) (ctx gid : Nat) (g : Group) :
    (s.putCtxGroup ctx gid g).storageWf = true := by
  unfold State.putCtxGroup
  split <;> simp [h]

@[simp] theorem State.storageWf_replay {s : State} (h : s.storageWf = true) (ctx id : Nat) :
    (s.replay ctx id).storageWf = true := by
  unfold State.replay
  dsimp only
  split
  · simp [h]
  · split
    · split <;> simp [h]
    · simp [h]

@[simp] theorem State.storageWf_haltAfter {s : State} (h : s.storageWf = true) (ctx gid : Nat) (r : FaultRec) (g : Group) :
    (s.haltAfter ctx gid r g).storageWf = true := by
  unfold State.haltAfter
  dsimp only
  split
  · split <;> simp [h]
  · simp [h]

@[simp] theorem State.storageWf_writeReply {s : State} (h : s.storageWf = true) (ctx : Nat) (r : FaultRec) (reply : DWord) :
    (s.writeReply ctx r reply).storageWf = true := by
  unfold State.writeReply
  split
  · exact h
  · refine State.storageWf_withMem (s := s.updCtx ctx _) h ?_
    dsimp only
    generalize (s.ctxs.get ctx).bind _ = o
    cases o with
    | none => exact State.mem_wf h
    | some a => exact Cells.wf_writeN _ _ _ _ (State.mem_wf h)

@[simp] theorem State.storageWf_continue_ {s : State} (h : s.storageWf = true) (ctx id : Nat) (reply : DWord) :
    (s.continue_ ctx id reply).storageWf = true := by
  unfold State.continue_
  split
  · exact h
  · next r _ =>
    have hw : ((s.writeReply ctx r reply).popFault ctx id).storageWf = true :=
      State.storageWf_popFault (State.storageWf_writeReply h _ _ _) _ _
    dsimp only
    split
    · exact State.storageWf_replay h _ _
    · split
      · exact h
      · split
        · exact hw
        · split
          · exact State.storageWf_haltAfter hw _ _ _ _
          · exact hw

@[simp] theorem State.storageWf_resumeCopies {s : State} (h : s.storageWf = true) (ctx : Nat) :
    (s.resumeCopies ctx).storageWf = true := by
  refine storageWf_foldl _ (fun t a ht => ?_) _ _ h
  simp [ht]

theorem keeps_execPageServiceDone {s : State} (h : s.storageWf = true) (ctx rec : Nat) (page : Page) :
    Keeps (execPageServiceDone ctx rec page s) := by
  simp [execPageServiceDone, h]

theorem keeps_execRangeLockReplay {s : State} (h : s.storageWf = true) (ctx rec : Nat) :
    Keeps (execRangeLockReplay ctx rec s) := by
  unfold execRangeLockReplay
  split
  · split <;> simp [h]
  · simp [h]

theorem keeps_execFaultReplay {s : State} (h : s.storageWf = true) (ctx rec : Nat) : Keeps (execFaultReplay ctx rec s) := by
  simp [execFaultReplay, h]

theorem keeps_execFaultContinue {s : State} (h : s.storageWf = true) (ctx rec : Nat) (reply : DWord) :
    Keeps (execFaultContinue ctx rec reply s) := by
  simp [execFaultContinue, h]

theorem keeps_execHandlerTableReplace {s : State} (h : s.storageWf = true) (grid : Nat) (emuh surr auxh : DWord) :
    Keeps (execHandlerTableReplace grid emuh surr auxh s) := by
  unfold execHandlerTableReplace
  dsimp only
  split
  · simp [h]
  · split
    · simp [h]
    · split <;> simp [h]

end Sys2Proof.Machine
end

section
/-! Proofs/PortKeeps: the matrix engine and what the memory port finishes keep the storage canonical (11_matrix R277 to R305,
07_memory_order R203 to R206). -/

namespace Sys2Proof.Machine

/-! The matrix engine. -/

@[simp] theorem Iss.storageWf_setTile {c : Iss} (h : c.s.storageWf = true) (g : Group) (n : Nat) (new : Cells 32) :
    (c.setTile g n new).storageWf = true := h

@[simp] theorem Iss.ends_mat {c : Iss} (h : c.s.storageWf = true) (x : Mat) (set_ : Bool) (d : TileReg) (a b : VReg)
    (fa fb : Slot) : Run.Ends (c.mat x set_ d a b fa fb) := by
  simp [Iss.mat, h, State.storageWf_setCore_wcb]

@[simp] theorem State.storageWf_matDone {s : State} (h : s.storageWf = true) (core : Nat) (m : MatOp) :
    (s.matDone core m).storageWf = true := by
  unfold State.matDone
  split <;> simp [h, State.storageWf_setCore_wcb]

@[simp] theorem Iss.ends_accld {c : Iss} (h : c.s.storageWf = true) (sp : Space) (d : TileReg) (a b : KReg) (slot : Slot) :
    Run.Ends (c.accld sp d a b slot) := by
  unfold Iss.accld
  dsimp only
  split <;> simp [h]

@[simp] theorem Iss.ends_accst {c : Iss} (h : c.s.storageWf = true) (rm : Rm) (sp : Space) (fl : SFlags) (d : TileReg)
    (a b : KReg) (slot : Slot) : Run.Ends (c.accst rm sp fl d a b slot) := by
  have hq (base : DWord) (bc z : Nat) : Run.Quiet (c.tileAccess sp .store base bc z) := by simp
  unfold Iss.accst
  refine Run.all_bind_quiet (by simp) fun _ => Run.all_bind_quiet (by simp) fun _ => Run.all_ite.mpr ⟨fun _ => h, fun _ => ?_⟩
  dsimp only
  generalize c.tileAccess sp .store = x at hq ⊢
  refine Run.all_bind_quiet (hq _ _ _) fun accs => Run.all_bind_quiet (by simp) fun _ => Run.all_bind_quiet (by simp) fun _ => ?_
  refine Iss.ends_sealing h fun c hc => Run.all_bind_quiet (by simp) fun g => ?_
  have hs (g : Group) := State.storageWf_storeBytes (s := c.s.setGroup c.gid g) hc
  split
  · exact hs _ _ _ _ _ _ _
  · exact hs _ _ _ _ _ _ _

@[simp] theorem Iss.ends_accmov {c : Iss} (h : c.s.storageWf = true) (m : AccMode) : Run.Ends (c.accmov m) := by
  unfold Iss.accmov
  split <;> simp [h]

theorem keeps_execMma {s : State} (h : s.storageWf = true) (small : Option (BitVec 2)) (set_ : Bool) (g : Guard)
    (d : TileReg) (a b : VReg) (fa fb : Slot) : Keeps (execMma small set_ g d a b fa fb s) := by
  refine keeps_issue h (fun c hc => ?_) _ _
  simp [hc]

theorem keeps_execMmas {s : State} (h : s.storageWf = true) (set_ : Bool) (g : Guard) (d : TileReg) (a b : VReg)
    (fa fb : Slot) : Keeps (execMmas set_ g d a b fa fb s) := by
  refine keeps_issue h (fun c hc => ?_) _ _
  simp [hc]

theorem keeps_execMmax {s : State} (h : s.storageWf = true) (set_ : Bool) (g : Guard) (d : TileReg) (a b : VReg)
    (fa fb : Slot) : Keeps (execMmax set_ g d a b fa fb s) := by
  refine keeps_issue h (fun c hc => ?_) _ _
  simp [hc]

theorem keeps_execAccz {s : State} (h : s.storageWf = true) (g : Guard) (d : TileReg) (n : BitVec 3) :
    Keeps (execAccz g d n s) := by
  refine keeps_issue h (fun c hc => ?_) _ _
  simp [hc]

theorem keeps_execAccld {s : State} (h : s.storageWf = true) (space : ASpace) (g : Guard) (d : TileReg) (a b : KReg)
    (slot : Slot) : Keeps (execAccld space g d a b slot s) := by
  refine keeps_issue h (fun c hc => ?_) _ _
  simp [hc]

theorem keeps_execAccst {s : State} (h : s.storageWf = true) (rm : Rm) (space : ASpace) (fl : SFlags) (g : Guard)
    (d : TileReg) (a b : KReg) (slot : Slot) : Keeps (execAccst rm space fl g d a b slot s) := by
  refine keeps_issue h (fun c hc => ?_) _ _
  simp [hc]

theorem keeps_execAccmov {s : State} (h : s.storageWf = true) (g : Guard) (m : AccMode) : Keeps (execAccmov g m s) := by
  refine keeps_issue h (fun c hc => ?_) _ _
  simp [hc]

theorem keeps_execMatrixResult {s : State} (h : s.storageWf = true) (core : Nat) : Keeps (execMatrixResult core s) := by
  unfold execMatrixResult
  split <;> simp [h]

/-! The memory port. -/

@[simp] theorem State.storageWf_reissue {s : State} (h : s.storageWf = true) (id gid split : Nat) (g : Group)
    (x : MovedAtomic) (fl : List Nat) : (s.reissue id gid split g x fl).storageWf = true := by
  unfold State.reissue
  split <;> simp [h]

@[simp] theorem State.storageWf_spillsOn {s : State} (h : s.storageWf = true) (gid : Nat) : (s.spillsOn gid).storageWf = true := by
  unfold State.spillsOn
  split <;> simp [h]

@[simp] theorem State.storageWf_finish {s : State} (h : s.storageWf = true) (id : Nat) (p : Pending) :
    (s.finish id p).storageWf = true := by
  unfold State.finish
  dsimp only
  split
  · exact h
  · exact h
  · refine State.storageWf_spillsOn ?_ _
    exact h
  · exact h
  · exact h
  · split
    · exact State.storageWf_reissue h _ _ _ _ _ _
    · exact h

@[simp] theorem State.storageWf_finishGroup {s : State} (h : s.storageWf = true) (gid : Nat) :
    (s.finishGroup gid).storageWf = true := by
  have hf (t : State) (ht : t.storageWf = true) (l : List (Nat × Pending)) :
      (l.foldl (fun s p => s.finish p.1 p.2) t).storageWf = true :=
    storageWf_foldl _ (fun u p hu => State.storageWf_finish hu p.1 p.2) l t ht
  simp only [State.finishGroup]
  split
  · exact hf _ (hf s h _) _
  · exact storageWf_foldl _ (fun u m hu => State.storageWf_matDone hu _ m) _ _ (hf _ (hf s h _) _)

@[simp] theorem State.storageWf_finishIf {s : State} (h : s.storageWf = true) (id : Nat) (kind : Pending → Bool) :
    (s.finishIf id kind).storageWf = true := by
  unfold State.finishIf
  split
  · split <;> simp [h]
  · simp [h]

@[simp] theorem State.storageWf_evict {s : State} (h : s.storageWf = true) (core : Nat) (ev : Evict) :
    (s.evict core ev).storageWf = true := by
  have hl (l : List L1Line) : ((s.setCore core { s.core core with l1 := l }).storageWf = true) := State.storageWf_setCore_wcb h rfl
  have hp (l : List L1Line) (p : Nat → Bool) : 
      ((s.setCore core { s.core core with l1 := l }).dropPriv core p).storageWf = true :=
    State.storageWf_dropPriv (hl l) _ _
  have hr : State.storageWf (match ev.l1Line with
      | some l =>
        (s.setCore core { s.core core with l1 := (s.core core).l1.filter (fun x => x.line != l || x.priv) }).dropPriv core (· == l)
      | none => s) = true := by
    split
    · exact hp _ _
    · exact h
  have hd (r : Nat) := State.storageWf_dropRegion hr r
  unfold State.evict
  dsimp only
  split
  · refine State.storageWf_dropRow ?_ _ _
    split
    · exact hd _
    · exact hr
  · split
    · exact hd _
    · exact hr

@[simp] theorem State.storageWf_fillLine {s : State} (h : s.storageWf = true) (core line : Nat) :
    (s.fillLine core line).storageWf = true := by
  have hr := State.storageWf_roomInL1 (State.storageWf_track (State.storageWf_cacheLine h line) core line) core
  exact State.storageWf_setCore_wcb hr rfl

theorem keeps_execLoadReturn {s : State} (h : s.storageWf = true) (id : Nat) : Keeps (execLoadReturn id s) := by
  simp [execLoadReturn, h]

theorem keeps_execStorePerformed {s : State} (h : s.storageWf = true) (id : Nat) : Keeps (execStorePerformed id s) := by
  simp [execStorePerformed, h]

theorem keeps_execAtomicReturn {s : State} (h : s.storageWf = true) (id : Nat) : Keeps (execAtomicReturn id s) := by
  simp [execAtomicReturn, h]

theorem keeps_execAtomicMovedReissue {s : State} (h : s.storageWf = true) (id : Nat) : Keeps (execAtomicMovedReissue id s) := by
  simp [execAtomicMovedReissue, h]

theorem keeps_execPrefetchComplete {s : State} (h : s.storageWf = true) (id : Nat) : Keeps (execPrefetchComplete id s) := by
  simp [execPrefetchComplete, h]

theorem keeps_execWcbDrainTimer {s : State} (h : s.storageWf = true) (core line : Nat) :
    Keeps (execWcbDrainTimer core line s) := by
  simp [execWcbDrainTimer, h, State.storageWf_drainLine]

theorem keeps_execL1MissFill {s : State} (h : s.storageWf = true) (core line : Nat) (ev : Evict) :
    Keeps (execL1MissFill core line ev s) := by
  unfold execL1MissFill
  split <;> simp [h]

theorem keeps_execInvalidation {s : State} (h : s.storageWf = true) (core line : Nat) : Keeps (execInvalidation core line s) := by
  unfold execInvalidation
  split <;> simp [h, State.storageWf_dropCopy]

end Sys2Proof.Machine
end

section
/-! Proofs/WalkKeeps: the reverse walk, rollback and refill keep the storage canonical (09_history R241 to R256). -/

namespace Sys2Proof.Machine

/-! Inverses. -/

theorem ends_memInverse {i : Instr} {gd : Guard} {f : Iss → Run Fin} (hi : memInverse i = some (gd, f)) {c : Iss}
    (h : c.s.storageWf = true) : Run.Ends (f c) := by
  unfold memInverse at hi
  split at hi
  · split at hi <;> cases hi
    exact Iss.ends_ldx h _ _ (by simp)
  · split at hi <;> cases hi
    exact Iss.ends_stx h _ _ _ (by simp)
  · split at hi <;> cases hi
    exact Iss.ends_xchg h _ _ (by simp)
  · cases hi

@[simp] theorem State.keepsOk_inverse {s : State} (h : s.storageWf = true) (gid n : Nat) (i : Instr) :
    KeepsOk (s.inverse gid n i) := by
  unfold State.inverse
  split
  · exact keepsOk_ok.mpr h
  · next g _ =>
    have hb (t : State) (ht : t.storageWf = true) :
        KeepsOk (.ok ((t.finishGroup gid).updGroup gid (fun x => { x with grade := g.grade })) : Except Cause State) := by
      simp [ht]
    dsimp only
    split
    · split
      · exact hb _ h
      · exact keepsOk_ok.mpr h
    · next gd f _ hf =>
      have hr := ends_memInverse hf (c := { s.revIss gid g n gd with s := s.setGroup gid (s.revIss gid g n gd).g }) h
      split
      · next r hfr => exact hb _ (by rw [hfr] at hr; exact hr)
      · split
        · exact keepsOk_error
        · exact keepsOk_ok.mpr h
      · exact keepsOk_ok.mpr h
    · exact hb _ h
    · exact keepsOk_ok.mpr h

/-! The walk. -/

@[simp] theorem State.storageWf_walkFault {s : State} (h : s.storageWf = true) (gid : Nat) (cause : Cause) (detA : DWord) :
    (s.walkFault gid cause detA).storageWf = true := by
  unfold State.walkFault
  split <;> simp [h]

theorem State.keepsSome_undoRun {s : State} (h : s.storageWf = true) (gid depth n : Nat) {ok : State → Option State}
    (hok : ∀ t, t.storageWf = true → KeepsSome (ok t)) : KeepsSome (s.undoRun gid depth n ok) := by
  unfold State.undoRun
  split
  · exact hok _ h
  · dsimp only
    split
    · split
      · exact keepsSome_none
      · exact keepsSome_some.mpr (State.storageWf_walkFault h _ _ _)
    · split
      · next t ht => exact hok t (State.keepsSome_undoAll h _ _ _ t ht)
      · exact keepsSome_some.mpr (State.storageWf_walkFault h _ _ _)

@[simp] theorem State.storageWf_stepBack {s : State} (h : s.storageWf = true) (gid n : Nat) (x : CAddr) :
    (s.stepBack gid n x).storageWf = true := h

@[simp] theorem State.keepsSome_undoInstr {s0 s : State} (h0 : s0.storageWf = true) (h : s.storageWf = true) (gid : Nat) :
    KeepsSome (s0.undoInstr s gid) := by
  have hf (c : Cause) (a : DWord) : KeepsSome (some (s0.walkFault gid c a)) :=
    keepsSome_some.mpr (State.storageWf_walkFault h0 _ _ _)
  unfold State.undoInstr
  split
  · exact keepsSome_some.mpr h0
  · split
    · exact hf _ _
    · dsimp only
      split
      · split
        · exact keepsSome_none
        · exact hf _ _
      · split
        · exact hf _ _
        · next t ht =>
          have ht : t.storageWf = true := State.keepsSome_undoAll h _ _ _ t ht
          split
          · exact keepsSome_some.mpr (State.storageWf_stepBack ht _ _ _)
          · split
            · exact keepsSome_some.mpr (State.storageWf_stepBack ht _ _ _)
            · split
              · next u hu =>
                exact keepsSome_some.mpr (State.storageWf_stepBack (State.keepsOk_inverse ht _ _ _ u hu) _ _ _)
              · split
                · exact keepsSome_none
                · exact hf _ _

@[simp] theorem State.keepsSome_stepWalk {s : State} (h : s.storageWf = true) (gid : Nat) (g : Group) :
    KeepsSome (s.stepWalk gid g) := by
  have hf (c : Cause) (a : DWord) : KeepsSome (some (s.walkFault gid c a)) :=
    keepsSome_some.mpr (State.storageWf_walkFault h _ _ _)
  unfold State.stepWalk
  dsimp only
  split
  · split
    · exact keepsSome_none
    · exact hf _ _
  · split
    · exact hf _ _
    · next t ht => exact State.keepsSome_undoInstr h (State.keepsSome_undoAll h _ _ _ t ht) gid

@[simp] theorem State.storageWf_landed {s : State} (h : s.storageWf = true) (gid : Nat) (r : Rev) :
    (s.landed gid r).storageWf = true := by
  unfold State.landed
  split <;> simp [h]

@[simp] theorem State.storageWf_reach {s : State} (h : s.storageWf = true) (gid : Nat) (g : Group) (r : Rev) :
    (s.reach gid g r).storageWf = true := by
  unfold State.reach
  split
  · split
    · have hl := State.storageWf_landed h gid r
      dsimp only
      split
      · exact State.storageWf_imprecise hl _ _ _ _ _
      · exact hl
    · exact h
  · exact State.storageWf_landed h _ _

@[simp] theorem State.storageWf_restoreAt {s : State} (h : s.storageWf = true) (gid : Nat) (g : Group) (r : Rev)
    (n : Snapshot) (marked : Bool) : (s.restoreAt gid g r n marked).storageWf = true := by
  unfold State.restoreAt
  split
  · exact State.storageWf_reach h _ _ _
  · refine State.storageWf_reach ?_ _ _ _
    exact h

@[simp] theorem State.keepsSome_markWalk {s : State} (h : s.storageWf = true) (gid : Nat) (g : Group) (r : Rev) :
    KeepsSome (s.markWalk gid g r) := by
  have hu : KeepsSome (s.undoRun gid 0 1 some) := State.keepsSome_undoRun h _ _ _ fun t ht => keepsSome_some.mpr ht
  unfold State.markWalk
  split
  · exact keepsSome_some.mpr (State.storageWf_restoreAt h _ _ _ _ _)
  · split
    · split
      · exact keepsSome_some.mpr (State.storageWf_restoreAt h _ _ _ _ _)
      · exact hu
    · exact hu

@[simp] theorem State.keepsSome_walkStep {s : State} (h : s.storageWf = true) (gid : Nat) : KeepsSome (s.walkStep gid) := by
  unfold State.walkStep
  split
  · exact keepsSome_none
  · split
    · exact keepsSome_none
    · refine keepsSome_ite.mpr ⟨fun _ => ?_, fun _ => ?_⟩
      · split
        · exact keepsSome_none
        · exact keepsSome_some.mpr (State.storageWf_begin (State.storageWf_release h _ _ _) _ _)
      · refine keepsSome_ite.mpr ⟨fun _ => keepsSome_none, fun _ => keepsSome_ite.mpr ⟨fun _ => ?_, fun _ => ?_⟩⟩
        · exact State.keepsSome_undoRun h _ _ _ fun t ht => keepsSome_some.mpr ht
        · refine keepsSome_ite.mpr ⟨fun _ => State.keepsSome_markWalk h _ _ _, fun _ => ?_⟩
          refine keepsSome_ite.mpr ⟨fun _ => keepsSome_some.mpr (State.storageWf_reach h _ _ _), fun _ => ?_⟩
          exact State.keepsSome_stepWalk h _ _

theorem keeps_execReverseWalkStep {s : State} (h : s.storageWf = true) (gid : Nat) : Keeps (execReverseWalkStep gid s) :=
  keeps_next.mpr (storageWf_getD (State.keepsSome_walkStep h gid) h)

/-! Rollback. -/

@[simp] theorem State.storageWf_spoil {s : State} (h : s.storageWf = true) (gid : Nat) (g : Group) (d : Damage) :
    (s.spoil gid g d).storageWf = true := by
  unfold State.spoil
  split <;> simp [h]

@[simp] theorem State.storageWf_abandon {s : State} (h : s.storageWf = true) (gid : Nat) (g : Group) :
    (s.abandon gid g).storageWf = true := by
  unfold State.abandon
  split <;> simp [h]

@[simp] theorem State.storageWf_startRollback {s : State} (h : s.storageWf = true) (gid : Nat) (g : Group) (d : Damage) :
    (s.startRollback gid g d).storageWf = true := by
  simp [State.startRollback, h, State.storageWf_release]

@[simp] theorem State.storageWf_sliceDue {s : State} (h : s.storageWf = true) (key : Nat) : (s.sliceDue key).storageWf = true := by
  unfold State.sliceDue
  split <;> simp [h]

@[simp] theorem State.storageWf_eccError {s : State} (h : s.storageWf = true) (key : Nat) : (s.eccError key).storageWf = true := by
  simp [State.eccError, h]

@[simp] theorem State.storageWf_eccFixed {s : State} (h : s.storageWf = true) (key : Nat) : (s.eccFixed key).storageWf = true := by
  simp [State.eccFixed, h]

@[simp] theorem State.storageWf_ruin {s : State} (h : s.storageWf = true) (p : Place) : (s.ruin p).storageWf = true := by
  unfold State.ruin
  split <;> simp [h]

@[simp] theorem State.storageWf_loseLine {s : State} (h : s.storageWf = true) (core line : Nat) :
    (s.loseLine core line).storageWf = true := by
  refine storageWf_foldl _ (fun t b ht => State.storageWf_ruin ht _) _ _ ?_
  exact State.storageWf_setCore_wcb h rfl

@[simp] theorem State.storageWf_loseStream {s : State} (h : s.storageWf = true) (ctx gridNo n : Nat) :
    (s.loseStream ctx gridNo n).storageWf = true := by
  simp [State.loseStream, h]

@[simp] theorem State.storageWf_groupError {s : State} (h : s.storageWf = true) (gid : Nat) (g : Group) (dmg : Damage) :
    (s.groupError gid g dmg).storageWf = true := by
  have hs : ((s.finishGroup gid).spoil gid (((s.finishGroup gid).groups.get gid).getD g) dmg).storageWf = true := by simp [h]
  unfold State.groupError
  split
  · exact h
  · dsimp only
    generalize (s.finishGroup gid).spoil gid _ dmg = t at hs ⊢
    split
    · exact hs
    · next g _ =>
      have he := State.storageWf_eccError hs (Damage.key dmg g.core)
      generalize t.eccError (Damage.key dmg g.core) = u at he ⊢
      split
      · have ha : State.storageWf (if g.frames.isEmpty then u else u.abandon gid g) = true := by
          split
          · exact he
          · exact State.storageWf_abandon he _ _
        split
        · exact State.storageWf_imprecise ha _ _ _ _ _
        · exact ha
      · split
        · refine State.storageWf_startRollback ?_ _ _ _
          exact he
        · exact he

theorem keeps_execRollback {s : State} (h : s.storageWf = true) (gid : Nat) (dmg : Damage) : Keeps (execRollback gid dmg s) := by
  refine keeps_next.mpr ?_
  split
  · exact State.storageWf_eccFixed h _
  · exact State.storageWf_ruin (State.storageWf_eccError h _) _
  · exact State.storageWf_loseLine (State.storageWf_eccError h _) _ _
  · exact State.storageWf_eccError h _
  · exact State.storageWf_ruin h _
  · split
    · exact h
    · split
      · split
        · exact State.storageWf_eccError (State.storageWf_spoil h _ _ _) _
        · exact h
      · exact State.storageWf_ruin (State.storageWf_eccError h _) _
      · split
        · exact State.storageWf_loseStream h _ _ _
        · exact h
      · exact State.storageWf_groupError h _ _ _

/-! Refill. -/

theorem keeps_execHistoryRefill {s : State} (h : s.storageWf = true) (gid : Nat) (damaged : Bool) :
    Keeps (execHistoryRefill gid damaged s) := by
  refine keeps_next.mpr ?_
  split
  · exact h
  · next g _ =>
    have hc := State.storageWf_commitOuter (State.storageWf_finishGroup h gid) gid g.core g.drops
    dsimp only
    split
    · exact h
    · split
      · split
        · exact h
        · exact State.storageWf_walkFault h _ _ _
      · simpa using hc

end Sys2Proof.Machine
end

section
/-! Proofs/ContextKeeps: pre-emption, restore, removal, migration and dumps keep the storage canonical (17_traps R394 to R398,
06_memory_port R187, 19_debug_host R419). -/

namespace Sys2Proof.Machine

variable {s : State} {α : Type}

/-- Changing cores but for their write-combining buffers. -/
theorem State.wfStore_mapCores (h : s.storageWf = true) {f : Nat × Core → Core} (hf : ∀ c, (f c).wcb = c.2.wcb) :
    wfStore s.mem s.polder (s.cores.map (fun c => (c.1, f c))) = true := by
  obtain ⟨hm, hp, hc⟩ := s.storageWf_iff.mp h
  refine ({ s with cores := s.cores.map (fun c => (c.1, f c)) } : State).storageWf_iff.mpr ⟨hm, hp, fun c hx w hw => ?_⟩
  obtain ⟨d, hd, rfl⟩ := List.mem_map.mp hx
  exact hc d hd w (by rw [← hf d]; exact hw)

/-- A fold of steps that may fail. -/
theorem keepsSome_foldlM {f : State → α → Option State} (hf : ∀ t a, t.storageWf = true → KeepsSome (f t a)) (l : List α) :
    ∀ s : State, s.storageWf = true → KeepsSome (l.foldlM f s) := by
  induction l with
  | nil => exact fun s h => keepsSome_some.mpr h
  | cons a l ih =>
    intro s h
    rw [List.foldlM_cons]
    exact keepsSome_bind.mpr fun t ht => ih t (hf s a h t ht)

/-! Pre-emption. -/

@[simp] theorem State.storageWf_takeBins {s : State} (h : s.storageWf = true) (grids : Nat → Bool) :
    (s.takeBins grids).2.storageWf = true := by
  exact State.wfStore_mapCores h fun c => rfl

@[simp] theorem State.storageWf_writeSave {s : State} (h : s.storageWf = true) (ctx : Nat) :
    (s.writeSave ctx).storageWf = true := by
  unfold State.writeSave
  split
  · next a bs _ =>
    have hm : Cells.wf ((bs.take (2 ^ 52 - a)).zipIdx.foldr (fun b m => m.set (a + b.2) b.1) s.mem) = true := by
      generalize (bs.take (2 ^ 52 - a)).zipIdx = l
      induction l with
      | nil => exact State.mem_wf h
      | cons b l ih => exact Cells.wf_set _ _ _ ih
    dsimp only
    split
    · exact State.storageWf_ctxFault h _ _ _ _ _ _ _
    · split
      · exact State.storageWf_ctxFault h _ _ _ _ _ _ _
      · exact State.storageWf_withMem h hm
  · exact h

@[simp] theorem State.storageWf_saveImage {s : State} (h : s.storageWf = true) (ctx : Nat) :
    (s.saveImage ctx).storageWf = true := by
  have hf : ((s.ctxGroups ctx).foldl (fun s g => (s.release g.2.core g.1 .device).writeBack g.2.core) s).storageWf = true :=
    storageWf_foldl _ (fun t g ht => State.storageWf_writeBack (State.storageWf_release ht _ _ _) _) _ s h
  refine State.storageWf_retryAll (State.storageWf_writeSave ?_ ctx)
  simp only [State.storageWf_updCtx, State.storageWf_mk, wfStore_state]
  exact State.storageWf_takeBins hf _

theorem keeps_execPreemptRequest {s : State} (h : s.storageWf = true) (r : Preemption) : Keeps (execPreemptRequest r s) := by
  unfold execPreemptRequest
  split <;> simp [h]

theorem keeps_execPreemptAck {s : State} (h : s.storageWf = true) (ctx : Nat) (x : Slice) : Keeps (execPreemptAck ctx x s) := by
  unfold execPreemptAck
  dsimp only
  split
  · simp [h]
  · split
    · simp [h]
    · split
      · simp [h]
      · split <;> simp [h]

/-! Restore. -/

@[simp] theorem State.keepsSome_restoreGroup {s : State} (h : s.storageWf = true) (core gid : Nat) (g : Group) :
    KeepsSome (s.restoreGroup core gid g) := by
  unfold State.restoreGroup
  split <;> simp [h]

@[simp] theorem State.keepsSome_restoreTeam {s : State} (h : s.storageWf = true) (ctx : Nat) (i : Image)
    (place : List (Nat × Nat)) (team : Nat) (t : Team) : KeepsSome (s.restoreTeam ctx i place team t) := by
  unfold State.restoreTeam
  split
  · next core gr _ _ =>
    have hc := State.storageWf_carve h core gr.lrec.carve
    dsimp only
    split
    · exact keepsSome_foldlM (fun u g hu => State.keepsSome_restoreGroup hu _ _ _) _ _ hc
    · exact keepsSome_none
  · exact keepsSome_none

@[simp] theorem State.storageWf_restoreBin {s : State} (h : s.storageWf = true) (ctx : Nat) (i : Image) (b : Nat × Bin) :
    (s.restoreBin ctx i b).storageWf = true := by
  have hc (k : Nat) (x : Tbl Bin) : (s.setCore k { s.core k with bins := x }).storageWf = true :=
    State.storageWf_setCore_wcb h rfl
  unfold State.restoreBin
  dsimp only
  split
  · exact h
  · split
    · exact hc _ _
    · split
      · split
        · exact hc _ _
        · exact hc _ _
      · exact h

@[simp] theorem State.storageWf_restartCopies {s : State} (h : s.storageWf = true) (ctx : Nat) :
    (s.restartCopies ctx).storageWf = true := by
  refine storageWf_foldl _ (fun t a ht => ?_) _ _ h
  simp [ht]

theorem keeps_execContextRestore {s : State} (h : s.storageWf = true) (ctx : Nat) (place : List (Nat × Nat)) :
    Keeps (execContextRestore ctx place s) := by
  simp only [execContextRestore, keeps_next]
  split
  · exact h
  · next i _ =>
    split
    · exact h
    · split
      · exact h
      · next t ht =>
        have ht : t.storageWf = true :=
          keepsSome_foldlM (fun u x hu => State.keepsSome_restoreTeam hu ctx i place x.1 x.2) _ s h t ht
        have hr (f : Ctx → Ctx) := State.storageWf_locksDropped (State.storageWf_restartCopies (s := t.updCtx ctx f) ht ctx)
        refine State.storageWf_retryAll (storageWf_foldl _ (fun u b hu => State.storageWf_restoreBin hu ctx i b) _ _ ?_)
        exact storageWf_foldl _ (fun u g hu => State.storageWf_reap hu g.1) _ _ (hr _)

/-! Removal. -/

@[simp] theorem State.storageWf_dropRecs {s : State} (h : s.storageWf = true) (ctx : Nat) (gone : Nat → Bool) :
    (s.dropRecs ctx gone).storageWf = true := by
  have hb := State.storageWf_takeBins h gone
  unfold State.dropRecs
  dsimp only
  split
  · exact hb
  · refine storageWf_foldl _ (fun t w ht => ?_) _ _ (storageWf_foldl _ (fun t w ht => ?_) _ _ hb)
    · exact storageWf_getD (State.keepsSome_portFault ht _ _ _ _) ht
    · exact State.storageWf_putBytes ht _ _

@[simp] theorem State.storageWf_revLost {s : State} (h : s.storageWf = true) (gid : Nat) (g : Group) :
    (s.revLost gid g).storageWf = true := by
  unfold State.revLost
  split
  · simp [h]
  · split
    · split <;> simp [h]
    · split <;> simp [h]

@[simp] theorem State.storageWf_cutGroups {s : State} (h : s.storageWf = true) (ctx : Nat) (gone : Group → Bool) :
    (s.cutGroups ctx gone).storageWf = true := by
  have hr (l : List (Nat × Group)) : (l.foldl (fun s g => s.release g.2.core g.1 .device) s).storageWf = true :=
    storageWf_foldl _ (fun t g ht => State.storageWf_release ht _ _ _) _ s h
  have hl (l : List (Nat × Group)) : (l.foldl (fun s g => s.revLost g.1 g.2)
      (l.foldl (fun s g => s.release g.2.core g.1 .device) s)).storageWf = true :=
    storageWf_foldl _ (fun t g ht => State.storageWf_revLost ht _ _) _ _ (hr l)
  exact State.wfStore_mapCores (hl _) fun c => rfl

@[simp] theorem State.storageWf_cutCopies {s : State} (h : s.storageWf = true) (gone : Copy → Bool) :
    (s.cutCopies gone).storageWf = true := by
  simp [State.cutCopies, h]

@[simp] theorem State.storageWf_cutTeams {s : State} (h : s.storageWf = true) (ctx : Nat) (gone : Team → Bool) :
    (s.cutTeams ctx gone).storageWf = true := by
  refine storageWf_foldl _ (fun t x ht => ?_) _ _ ?_
  · have hc := State.storageWf_clearTile ht x.1
    dsimp only
    split
    · exact State.storageWf_sweepTile hc _ _ _
    · exact State.storageWf_settleTile hc _
  · exact h

@[simp] theorem State.storageWf_killGrid {s : State} (h : s.storageWf = true) (grid : Nat) (g : Grid) (status : Nat) :
    (s.killGrid grid g status).storageWf = true := by
  have hd := State.storageWf_dropRecs (State.storageWf_cutCopies (State.storageWf_cutGroups h g.ctx (fun x => x.grid == grid))
    (fun c => c.grid == grid)) g.ctx (fun k => k == grid)
  unfold State.killGrid
  dsimp only
  generalize State.dropRecs _ g.ctx _ = t at hd ⊢
  have hc := State.storageWf_cutTeams 
    (s := { t with sent := t.sent.filter (fun m => !(m.ctx == g.ctx && m.frame.sgrid == g.gridNo)) }) hd g.ctx (fun t => t.grid == grid)
  generalize State.cutTeams _ g.ctx _ = u at hc ⊢
  have ht : (u.updGrid grid (fun g => { g with killed := some status, reserved := [] })).storageWf = true := hc
  refine State.storageWf_refillFaults (State.storageWf_retryAll ?_) _
  exact storageWf_getD (State.keepsSome_gridDone ht grid) ht

theorem keeps_execRemoveGrid {s : State} (h : s.storageWf = true) (grid : Nat) (status : Word) :
    Keeps (execRemoveGrid grid status s) := by
  unfold execRemoveGrid
  split <;> simp [h]

@[simp] theorem State.storageWf_grantPool {s : State} (h : s.storageWf = true) (ctx : Nat) :
    (s.grantPool ctx).storageWf = true := by
  unfold State.grantPool
  split
  · exact h
  · split
    · exact storageWf_foldl _ (fun t w ht => State.storageWf_reap ht w) _ _ h
    · exact h

theorem keeps_execPoolExtend {s : State} (h : s.storageWf = true) (ctx pages : Nat) : Keeps (execPoolExtend ctx pages s) := by
  refine keeps_next.mpr ?_
  split
  · exact State.storageWf_grantPool (s := s.updCtx ctx _) h ctx
  · split
    · exact h
    · split
      · exact h
      · exact State.storageWf_grantPool (State.storageWf_killGrid (State.storageWf_ctxFault h _ _ _ _ _ _ _) _ _ _) _

@[simp] theorem State.storageWf_dropContext {s : State} (h : s.storageWf = true) (ctx : Nat) :
    (s.dropContext ctx).storageWf = true := by
  refine storageWf_foldl _ (fun t x ht => State.storageWf_clearTile ht x.1) _ _ ?_
  exact State.storageWf_dropRecs (State.storageWf_cutCopies (State.storageWf_cutGroups h _ _) _) _ _

/-! Migration and dumps. -/

theorem keeps_execPageMigration {s : State} (h : s.storageWf = true) (ctx va newPa : Nat) :
    Keeps (execPageMigration ctx va newPa s) := by
  simp only [execPageMigration, keeps_next]
  split
  · exact h
  · split
    · split
      · exact h
      · have hf (a b n : Nat) := State.storageWf_flushRange (State.storageWf_flushRange h a n) b n
        exact State.storageWf_withMem (hf _ _ _) (wf_moveBytes _ _ _ _ (State.mem_wf (hf _ _ _)))
    · exact h

@[simp] theorem State.storageWf_putHost {s : State} (h : s.storageWf = true) (a : Nat) (bs : List Byte) :
    (s.putHost a bs).storageWf = true := h

@[simp] theorem State.storageWf_writeDump {s : State} (h : s.storageWf = true) (d : Dump) : (s.writeDump d).storageWf = true :=
  h

@[simp] theorem State.storageWf_dropImage {s : State} (h : s.storageWf = true) (ctx : Nat) :
    (s.dropImage ctx).storageWf = true := by
  simp [State.dropImage, h]

@[simp] theorem State.storageWf_cutForDump {s : State} (h : s.storageWf = true) (ctx : Nat) :
    (s.cutForDump ctx).storageWf = true := by
  simp [State.cutForDump, h]

theorem keeps_execCoreDump {s : State} (h : s.storageWf = true) (ctx : Nat) (how : DumpAsk) (cause : Cause) :
    Keeps (execCoreDump ctx how cause s) := by
  have ht : State.storageWf (if how.cut && (s.ctxs.get ctx).any (fun c => c.image.isNone) then s.cutForDump ctx else s) = true := by
    split
    · exact State.storageWf_cutForDump h _
    · exact h
  simp only [execCoreDump, keeps_next]
  split
  · exact State.storageWf_dropImage (State.storageWf_writeDump ht _) _
  · exact h

end Sys2Proof.Machine
end

section
/-! Proofs/HostKeeps: debug commands, peers, links and dumps keep the storage canonical (19_debug_host R410 to R433,
14_task_engine R359). -/

namespace Sys2Proof.Machine

/-! Commands. -/

@[simp] theorem State.storageWf_updDbg {s : State} (h : s.storageWf = true) (ctx : Nat) (f : Debug → Debug) :
    (s.updDbg ctx f).storageWf = true := by
  unfold State.updDbg
  split <;> simp [h]

@[simp] theorem State.storageWf_dbgPost {s : State} (h : s.storageWf = true) (ctx : Nat) (e : DbgEvent) :
    (s.dbgPost ctx e).storageWf = true := by
  simp [State.dbgPost, h]

@[simp] theorem State.storageWf_takeCmd {s : State} (h : s.storageWf = true) (ctx : Nat) : (s.takeCmd ctx).storageWf = true := by
  simp [State.takeCmd, h]

theorem State.storageWf_command {s : State} (h : s.storageWf = true) (ctx code : Nat) (seq : Word) (loc : DWord)
    {body : State → DbgEvent × State} (hb : ∀ t, t.storageWf = true → (body t).2.storageWf = true) :
    (s.command ctx code seq loc body).storageWf = true := by
  have ht := State.storageWf_takeCmd h ctx
  simp only [State.command]
  split
  · exact State.storageWf_dbgPost (hb _ ht) _ _
  · exact State.storageWf_dbgPost ht _ _

theorem State.storageWf_groupCommand {s : State} (h : s.storageWf = true) (ctx code : Nat) (seq : Word) (loc : DWord)
    {body : State → Nat → Group → DbgEvent × State} (hb : ∀ t i g, t.storageWf = true → (body t i g).2.storageWf = true) :
    (s.groupCommand ctx code seq loc body).storageWf = true := by
  refine State.storageWf_command h _ _ _ _ fun t ht => ?_
  split
  · exact ht
  · exact hb _ _ _ ht

@[simp] theorem State.storageWf_allGroups {s : State} (h : s.storageWf = true) (ctx : Nat) (f : Group → Group) :
    (s.allGroups ctx f).storageWf = true := h

@[simp] theorem State.storageWf_cmdGroups {s : State} (h : s.storageWf = true) (ctx : Nat) (loc : DWord) (f : Group → Group) :
    (s.cmdGroups ctx loc f).2.storageWf = true := by
  unfold State.cmdGroups
  split
  · split <;> simp [h]
  · split <;> simp [h]

@[simp] theorem State.storageWf_endMonitor {s : State} (h : s.storageWf = true) (gid : Nat) :
    (s.endMonitor gid).storageWf = true := by
  unfold State.endMonitor
  split <;> simp [h, State.storageWf_release]

@[simp] theorem State.storageWf_endSession {s : State} (h : s.storageWf = true) (ctx : Nat) :
    (s.endSession ctx).storageWf = true := by
  refine (State.storageWf_updCtx _ _).trans ?_
  refine State.storageWf_endMonitor (State.storageWf_dbgPost (State.storageWf_allGroups ?_ _ _) _ _) _
  refine storageWf_foldl _ (fun t i ht => ?_) _ _ ?_
  · split
    · exact State.storageWf_dbgPost (State.storageWf_takeCmd ht _) _ _
    · exact ht
  · exact h

@[simp] theorem State.storageWf_startMonitor {s : State} (h : s.storageWf = true) (ctx core : Nat) :
    (s.startMonitor ctx core).storageWf = true := h

@[simp] theorem State.storageWf_cmdWrite {s : State} (h : s.storageWf = true) (gid : Nat) (g : Group) (sp : Space)
    (bs : List (Place × Byte)) : (s.cmdWrite gid g sp bs).storageWf = true := by
  simp [State.cmdWrite, h, State.storageWf_settle]

theorem keeps_execAttach {s : State} (h : s.storageWf = true) (ctx : Nat) (cmd : CmdHead) : Keeps (execAttach ctx cmd s) := by
  have ht := State.storageWf_takeCmd h ctx
  simp only [execAttach, keeps_next]
  split
  · exact State.storageWf_dbgPost ht _ _
  · next c _ =>
    split
    · exact h
    · split
      · exact State.storageWf_dbgPost ht _ _
      · split
        · exact State.storageWf_dbgPost ht _ _
        · refine State.storageWf_dbgPost ?_ _ _
          split
          · exact ht
          · cases (s.takeCmd ctx).monitorCore c with
            | none => exact ht
            | some k => exact State.storageWf_startMonitor ht _ _

theorem keeps_execDetach {s : State} (h : s.storageWf = true) (ctx : Nat) (cmd : CmdHead) : Keeps (execDetach ctx cmd s) := by
  have ht : (s.command ctx 0x02 cmd.seq cmd.loc (fun s =>
      (bareReply 0x02 (if allBit cmd.loc then 2 else 0) cmd.seq cmd.loc, s))).storageWf = true :=
    State.storageWf_command h _ _ _ _ fun t ht => ht
  refine keeps_next.mpr ?_
  split
  · exact State.storageWf_endSession ht _
  · exact ht

theorem keeps_execHalt {s : State} (h : s.storageWf = true) (ctx : Nat) (seq : Word) (loc : DWord) :
    Keeps (execHalt ctx seq loc s) := by
  refine keeps_next.mpr ?_
  split
  · exact State.storageWf_cmdGroups h _ _ _
  · exact State.storageWf_command h _ _ _ _ fun _ ht => State.storageWf_cmdGroups ht _ _ _

theorem keeps_execResume {s : State} (h : s.storageWf = true) (ctx : Nat) (seq : Word) (loc : DWord) :
    Keeps (execResume ctx seq loc s) :=
  keeps_next.mpr (State.storageWf_command h _ _ _ _ fun _ ht => State.storageWf_cmdGroups ht _ _ _)

theorem keeps_execStep {s : State} (h : s.storageWf = true) (ctx : Nat) (seq : Word) (loc : DWord) :
    Keeps (execStep ctx seq loc s) :=
  keeps_next.mpr (State.storageWf_command h _ _ _ _ fun _ ht => State.storageWf_cmdGroups ht _ _ _)

theorem keeps_execRewind {s : State} (h : s.storageWf = true) (ctx : Nat) (seq : Word) (loc target info : DWord) :
    Keeps (execRewind ctx seq loc target info s) := by
  have hc (e : DbgEvent) : (s.command ctx 0x06 seq loc (fun s => (e, s))).storageWf = true :=
    State.storageWf_command h _ _ _ _ fun t ht => ht
  simp only [execRewind, keeps_next]
  split
  · exact h
  · split
    · exact hc _
    · split
      · exact hc _
      · split
        · exact hc _
        · split
          · exact hc _
          · exact State.storageWf_orderRev (State.storageWf_takeCmd h _) _ _ _

theorem keeps_execRead {s : State} (h : s.storageWf = true) (ctx : Nat) (seq : Word) (loc sel : DWord) :
    Keeps (execRead ctx seq loc sel s) := by
  refine keeps_next.mpr ?_
  split
  · exact h
  · refine State.storageWf_groupCommand h _ _ _ _ fun t i g ht => ?_
    split <;> exact ht

theorem keeps_execWrite {s : State} (h : s.storageWf = true) (ctx : Nat) (seq : Word) (loc sel val : DWord) :
    Keeps (execWrite ctx seq loc sel val s) := by
  refine keeps_next.mpr ?_
  split
  · exact h
  · refine State.storageWf_groupCommand h _ _ _ _ fun t i g ht => ?_
    split
    · next u hu => exact State.keepsSome_editGroup ht i g sel val u hu
    · exact ht

theorem keeps_execReadmem {s : State} (h : s.storageWf = true) (ctx : Nat) (seq : Word) (loc addr len space : DWord) :
    Keeps (execReadmem ctx seq loc addr len space s) := by
  refine keeps_next.mpr (State.storageWf_groupCommand h _ _ _ _ fun t i g ht => ?_)
  dsimp only
  split <;> exact ht

theorem keeps_execWritemem {s : State} (h : s.storageWf = true) (ctx : Nat) (seq : Word) (loc addr data mode : DWord) :
    Keeps (execWritemem ctx seq loc addr data mode s) := by
  refine keeps_next.mpr (State.storageWf_groupCommand h _ _ _ _ fun t i g ht => ?_)
  dsimp only
  split
  · exact State.storageWf_cmdWrite ht _ _ _ _
  · exact ht

theorem keeps_execDump {s : State} (h : s.storageWf = true) (ctx : Nat) (cmd : CmdHead) (buf len : DWord) :
    Keeps (execDump ctx cmd buf len s) := by
  simp only [execDump, keeps_next]
  split
  · split
    · exact State.storageWf_command h _ _ _ _ fun t ht => State.storageWf_writeDump ht _
    · exact h
  · exact State.storageWf_command h _ _ _ _ fun t ht => ht

theorem keeps_execEvtHead {s : State} (h : s.storageWf = true) (ctx : Nat) (w : HostWrite) : Keeps (execEvtHead ctx w s) := by
  unfold execEvtHead
  split
  · simp [h]
  · split <;> simp [h]

theorem keeps_execRemoveContext {s : State} (h : s.storageWf = true) (ctx : Nat) : Keeps (execRemoveContext ctx s) := by
  have ht : State.storageWf (if s.session ctx then s.endSession ctx else s) = true := by
    split
    · exact State.storageWf_endSession h _
    · exact h
  simp only [execRemoveContext, keeps_next]
  split
  · exact h
  · exact State.storageWf_retryAll (State.storageWf_dropContext ht _)

theorem keeps_execDebugRevoke {s : State} (h : s.storageWf = true) (ctx : Nat) : Keeps (execDebugRevoke ctx s) := by
  unfold execDebugRevoke
  split <;> simp [h]

/-! Peers and links. -/

@[simp] theorem State.keepsSome_peerPort {s : State} (h : s.storageWf = true) (f : Frame) : KeepsSome (s.peerPort f) := by
  simp [State.peerPort, h]

@[simp] theorem State.storageWf_ack {s : State} (h : s.storageWf = true) (f : Frame) : (s.ack f).storageWf = true := h

@[simp] theorem State.storageWf_sendBack {s : State} (h : s.storageWf = true) (f : Frame) : (s.sendBack f).storageWf = true := h

@[simp] theorem State.storageWf_peerPut {s : State} (h : s.storageWf = true) (q : PeerQueue) (f : Frame) :
    (s.peerPut q f).storageWf = true := by
  refine State.storageWf_ack (State.storageWf_writeHome (State.storageWf_settle ?_)) _
  exact State.storageWf_putBytes (State.storageWf_putBytes h _ _) _ _

@[simp] theorem State.storageWf_holdFrame {s : State} (h : s.storageWf = true) (f : Frame) : (s.holdFrame f).storageWf = true :=
  h

theorem keeps_execThohelFrameRx {s : State} (h : s.storageWf = true) (f : Frame) : Keeps (execThohelFrameRx f s) := by
  refine keeps_next.mpr ?_
  split
  · exact h
  · split
    · split <;> exact h
    · split
      · split <;> exact h
      · split
        · refine State.storageWf_peerPut ?_ _ _
          exact h
        · exact h

@[simp] theorem State.keepsSome_heldPort {s : State} (h : s.storageWf = true) (idx : Nat) : KeepsSome (s.heldPort idx) := by
  simp [State.heldPort, h]

theorem keeps_execPeerHeldEnqueue {s : State} (h : s.storageWf = true) (idx : Nat) : Keeps (execPeerHeldEnqueue idx s) := by
  unfold execPeerHeldEnqueue
  split <;> simp [h]

theorem keeps_execThohelAck {s : State} (h : s.storageWf = true) (dst seq : Nat) : Keeps (execThohelAck dst seq s) := by
  unfold execThohelAck
  dsimp only
  split
  · simp [h]
  · split
    · simp [h]
    · split <;> simp [h]

theorem keeps_execMessageReturn {s : State} (h : s.storageWf = true) (dst seq : Nat) : Keeps (execMessageReturn dst seq s) := by
  unfold execMessageReturn
  split <;> simp [h]

@[simp] theorem State.storageWf_retransmit {s : State} (h : s.storageWf = true) (link : Nat) :
    (s.retransmit link).storageWf = true := by
  refine storageWf_foldl _ (fun t a ht => ?_) _ _ h
  simp [ht]

theorem keeps_execLinkRetrain {s : State} (h : s.storageWf = true) (l : Link) : Keeps (execLinkRetrain l s) := by
  unfold execLinkRetrain
  split
  · split <;> simp [h]
  · simp [h]

theorem keeps_execCxlLinkFail {s : State} (h : s.storageWf = true) (port : Nat) (remap : Bool) (ds : List Decoder) :
    Keeps (execCxlLinkFail port remap ds s) := by
  unfold execCxlLinkFail
  split
  · split <;> simp [h]
  · split <;> simp [h]

/-! Dumps. -/

@[simp] theorem State.storageWf_mgmtRec {s : State} (h : s.storageWf = true) (kind port ctx : Nat) (detail : DWord) :
    (s.mgmtRec kind port ctx detail).storageWf = true := h

@[simp] theorem State.storageWf_cutDump {s : State} (h : s.storageWf = true) (d : Dump) : (s.cutDump d).storageWf = true := h

theorem keeps_execDumpWriteFault {s : State} (h : s.storageWf = true) (offset err : Nat) (rewritten linkLost : Bool) :
    Keeps (execDumpWriteFault offset err rewritten linkLost s) := by
  unfold execDumpWriteFault
  refine keeps_next.mpr ?_
  split
  · exact h
  · simp only [State.storageWf_mk, wfStore_state]
    refine State.storageWf_mgmtRec ?_ _ _ _ _
    split
    · exact State.storageWf_putHost (State.storageWf_cutDump h _) _ _
    · exact State.storageWf_cutDump h _

theorem keeps_execMctpDumpRead {s : State} (h : s.storageWf = true) (r : DumpRead) : Keeps (execMctpDumpRead r s) := by
  unfold execMctpDumpRead
  split <;> simp [h]

theorem keeps_execDumpflt {s : State} (h : s.storageWf = true) : Keeps (execDumpflt s) := by
  simp [execDumpflt, h]

end Sys2Proof.Machine
end

section
/-! Proofs/SchedKeeps: the management side, boot and the clauses keep the storage canonical (19_debug_host R423 to R438,
03_group_state R57 to R90). -/

namespace Sys2Proof.Machine

theorem Tbl.mem_of_mem_del {α : Type} {t : Tbl α} {a : Nat} {c : Nat × α} (h : c ∈ t.del a) : c ∈ t := by
  induction t with
  | nil => exact h
  | cons d t ih =>
    obtain ⟨k, x⟩ := d
    simp only [Tbl.del] at h
    split at h
    · exact h
    · split at h
      · exact List.mem_cons_of_mem _ ((List.dropWhile_suffix _).subset h)
      · exact (List.mem_cons.mp h).elim (fun he => he ▸ List.mem_cons_self) fun ht => List.mem_cons_of_mem _ (ih ht)

/-! Management and boot. -/

theorem keeps_execRegisterWrite {s : State} (h : s.storageWf = true) (r : RegAddr) (val : DWord) :
    Keeps (execRegisterWrite r val s) := by
  unfold execRegisterWrite
  split <;> simp [h]

theorem keeps_execAttestationRequest {s : State} (h : s.storageWf = true) (nonce : List Byte) :
    Keeps (execAttestationRequest nonce s) := by
  unfold execAttestationRequest
  split <;> simp [h]

theorem keeps_execPowerLimitSet {s : State} (h : s.storageWf = true) (watts : Nat) : Keeps (execPowerLimitSet watts s) := by
  unfold execPowerLimitSet
  split <;> simp [h]

theorem keeps_execFieldHourRollover {s : State} (h : s.storageWf = true) : Keeps (execFieldHourRollover s) := by
  simp [execFieldHourRollover, h]

@[simp] theorem State.storageWf_emptyCore {s : State} (h : s.storageWf = true) (core : Nat) :
    (s.emptyCore core).storageWf = true := by
  have hs := State.storageWf_settle (State.storageWf_drainCore (State.storageWf_writeBack h core) core)
  unfold State.emptyCore
  dsimp only
  generalize ((s.writeBack core).drainCore core).settle = t at hs ⊢
  have hd : ((t.core core).l1.foldl (fun s x => s.dropCopy core x.line) t).storageWf = true :=
    storageWf_foldl _ (fun u x hu => State.storageWf_dropCopy hu _ _) _ _ hs
  generalize (t.core core).l1.foldl _ t = u at hd ⊢
  obtain ⟨hm, hp, hc⟩ := u.storageWf_iff.mp hd
  exact (State.storageWf_iff _).mpr ⟨hm, hp, fun c hx => hc c (Tbl.mem_of_mem_del hx)⟩

theorem keeps_execCoreRetire {s : State} (h : s.storageWf = true) (core : Nat) : Keeps (execCoreRetire core s) := by
  have he := State.storageWf_mgmtRec (State.storageWf_emptyCore h core) 2 (core / 64) 0 (w64 core)
  simp only [execCoreRetire, keeps_next]
  split
  · simpa using he
  · exact h

theorem keeps_execCoreDisable {s : State} (h : s.storageWf = true) (core : Nat) : Keeps (execCoreDisable core s) := by
  have he := State.storageWf_mgmtRec (State.storageWf_emptyCore h core) 3 (core / 64) 0 (w64 core)
  simp only [execCoreDisable, keeps_next]
  split
  · simpa using he
  · exact h

@[simp] theorem State.storageWf_enterTherm {s : State} (h : s.storageWf = true) (die state : Nat) :
    (s.enterTherm die state).storageWf = true := h

@[simp] theorem State.storageWf_coolDie {s : State} (h : s.storageWf = true) (die : Nat) : (s.coolDie die).storageWf = true := h

theorem keeps_execThermalThrottle {s : State} (h : s.storageWf = true) (d : DieTemp) : Keeps (execThermalThrottle d s) := by
  unfold execThermalThrottle
  split
  · split <;> simp [h]
  · simp [h]

theorem keeps_execThermalCritical {s : State} (h : s.storageWf = true) (die : Nat) : Keeps (execThermalCritical die s) := by
  unfold execThermalCritical
  split <;> simp [h]

theorem keeps_execThermalNormal {s : State} (h : s.storageWf = true) : Keeps (execThermalNormal s) :=
  keeps_next.mpr (storageWf_foldl _ (fun _ n ht => State.storageWf_coolDie ht n) _ s h)

@[simp] theorem State.storageWf_startBerm {s : State} (h : s.storageWf = true) (b : BootParams) :
    (s.startBerm b).storageWf = true := by
  refine storageWf_foldl _ (fun t a ht => ?_) _ _ h
  simp [ht]

@[simp] theorem State.storageWf_bootStep {s : State} (h : s.storageWf = true) (b : BootParams) :
    (s.bootStep b).storageWf = true := by
  unfold State.bootStep
  dsimp only
  split <;> simp [h]

theorem keeps_execDeviceReset {s : State} (h : s.storageWf = true) (b : BootParams) : Keeps (execDeviceReset b s) := by
  refine keeps_next.mpr ?_
  split
  · exact State.storageWf_bootStep h b
  · simp [wfStore, State.resetOf, State.mem_wf h, Cells.wf]

/-! Clauses. -/

@[simp] theorem State.storageWf_headerFault {s : State} (h : s.storageWf = true) (gid : Nat) (g : Group) (n : Nat)
    (cause : Cause) (a : CAddr) (detA : DWord) : (s.headerFault gid g n cause a detA).storageWf = true := by
  simp [State.headerFault, h]

@[simp] theorem State.storageWf_advance {s : State} (h : s.storageWf = true) (quad : Nat) : (s.advance quad).storageWf = true := by
  unfold State.advance
  dsimp only
  split <;> simp [h]

@[simp] theorem State.storageWf_enterClause {s : State} (h : s.storageWf = true) (gid : Nat) (b : Boundary)
    (hdr : Option (Header × CAddr)) : (s.enterClause gid b hdr).storageWf = true := by
  have hj (l : List HKind) : (l.foldl (fun s e => match e with
      | .merge k r .. => s.joinScores gid k r
      | _ => s) s).storageWf = true := by
    refine storageWf_foldl _ (fun t e ht => ?_) _ s h
    split
    · exact State.storageWf_joinScores ht _ _ _
    · exact ht
  unfold State.enterClause
  dsimp only
  split
  · split
    · exact State.storageWf_emulate (hj _) _ _ _ _ _ _ _ _ _ _ _
    · exact State.storageWf_advance (s := State.setGroup _ gid _) (hj _) _
  · exact State.storageWf_advance (s := State.setGroup _ gid _) (hj _) _

@[simp] theorem State.storageWf_boundaryDefault {s : State} (h : s.storageWf = true) (gid : Nat) (g : Group) (b : Boundary)
    (a : CAddr) (hdr : Option (Header × CAddr)) : (s.boundaryDefault gid g b a hdr).storageWf = true := by
  unfold State.boundaryDefault
  dsimp only
  split
  · simp [h]
  · split <;> simp [h]

@[simp] theorem State.storageWf_takeBoundary {s : State} (h : s.storageWf = true) (gid : Nat) (g : Group) (b : Boundary)
    (hdr : Option (Header × CAddr)) : (s.takeBoundary gid g b hdr).storageWf = true := by
  unfold State.takeBoundary
  dsimp only
  split
  · exact h
  · split
    · exact State.storageWf_enterClause h _ _ _
    · split
      · exact State.storageWf_boundaryDefault h _ _ _ _ _
      · split
        · exact State.storageWf_headerFault h _ _ _ _ _ _
        · split
          · exact State.storageWf_enterAt h _ _ _
          · exact State.storageWf_boundaryDefault h _ _ _ _ _

@[simp] theorem State.storageWf_startAt {s : State} (h : s.storageWf = true) (gid : Nat) (g : Group) (b : Boundary) :
    (s.startAt gid g b).storageWf = true := by
  unfold State.startAt
  split
  · simp [h]
  · split
    · simp [h]
    · split <;> simp [h]

theorem keeps_execClauseStart {s : State} (h : s.storageWf = true) (gid : Nat) : Keeps (execClauseStart gid s) := by
  refine keeps_next.mpr ?_
  split
  · exact h
  · split
    · exact h
    · split
      · exact State.storageWf_impreciseWith h _ _ _ _ _ _
      · split
        · exact State.storageWf_headerFault h _ _ _ _ _ _
        · split
          · exact h
          · exact State.storageWf_startAt h _ _ _

/-! The ends of CONV, BAR and GROW. -/

theorem keeps_execConvComplete {s : State} (h : s.storageWf = true) (gid : Nat) : Keeps (execConvComplete gid s) := by
  unfold execConvComplete
  split
  · simp [h]
  · split <;> simp [h]

theorem keeps_execBarComplete {s : State} (h : s.storageWf = true) (team : Nat) : Keeps (execBarComplete team s) := by
  unfold execBarComplete
  split <;> simp [h]

theorem keeps_execGrowGrant {s : State} (h : s.storageWf = true) (core quad : Nat) : Keeps (execGrowGrant core quad s) := by
  unfold execGrowGrant
  split <;> simp [h]

theorem keeps_execGrowFail {s : State} (h : s.storageWf = true) (core : Nat) : Keeps (execGrowFail core s) := by
  unfold execGrowFail
  split <;> simp [h]

theorem keeps_execGroupHalt {s : State} (h : s.storageWf = true) (gid : Nat) : Keeps (execGroupHalt gid s) := by
  simp [execGroupHalt, h]

end Sys2Proof.Machine
end

section
/-! Proofs/RegisterKeeps: the instructions over a group's registers alone leave the storage as it is (04_lane_integer_control R98 to
R133, 05_float R136 to R161, 08_cross_lane R162 to R174). -/

namespace Sys2Proof.Machine

section
variable {s : State} (h : s.storageWf = true)
include h

theorem keeps_execIadd (z sat : Bool) (o : L2) : Keeps (execIadd z sat o s) :=
  keeps_regOp h (fun c => by simp) _ _

theorem keeps_execIaddL96 (z sat : Bool) (o : L2L) : Keeps (execIaddL96 z sat o s) :=
  keeps_regOp h (fun c => by simp) _ _

theorem keeps_execIsub (z sat : Bool) (o : L2) : Keeps (execIsub z sat o s) :=
  keeps_regOp h (fun c => by simp) _ _

theorem keeps_execIsubL96 (z sat : Bool) (o : L2L) : Keeps (execIsubL96 z sat o s) :=
  keeps_regOp h (fun c => by simp) _ _

theorem keeps_execIneg (sat : Bool) (o : L1) : Keeps (execIneg sat o s) :=
  keeps_regOp h (fun c => by simp) _ _

theorem keeps_execIadd3 (o : L3) : Keeps (execIadd3 o s) :=
  keeps_regOp h (fun c => by simp) _ _

theorem keeps_execIadd64 (z sat : Bool) (o : L2) : Keeps (execIadd64 z sat o s) :=
  keeps_regOp h (fun c => by simp) _ _

theorem keeps_execIsub64 (z sat : Bool) (o : L2) : Keeps (execIsub64 z sat o s) :=
  keeps_regOp h (fun c => by simp) _ _

theorem keeps_execImul (o : L2) : Keeps (execImul o s) :=
  keeps_regOp h (fun c => by simp) _ _

theorem keeps_execImulL96 (o : L2L) : Keeps (execImulL96 o s) :=
  keeps_regOp h (fun c => by simp) _ _

theorem keeps_execImulhi (z : Bool) (o : L2) : Keeps (execImulhi z o s) :=
  keeps_regOp h (fun c => by simp) _ _

theorem keeps_execImad (o : L3) : Keeps (execImad o s) :=
  keeps_regOp h (fun c => by simp) _ _

theorem keeps_execImadL96 (o : L3L) : Keeps (execImadL96 o s) :=
  keeps_regOp h (fun c => by simp) _ _

theorem keeps_execImadhi (z : Bool) (o : L3) : Keeps (execImadhi z o s) :=
  keeps_regOp h (fun c => by simp) _ _

theorem keeps_execImin (z : Bool) (o : L2) : Keeps (execImin z o s) :=
  keeps_regOp h (fun c => by simp) _ _

theorem keeps_execIminL96 (z : Bool) (o : L2L) : Keeps (execIminL96 z o s) :=
  keeps_regOp h (fun c => by simp) _ _

theorem keeps_execImax (z : Bool) (o : L2) : Keeps (execImax z o s) :=
  keeps_regOp h (fun c => by simp) _ _

theorem keeps_execImaxL96 (z : Bool) (o : L2L) : Keeps (execImaxL96 z o s) :=
  keeps_regOp h (fun c => by simp) _ _

theorem keeps_execIabs (sat : Bool) (o : L1) : Keeps (execIabs sat o s) :=
  keeps_regOp h (fun c => by simp) _ _

theorem keeps_execIdiv (z : Bool) (o : L2) : Keeps (execIdiv z o s) :=
  keeps_regOp h (fun c => by simp) _ _

theorem keeps_execIrem (z : Bool) (o : L2) : Keeps (execIrem z o s) :=
  keeps_regOp h (fun c => by simp) _ _

theorem keeps_execAddS (d a : VReg) : Keeps (execAddS d a s) :=
  keeps_regOp h (fun c => by simp) _ _

theorem keeps_execSubS (d a : VReg) : Keeps (execSubS d a s) :=
  keeps_regOp h (fun c => by simp) _ _

theorem keeps_execXorS (d a : VReg) : Keeps (execXorS d a s) :=
  keeps_regOp h (fun c => by simp) _ _

theorem keeps_execRotlS (d a : VReg) : Keeps (execRotlS d a s) :=
  keeps_regOp h (fun c => by simp) _ _

theorem keeps_execNegS (d : VReg) : Keeps (execNegS d s) :=
  keeps_regOp h (fun c => by simp) _ _

theorem keeps_execShl (o : Shift) : Keeps (execShl o s) :=
  keeps_regOp h (fun c => by simp) _ _

theorem keeps_execShr (o : Shift) : Keeps (execShr o s) :=
  keeps_regOp h (fun c => by simp) _ _

theorem keeps_execSar (o : Shift) : Keeps (execSar o s) :=
  keeps_regOp h (fun c => by simp) _ _

theorem keeps_execRotl (o : Shift) : Keeps (execRotl o s) :=
  keeps_regOp h (fun c => by simp) _ _

theorem keeps_execRotr (o : Shift) : Keeps (execRotr o s) :=
  keeps_regOp h (fun c => by simp) _ _

theorem keeps_execShf (r : Bool) (g : Guard) (d : VReg) (hi lo : Src) (amt : ShfAmt) : Keeps (execShf r g d hi lo amt s) := by
  refine keeps_regOp h (fun c => ?_) _ _
  cases amt <;> simp

theorem keeps_execPopc (o : L1) : Keeps (execPopc o s) :=
  keeps_regOp h (fun c => by simp) _ _

theorem keeps_execClz (o : L1) : Keeps (execClz o s) :=
  keeps_regOp h (fun c => by simp) _ _

theorem keeps_execBrev (o : L1) : Keeps (execBrev o s) :=
  keeps_regOp h (fun c => by simp) _ _

theorem keeps_execBfe (sx : Bool) (o : L2) : Keeps (execBfe sx o s) :=
  keeps_regOp h (fun c => by simp) _ _

theorem keeps_execBfi (o : L3) : Keeps (execBfi o s) :=
  keeps_regOp h (fun c => by simp) _ _

theorem keeps_execAnd (o : L2) : Keeps (execAnd o s) :=
  keeps_regOp h (fun c => by simp) _ _

theorem keeps_execAndL96 (o : L2L) : Keeps (execAndL96 o s) :=
  keeps_regOp h (fun c => by simp) _ _

theorem keeps_execOr (o : L2) : Keeps (execOr o s) :=
  keeps_regOp h (fun c => by simp) _ _

theorem keeps_execOrL96 (o : L2L) : Keeps (execOrL96 o s) :=
  keeps_regOp h (fun c => by simp) _ _

theorem keeps_execXor (o : L2) : Keeps (execXor o s) :=
  keeps_regOp h (fun c => by simp) _ _

theorem keeps_execXorL96 (o : L2L) : Keeps (execXorL96 o s) :=
  keeps_regOp h (fun c => by simp) _ _

theorem keeps_execNot (d a : VReg) : Keeps (execNot d a s) :=
  keeps_regOp h (fun c => by simp) _ _

theorem keeps_execNotW64 (o : L1) : Keeps (execNotW64 o s) :=
  keeps_regOp h (fun c => by simp) _ _

theorem keeps_execTril (g : Guard) (d : VReg) (a b : Src) (e : VReg) (table : Byte) : Keeps (execTril g d a b e table s) :=
  keeps_regOp h (fun c => by simp) _ _

theorem keeps_execPand (na nb : Bool) (o : P2) : Keeps (execPand na nb o s) :=
  keeps_regOp h (fun c => by simp) _ _

theorem keeps_execPor (na nb : Bool) (o : P2) : Keeps (execPor na nb o s) :=
  keeps_regOp h (fun c => by simp) _ _

theorem keeps_execPxor (na nb : Bool) (o : P2) : Keeps (execPxor na nb o s) :=
  keeps_regOp h (fun c => by simp) _ _

theorem keeps_execPnot (g : Guard) (d a : PReg) : Keeps (execPnot g d a s) :=
  keeps_regOp h (fun c => by simp) _ _

theorem keeps_execPtov (g : Guard) (d : VReg) (a : PReg) (n : BitVec 8) : Keeps (execPtov g d a n s) :=
  keeps_regOp h (fun c => by simp) _ _

theorem keeps_execVtop (g : Guard) (d : PReg) (a : Src) (n : BitVec 8) : Keeps (execVtop g d a n s) :=
  keeps_regOp h (fun c => by simp) _ _

theorem keeps_execIsetp (cc : Cc) (z : Bool) (bop : Bop) (o : SetP) : Keeps (execIsetp cc z bop o s) :=
  keeps_regOp h (fun c => by simp) _ _

theorem keeps_execIsetpL96 (cc : Cc) (z : Bool) (bop : Bop) (o : SetPL) : Keeps (execIsetpL96 cc z bop o s) :=
  keeps_regOp h (fun c => by simp) _ _

theorem keeps_execFsetp (cc : FCc) (u : Bool) (bop : Bop) (o : SetP) : Keeps (execFsetp cc u bop o s) :=
  keeps_regOp h (fun c => by simp) _ _

theorem keeps_execFsetpL96 (cc : FCc) (u : Bool) (bop : Bop) (o : SetPL) : Keeps (execFsetpL96 cc u bop o s) :=
  keeps_regOp h (fun c => by simp) _ _

theorem keeps_execKsetp (cc : Cc) (z : Bool) (bop : Bop) (g : Guard) (d : PReg) (a b : KReg) (e : PReg)
    : Keeps (execKsetp cc z bop g d a b e s) :=
  keeps_regOp h (fun c => by simp) _ _

theorem keeps_execKsetpL96 (cc : Cc) (z : Bool) (bop : Bop) (g : Guard) (d : PReg) (a : KReg) (lit : Word) (e : PReg)
    : Keeps (execKsetpL96 cc z bop g d a lit e s) :=
  keeps_regOp h (fun c => by simp) _ _

theorem keeps_execSel (nc : Bool) (g : Guard) (d : VReg) (a b : Src) (e : PReg) : Keeps (execSel nc g d a b e s) :=
  keeps_regOp h (fun c => by simp) _ _

theorem keeps_execMov (d a : VReg) : Keeps (execMov d a s) :=
  keeps_regOp h (fun c => by simp) _ _

theorem keeps_execMovW64 (g : Guard) (d : VReg) (a : LSrc) : Keeps (execMovW64 g d a s) :=
  keeps_regOp h (fun c => by simp) _ _

theorem keeps_execMovi (g : Guard) (d : VReg) (lit : Word) : Keeps (execMovi g d lit s) :=
  keeps_regOp h (fun c => by simp) _ _

theorem keeps_execMovk (hi : Bool) (g : Guard) (d : VReg) (a : KReg) : Keeps (execMovk hi g d a s) :=
  keeps_regOp h (fun c => by simp) _ _

theorem keeps_execSwap (d a : VReg) : Keeps (execSwap d a s) :=
  keeps_regOp h (fun c => by simp) _ _

theorem keeps_execSwapW64 (g : Guard) (d : VReg) (a : LSrc) : Keeps (execSwapW64 g d a s) :=
  keeps_regOp h (fun c => by simp) _ _

theorem keeps_execFadd (m : FMod) (o : L2) : Keeps (execFadd m o s) :=
  keeps_regOp h (fun c => by simp) _ _

theorem keeps_execFaddL96 (m : FMod) (o : L2L) : Keeps (execFaddL96 m o s) :=
  keeps_regOp h (fun c => by simp) _ _

theorem keeps_execFsub (m : FMod) (o : L2) : Keeps (execFsub m o s) :=
  keeps_regOp h (fun c => by simp) _ _

theorem keeps_execFsubL96 (m : FMod) (o : L2L) : Keeps (execFsubL96 m o s) :=
  keeps_regOp h (fun c => by simp) _ _

theorem keeps_execFmul (m : FMod) (o : L2) : Keeps (execFmul m o s) :=
  keeps_regOp h (fun c => by simp) _ _

theorem keeps_execFmulL96 (m : FMod) (o : L2L) : Keeps (execFmulL96 m o s) :=
  keeps_regOp h (fun c => by simp) _ _

theorem keeps_execFfma (m : FMod) (o : L3) : Keeps (execFfma m o s) :=
  keeps_regOp h (fun c => by simp) _ _

theorem keeps_execFfmaL96 (m : FMod) (o : L3L) : Keeps (execFfmaL96 m o s) :=
  keeps_regOp h (fun c => by simp) _ _

theorem keeps_execFmin (m : ANeg) (o : L2) : Keeps (execFmin m o s) :=
  keeps_regOp h (fun c => by simp) _ _

theorem keeps_execFmax (m : ANeg) (o : L2) : Keeps (execFmax m o s) :=
  keeps_regOp h (fun c => by simp) _ _

theorem keeps_execFclass (fmt : FFmt) (hs : Bool) (o : L1) : Keeps (execFclass fmt hs o s) :=
  keeps_regOp h (fun c => by simp) _ _

theorem keeps_execFrcp (m : FMod) (o : L1) : Keeps (execFrcp m o s) :=
  keeps_regOp h (fun c => by simp) _ _

theorem keeps_execFrsq (m : ANeg) (o : L1) : Keeps (execFrsq m o s) :=
  keeps_regOp h (fun c => by simp) _ _

theorem keeps_execFsqrt (m : FMod) (o : L1) : Keeps (execFsqrt m o s) :=
  keeps_regOp h (fun c => by simp) _ _

theorem keeps_execFexp2 (m : ANeg) (o : L1) : Keeps (execFexp2 m o s) :=
  keeps_regOp h (fun c => by simp) _ _

theorem keeps_execFlog2 (m : ANeg) (o : L1) : Keeps (execFlog2 m o s) :=
  keeps_regOp h (fun c => by simp) _ _

theorem keeps_execFsin (m : ANeg) (o : L1) : Keeps (execFsin m o s) :=
  keeps_regOp h (fun c => by simp) _ _

theorem keeps_execFcos (m : ANeg) (o : L1) : Keeps (execFcos m o s) :=
  keeps_regOp h (fun c => by simp) _ _

theorem keeps_execPkadd (m : PkMod) (o : L2) : Keeps (execPkadd m o s) :=
  keeps_regOp h (fun c => by simp) _ _

theorem keeps_execPkaddL96 (m : PkMod) (o : L2L) : Keeps (execPkaddL96 m o s) :=
  keeps_regOp h (fun c => by simp) _ _

theorem keeps_execPkmul (m : PkMod) (o : L2) : Keeps (execPkmul m o s) :=
  keeps_regOp h (fun c => by simp) _ _

theorem keeps_execPkmulL96 (m : PkMod) (o : L2L) : Keeps (execPkmulL96 m o s) :=
  keeps_regOp h (fun c => by simp) _ _

theorem keeps_execPkfma (m : PkMod) (o : L3) : Keeps (execPkfma m o s) :=
  keeps_regOp h (fun c => by simp) _ _

theorem keeps_execPkfmaL96 (m : PkMod) (o : L3L) : Keeps (execPkfmaL96 m o s) :=
  keeps_regOp h (fun c => by simp) _ _

theorem keeps_execPkmin (bf16 neg x : Bool) (o : L2) : Keeps (execPkmin bf16 neg x o s) :=
  keeps_regOp h (fun c => by simp) _ _

theorem keeps_execPkmax (bf16 neg x : Bool) (o : L2) : Keeps (execPkmax bf16 neg x o s) :=
  keeps_regOp h (fun c => by simp) _ _

theorem keeps_execCvt (m : CvtMod) (dst src : CvtType) (g : Guard) (d : VReg) (a : Src) : Keeps (execCvt m dst src g d a s) :=
  keeps_regOp h (fun c => by simp) _ _

theorem keeps_execCvts (bf16 sat hd : Bool) (o : L2) : Keeps (execCvts bf16 sat hd o s) :=
  keeps_regOp h (fun c => by simp) _ _

theorem keeps_execCvt8 (o : Cvt8Op) : Keeps (execCvt8 o s) :=
  keeps_regOp h (fun c => by simp) _ _

theorem keeps_execCvtx (code : XSrc) (e5m2 hs : Bool) (o : L1) : Keeps (execCvtx code e5m2 hs o s) :=
  keeps_regOp h (fun c => by simp) _ _

theorem keeps_execCvtmx (src : MxSrc) (g : Guard) (d : VReg) (ks : KReg) (a : VReg) (n : BitVec 3)
    : Keeps (execCvtmx src g d ks a n s) :=
  keeps_regOp h (fun c => by simp) _ _

theorem keeps_execPack (m : PackMode) (o : L2) : Keeps (execPack m o s) :=
  keeps_regOp h (fun c => by simp) _ _

theorem keeps_execUnpack (b16 z : Bool) (g : Guard) (d : VReg) (a : Src) (n : BitVec 2) : Keeps (execUnpack b16 z g d a n s) :=
  keeps_regOp h (fun c => by simp) _ _

theorem keeps_execLget (m : LgMode) (seg : Seg) (g : Guard) (d a : VReg) (b : LgB) (pc : Option PReg)
    : Keeps (execLget m seg g d a b pc s) :=
  keeps_regOp h (fun c => by simp) _ _

theorem keeps_execPerm (b8 : Bool) (g : Guard) (d a : VReg) (b : Src) (pc : Option PReg) : Keeps (execPerm b8 g d a b pc s) :=
  keeps_regOp h (fun c => by simp) _ _

theorem keeps_execVote (dst : VoteDst) (na : Bool) (g : Guard) (a : PReg) : Keeps (execVote dst na g a s) :=
  keeps_regOp h (fun c => by simp) _ _

theorem keeps_execRedux (op : RedOp) (z : Bool) (g : Guard) (d : KReg) (a : LSrc) : Keeps (execRedux op z g d a s) :=
  keeps_regOp h (fun c => by simp) _ _

theorem keeps_execScan (exc : Bool) (g : Guard) (d : VReg) (a : LSrc) (kc : Option KReg) : Keeps (execScan exc g d a kc s) :=
  keeps_regOp h (fun c => by simp) _ _

theorem keeps_execMatch_ (w64 : Bool) (g : Guard) (d a : VReg) (pc : Option PReg) : Keeps (execMatch_ w64 g d a pc s) :=
  keeps_regOp h (fun c => by simp) _ _

theorem keeps_execIsect (g : Guard) (d : VReg) (kc : KReg) (a b : VReg) : Keeps (execIsect g d kc a b s) :=
  keeps_regOp h (fun c => by simp) _ _

theorem keeps_execKmov (g : Guard) (d a : KReg) : Keeps (execKmov g d a s) :=
  keeps_regOp h (fun c => by simp) _ _

theorem keeps_execKmovi (g : Guard) (d : KReg) (m : KmoviMode) (lit : Word) : Keeps (execKmovi g d m lit s) :=
  keeps_regOp h (fun c => by simp) _ _

theorem keeps_execKadd (o : K2) : Keeps (execKadd o s) :=
  keeps_regOp h (fun c => by simp) _ _

theorem keeps_execKaddL96 (o : K2L) : Keeps (execKaddL96 o s) :=
  keeps_regOp h (fun c => by simp) _ _

theorem keeps_execKsub (o : K2) : Keeps (execKsub o s) :=
  keeps_regOp h (fun c => by simp) _ _

theorem keeps_execKsubL96 (o : K2L) : Keeps (execKsubL96 o s) :=
  keeps_regOp h (fun c => by simp) _ _

theorem keeps_execKmul (o : K2) : Keeps (execKmul o s) :=
  keeps_regOp h (fun c => by simp) _ _

theorem keeps_execKmulL96 (o : K2L) : Keeps (execKmulL96 o s) :=
  keeps_regOp h (fun c => by simp) _ _

theorem keeps_execKand (o : K2) : Keeps (execKand o s) :=
  keeps_regOp h (fun c => by simp) _ _

theorem keeps_execKandL96 (o : K2L) : Keeps (execKandL96 o s) :=
  keeps_regOp h (fun c => by simp) _ _

theorem keeps_execKor (o : K2) : Keeps (execKor o s) :=
  keeps_regOp h (fun c => by simp) _ _

theorem keeps_execKorL96 (o : K2L) : Keeps (execKorL96 o s) :=
  keeps_regOp h (fun c => by simp) _ _

theorem keeps_execKxor (o : K2) : Keeps (execKxor o s) :=
  keeps_regOp h (fun c => by simp) _ _

theorem keeps_execKxorL96 (o : K2L) : Keeps (execKxorL96 o s) :=
  keeps_regOp h (fun c => by simp) _ _

theorem keeps_execKshl (g : Guard) (d a : KReg) (n : KAmt) : Keeps (execKshl g d a n s) :=
  keeps_regOp h (fun c => by simp) _ _

theorem keeps_execKshr (g : Guard) (d a : KReg) (n : KAmt) : Keeps (execKshr g d a n s) :=
  keeps_regOp h (fun c => by simp) _ _

theorem keeps_execMfs (g : Guard) (d : MfsDst) (sr : BitVec 8) : Keeps (execMfs g d sr s) := by
  refine keeps_regOp h (fun c => ?_) _ _
  cases d <;> simp

theorem keeps_execRdcf (g : Guard) (d : KReg) : Keeps (execRdcf g d s) :=
  keeps_regOp h (fun c => by simp) _ _

theorem keeps_execMark : Keeps (execMark s) :=
  keeps_regOp h (fun c => by simp) _ _

theorem keeps_execHstash (g : Guard) (a : KReg) : Keeps (execHstash g a s) :=
  keeps_regOp h (fun c => by simp) _ _

theorem keeps_execHquery (q : Query) (g : Guard) (d a : KReg) : Keeps (execHquery q g d a s) :=
  keeps_regOp h (fun c => by simp) _ _

theorem keeps_execNop : Keeps (execNop s) :=
  keeps_regOp h (fun c => by simp) _ _

theorem keeps_execNopW (g : Guard) : Keeps (execNopW g s) :=
  keeps_regOp h (fun c => by simp) _ _

theorem keeps_execNopL (g : Guard) (_lit : Word) : Keeps (execNopL g _lit s) :=
  keeps_regOp h (fun c => by simp) _ _

theorem keeps_execYield_ : Keeps (execYield_ s) :=
  keeps_regOp h (fun c => by simp) _ _

theorem keeps_execSatrd (g : Guard) (d : KReg) : Keeps (execSatrd g d s) :=
  keeps_regOp h (fun c => by simp) _ _

theorem keeps_execSatclr (g : Guard) (m : SatMask) : Keeps (execSatclr g m s) :=
  keeps_regOp h (fun c => by simp) _ _

end

end Sys2Proof.Machine
end

section
/-! Proofs/StepKeeps: every instruction and every step keeps the storage canonical (00_scope R4, R5, 06_memory_port R175). -/

namespace Sys2Proof.Machine

variable {s : State}

/-- What any instruction or event leads to. -/
theorem keeps_exec (h : s.storageWf = true) (i : Instr) : Keeps (exec i s) :=
  match i with
  | .iadd z sat o => keeps_execIadd h z sat o
  | .iaddL96 z sat o => keeps_execIaddL96 h z sat o
  | .isub z sat o => keeps_execIsub h z sat o
  | .isubL96 z sat o => keeps_execIsubL96 h z sat o
  | .ineg sat o => keeps_execIneg h sat o
  | .iadd3 o => keeps_execIadd3 h o
  | .iadd64 z sat o => keeps_execIadd64 h z sat o
  | .isub64 z sat o => keeps_execIsub64 h z sat o
  | .imul o => keeps_execImul h o
  | .imulL96 o => keeps_execImulL96 h o
  | .imulhi z o => keeps_execImulhi h z o
  | .imad o => keeps_execImad h o
  | .imadL96 o => keeps_execImadL96 h o
  | .imadhi z o => keeps_execImadhi h z o
  | .imin z o => keeps_execImin h z o
  | .iminL96 z o => keeps_execIminL96 h z o
  | .imax z o => keeps_execImax h z o
  | .imaxL96 z o => keeps_execImaxL96 h z o
  | .iabs sat o => keeps_execIabs h sat o
  | .idiv z o => keeps_execIdiv h z o
  | .irem z o => keeps_execIrem h z o
  | .addS d a => keeps_execAddS h d a
  | .subS d a => keeps_execSubS h d a
  | .xorS d a => keeps_execXorS h d a
  | .rotlS d a => keeps_execRotlS h d a
  | .negS d => keeps_execNegS h d
  | .shl o => keeps_execShl h o
  | .shr o => keeps_execShr h o
  | .sar o => keeps_execSar h o
  | .rotl o => keeps_execRotl h o
  | .rotr o => keeps_execRotr h o
  | .shf r g d hi lo amt => keeps_execShf h r g d hi lo amt
  | .popc o => keeps_execPopc h o
  | .clz o => keeps_execClz h o
  | .brev o => keeps_execBrev h o
  | .bfe sx o => keeps_execBfe h sx o
  | .bfi o => keeps_execBfi h o
  | .and o => keeps_execAnd h o
  | .andL96 o => keeps_execAndL96 h o
  | .or o => keeps_execOr h o
  | .orL96 o => keeps_execOrL96 h o
  | .xor o => keeps_execXor h o
  | .xorL96 o => keeps_execXorL96 h o
  | .not d a => keeps_execNot h d a
  | .notW64 o => keeps_execNotW64 h o
  | .tril g d a b c table => keeps_execTril h g d a b c table
  | .pand na nb o => keeps_execPand h na nb o
  | .por na nb o => keeps_execPor h na nb o
  | .pxor na nb o => keeps_execPxor h na nb o
  | .pnot g d a => keeps_execPnot h g d a
  | .ptov g d a n => keeps_execPtov h g d a n
  | .vtop g d a n => keeps_execVtop h g d a n
  | .isetp cc z bop o => keeps_execIsetp h cc z bop o
  | .isetpL96 cc z bop o => keeps_execIsetpL96 h cc z bop o
  | .fsetp cc unord bop o => keeps_execFsetp h cc unord bop o
  | .fsetpL96 cc unord bop o => keeps_execFsetpL96 h cc unord bop o
  | .ksetp cc z bop g d a b c => keeps_execKsetp h cc z bop g d a b c
  | .ksetpL96 cc z bop g d a lit c => keeps_execKsetpL96 h cc z bop g d a lit c
  | .sel nc g d a b c => keeps_execSel h nc g d a b c
  | .mov d a => keeps_execMov h d a
  | .movW64 g d a => keeps_execMovW64 h g d a
  | .movi g d lit => keeps_execMovi h g d lit
  | .movk hi g d a => keeps_execMovk h hi g d a
  | .swap d a => keeps_execSwap h d a
  | .swapW64 g d a => keeps_execSwapW64 h g d a
  | .mfs g d sr => keeps_execMfs h g d sr
  | .mts g sr a => keeps_execMts h g sr a
  | .kmov g d a => keeps_execKmov h g d a
  | .kmovi g d m lit => keeps_execKmovi h g d m lit
  | .kadd o => keeps_execKadd h o
  | .kaddL96 o => keeps_execKaddL96 h o
  | .ksub o => keeps_execKsub h o
  | .ksubL96 o => keeps_execKsubL96 h o
  | .kmul o => keeps_execKmul h o
  | .kmulL96 o => keeps_execKmulL96 h o
  | .kshl g d a n => keeps_execKshl h g d a n
  | .kshr g d a n => keeps_execKshr h g d a n
  | .kand o => keeps_execKand h o
  | .kandL96 o => keeps_execKandL96 h o
  | .kor o => keeps_execKor h o
  | .korL96 o => keeps_execKorL96 h o
  | .kxor o => keeps_execKxor h o
  | .kxorL96 o => keeps_execKxorL96 h o
  | .bra g off => keeps_execBra h g off
  | .bru g off => keeps_execBru h g off
  | .brx g t => keeps_execBrx h g t
  | .call g d off => keeps_execCall h g d off
  | .calli g d t => keeps_execCalli h g d t
  | .ret a => keeps_execRet h a
  | .exit => keeps_execExit h
  | .conv => keeps_execConv h
  | .rdcf g d => keeps_execRdcf h g d
  | .fadd m o => keeps_execFadd h m o
  | .faddL96 m o => keeps_execFaddL96 h m o
  | .fsub m o => keeps_execFsub h m o
  | .fsubL96 m o => keeps_execFsubL96 h m o
  | .fmul m o => keeps_execFmul h m o
  | .fmulL96 m o => keeps_execFmulL96 h m o
  | .ffma m o => keeps_execFfma h m o
  | .ffmaL96 m o => keeps_execFfmaL96 h m o
  | .fmin m o => keeps_execFmin h m o
  | .fmax m o => keeps_execFmax h m o
  | .fclass fmt hs o => keeps_execFclass h fmt hs o
  | .frcp m o => keeps_execFrcp h m o
  | .frsq m o => keeps_execFrsq h m o
  | .fsqrt m o => keeps_execFsqrt h m o
  | .fexp2 m o => keeps_execFexp2 h m o
  | .flog2 m o => keeps_execFlog2 h m o
  | .fsin m o => keeps_execFsin h m o
  | .fcos m o => keeps_execFcos h m o
  | .pkadd m o => keeps_execPkadd h m o
  | .pkaddL96 m o => keeps_execPkaddL96 h m o
  | .pkmul m o => keeps_execPkmul h m o
  | .pkmulL96 m o => keeps_execPkmulL96 h m o
  | .pkfma m o => keeps_execPkfma h m o
  | .pkfmaL96 m o => keeps_execPkfmaL96 h m o
  | .pkmin bf16 neg x o => keeps_execPkmin h bf16 neg x o
  | .pkmax bf16 neg x o => keeps_execPkmax h bf16 neg x o
  | .cvt m dst src g d a => keeps_execCvt h m dst src g d a
  | .cvts bf16 sat hd o => keeps_execCvts h bf16 sat hd o
  | .cvt8 o => keeps_execCvt8 h o
  | .cvtx code e5m2 hs o => keeps_execCvtx h code e5m2 hs o
  | .cvtmx src g d ks a n => keeps_execCvtmx h src g d ks a n
  | .pack m o => keeps_execPack h m o
  | .unpack b16 z g d a n => keeps_execUnpack h b16 z g d a n
  | .lget m seg g d a b pc => keeps_execLget h m seg g d a b pc
  | .perm b8 g d a b pc => keeps_execPerm h b8 g d a b pc
  | .vote dst na g a => keeps_execVote h dst na g a
  | .redux op z g d a => keeps_execRedux h op z g d a
  | .scan exc g d a kc => keeps_execScan h exc g d a kc
  | .match_ w64 g d a pc => keeps_execMatch_ h w64 g d a pc
  | .isect g d kc a b => keeps_execIsect h g d kc a b
  | .ld m g d ad => keeps_execLd h m g d ad
  | .ldL96 m g d ad => keeps_execLdL96 h m g d ad
  | .st m fl g d ad => keeps_execSt h m fl g d ad
  | .stL96 m fl g d ad => keeps_execStL96 h m fl g d ad
  | .kld m g d a b disp => keeps_execKld h m g d a b disp
  | .kldL96 m g d a b lit => keeps_execKldL96 h m g d a b lit
  | .ldx m g d ad => keeps_execLdx h m g d ad
  | .stx m fl g d ad => keeps_execStx h m fl g d ad
  | .xchg m g d ad => keeps_execXchg h m g d ad
  | .pref pc space fl g ad => keeps_execPref h pc space fl g ad
  | .fence kind scope g => keeps_execFence h kind scope g
  | .atom op m g d a b => keeps_execAtom h op m g d a b
  | .atomcas m g d a b => keeps_execAtomcas h m g d a b
  | .red op m fl g a b => keeps_execRed h op m fl g a b
  | .redL96 op m fl g a lit => keeps_execRedL96 h op m fl g a lit
  | .enq space scope g pc a d => keeps_execEnq h space scope g pc a d
  | .deq space scope g pc a d => keeps_execDeq h space scope g pc a d
  | .commit => keeps_execCommit h
  | .mark => keeps_execMark h
  | .reverse g d a b => keeps_execReverse h g d a b
  | .grade g gr => keeps_execGrade h g gr
  | .hstash g a => keeps_execHstash h g a
  | .hquery q g d a => keeps_execHquery h q g d a
  | .mma small set_ g d a b fa fb => keeps_execMma h small set_ g d a b fa fb
  | .mmas set_ g d a b fa fb => keeps_execMmas h set_ g d a b fa fb
  | .mmax set_ g d a b fa fb => keeps_execMmax h set_ g d a b fa fb
  | .accz g d n => keeps_execAccz h g d n
  | .accld space g d a b slot => keeps_execAccld h space g d a b slot
  | .accst rm space fl g d a b slot => keeps_execAccst h rm space fl g d a b slot
  | .accmov g m => keeps_execAccmov h g m
  | .satrd g d => keeps_execSatrd h g d
  | .satclr g m => keeps_execSatclr h g m
  | .cpy m => keeps_execCpy h m
  | .cpyL96 m len => keeps_execCpyL96 h m len
  | .cpym m km => keeps_execCpym h m km
  | .cpyg m km => keeps_execCpyg h m km
  | .seal g a b => keeps_execSeal h g a b
  | .unseal g a => keeps_execUnseal h g a
  | .drop g a => keeps_execDrop h g a
  | .tileget m g d a b c => keeps_execTileget h m g d a b c
  | .tileput g a => keeps_execTileput h g a
  | .surrender o g => keeps_execSurrender h o g
  | .spawn bind g d a b n => keeps_execSpawn h bind g d a b n
  | .spawnL96 bind g d off b n => keeps_execSpawnL96 h bind g d off b n
  | .evnew g d => keeps_execEvnew h g d
  | .evfree g d a => keeps_execEvfree h g d a
  | .evsig scope g a => keeps_execEvsig h scope g a
  | .evwait cnt bind g a b n => keeps_execEvwait h cnt bind g a b n
  | .cntdec space g d a => keeps_execCntdec h space g d a
  | .bar => keeps_execBar h
  | .grow g d n => keeps_execGrow h g d n
  | .yield_ => keeps_execYield_ h
  | .gridl g d a b => keeps_execGridl h g d a b
  | .hintnext => keeps_execHintnext h
  | .waitpred => keeps_execWaitpred h
  | .send fl g d a b c => keeps_execSend h fl g d a b c
  | .cbopen sd g d => keeps_execCbopen h sd g d
  | .cbpush sd n g d a b => keeps_execCbpush h sd n g d a b
  | .cbpull sd g d b c => keeps_execCbpull h sd g d b c
  | .cbdone sd g d a => keeps_execCbdone h sd g d a
  | .cbflush sd close g d => keeps_execCbflush h sd close g d
  | .trap g d a code => keeps_execTrap h g d a code
  | .eret => keeps_execEret h
  | .eretSkip => keeps_execEretSkip h
  | .emuret => keeps_execEmuret h
  | .emuretRetry => keeps_execEmuretRetry h
  | .bkpt tag => keeps_execBkpt h tag
  | .nop => keeps_execNop h
  | .nopW g => keeps_execNopW h g
  | .nopL g lit => keeps_execNopL h g lit
  | .mfg g d a b => keeps_execMfg h g d a b
  | .mtg g d a b => keeps_execMtg h g d a b
  | .revg g d a b c => keeps_execRevg h g d a b c
  | .launch g d a b c => keeps_execLaunch h g d a b c
  | .emulationEntry cause p0 p1 p2 => keeps_execEmulationEntry h cause p0 p1 p2
  | .clauseStart gid => keeps_execClauseStart h gid
  | .convComplete gid => keeps_execConvComplete h gid
  | .barComplete team => keeps_execBarComplete h team
  | .growGrant core quad => keeps_execGrowGrant h core quad
  | .growFail core => keeps_execGrowFail h core
  | .groupHalt gid => keeps_execGroupHalt h gid
  | .loadReturn id => keeps_execLoadReturn h id
  | .storePerformed id => keeps_execStorePerformed h id
  | .atomicReturn id => keeps_execAtomicReturn h id
  | .atomicMovedReissue id => keeps_execAtomicMovedReissue h id
  | .prefetchComplete id => keeps_execPrefetchComplete h id
  | .wcbDrainTimer core line => keeps_execWcbDrainTimer h core line
  | .l1MissFill core line ev => keeps_execL1MissFill h core line ev
  | .invalidation core line => keeps_execInvalidation h core line
  | .sweepComplete id => keeps_execSweepComplete h id
  | .matrixResult core => keeps_execMatrixResult h core
  | .copyComplete id => keeps_execCopyComplete h id
  | .copyResume id => keeps_execCopyResume h id
  | .copyAbort id done cause => keeps_execCopyAbort h id done cause
  | .surrenderEntry tile => keeps_execSurrenderEntry h tile
  | .surrenderOverrun gid => keeps_execSurrenderOverrun h gid
  | .reverseWalkStep gid => keeps_execReverseWalkStep h gid
  | .teamResident grid team core => keeps_execTeamResident h grid team core
  | .clusterStart grid cluster cores => keeps_execClusterStart h grid cluster cores
  | .binTimerExpiry core bin => keeps_execBinTimerExpiry h core bin
  | .binLaunch core bin => keeps_execBinLaunch h core bin
  | .spawnRateExpiry gid => keeps_execSpawnRateExpiry h gid
  | .teamEnd team => keeps_execTeamEnd h team
  | .gridEnd grid => keeps_execGridEnd h grid
  | .preemptRequest r => keeps_execPreemptRequest h r
  | .preemptAck ctx x => keeps_execPreemptAck h ctx x
  | .thohelFrameRx f => keeps_execThohelFrameRx h f
  | .peerHeldEnqueue idx => keeps_execPeerHeldEnqueue h idx
  | .thohelAck dst seq => keeps_execThohelAck h dst seq
  | .messageReturn dst seq => keeps_execMessageReturn h dst seq
  | .pageServiceDone ctx rec page => keeps_execPageServiceDone h ctx rec page
  | .rangeLockReplay ctx rec => keeps_execRangeLockReplay h ctx rec
  | .historyRefill gid damaged => keeps_execHistoryRefill h gid damaged
  | .rollback gid dmg => keeps_execRollback h gid dmg
  | .faultReplay ctx rec => keeps_execFaultReplay h ctx rec
  | .faultContinue ctx rec reply => keeps_execFaultContinue h ctx rec reply
  | .removeGrid grid status => keeps_execRemoveGrid h grid status
  | .removeContext ctx => keeps_execRemoveContext h ctx
  | .handlerTableReplace grid emuh surr auxh => keeps_execHandlerTableReplace h grid emuh surr auxh
  | .poolExtend ctx pages => keeps_execPoolExtend h ctx pages
  | .doorbell ctx ring req => keeps_execDoorbell h ctx ring req
  | .contextRestore ctx place => keeps_execContextRestore h ctx place
  | .linkRetrain l => keeps_execLinkRetrain h l
  | .cxlLinkFail port remap ds => keeps_execCxlLinkFail h port remap ds
  | .attach ctx cmd => keeps_execAttach h ctx cmd
  | .detach ctx cmd => keeps_execDetach h ctx cmd
  | .halt ctx seq loc => keeps_execHalt h ctx seq loc
  | .resume ctx seq loc => keeps_execResume h ctx seq loc
  | .step ctx seq loc => keeps_execStep h ctx seq loc
  | .rewind ctx seq loc target info => keeps_execRewind h ctx seq loc target info
  | .read ctx seq loc sel => keeps_execRead h ctx seq loc sel
  | .write ctx seq loc sel val => keeps_execWrite h ctx seq loc sel val
  | .readmem ctx seq loc addr len space => keeps_execReadmem h ctx seq loc addr len space
  | .writemem ctx seq loc addr data mode => keeps_execWritemem h ctx seq loc addr data mode
  | .dump ctx cmd buf len => keeps_execDump h ctx cmd buf len
  | .evtHead ctx w => keeps_execEvtHead h ctx w
  | .debugRevoke ctx => keeps_execDebugRevoke h ctx
  | .coreDump ctx how cause => keeps_execCoreDump h ctx how cause
  | .dumpWriteFault offset err rewritten linkLost => keeps_execDumpWriteFault h offset err rewritten linkLost
  | .mctpDumpRead r => keeps_execMctpDumpRead h r
  | .dumpflt => keeps_execDumpflt h
  | .registerWrite r val => keeps_execRegisterWrite h r val
  | .attestationRequest nonce => keeps_execAttestationRequest h nonce
  | .powerLimitSet watts => keeps_execPowerLimitSet h watts
  | .fieldHourRollover => keeps_execFieldHourRollover h
  | .coreRetire core => keeps_execCoreRetire h core
  | .coreDisable core => keeps_execCoreDisable h core
  | .thermalThrottle d => keeps_execThermalThrottle h d
  | .thermalCritical die => keeps_execThermalCritical h die
  | .thermalNormal => keeps_execThermalNormal h
  | .deviceReset b => keeps_execDeviceReset h b
  | .contextCreation c => keeps_execContextCreation h c
  | .pageMigration ctx va newPa => keeps_execPageMigration h ctx va newPa

@[simp] theorem State.storageWf_takeInput (i : Instr) : (s.takeInput i).storageWf = s.storageWf := by
  unfold State.takeInput
  split <;> rfl

@[simp] theorem State.storageWf_popTimer (l : List Instr) : (s.popTimer l).storageWf = s.storageWf := rfl
@[simp] theorem State.storageWf_atTurn (i : Nat) (g : Group) : (s.atTurn i g).storageWf = s.storageWf := rfl

theorem State.storageWf_turnFault (h : s.storageWf = true) (i : Nat) (g : Group) (cause : Cause) (a : CAddr) :
    (s.turnFault i g cause a).storageWf = true := by
  simp [State.turnFault, h]

theorem keeps_stepTimer (h : s.storageWf = true) {other : Out} (ho : Keeps other) : Keeps (stepTimer s other) := by
  unfold stepTimer
  split
  · exact keeps_exec (s := s.popTimer _) h _
  · exact ho

theorem keeps_stepGroup (h : s.storageWf = true) (i : Nat) (g : Group) : Keeps (stepGroup s i g) := by
  have ha : (s.atTurn i g).storageWf = true := h
  unfold stepGroup
  dsimp only
  split
  · exact keeps_next.mpr (State.storageWf_turnFault ha _ _ _ _)
  · exact keeps_exec ha _

theorem keeps_stepTurns (h : s.storageWf = true) (l : List (Nat × Group)) : Keeps (stepTurns s l) := by
  induction l with
  | nil => exact keeps_stepTimer h (keeps_next.mpr h)
  | cons x l ih =>
    have hg := keeps_stepGroup h x.1 x.2
    unfold stepTurns
    split
    · split
      · next t ht =>
        split
        · exact ih
        · exact keeps_next.mpr (hg t ht)
      · exact hg
    · exact ih

theorem keeps_stepIdle (h : s.storageWf = true) : Keeps (stepIdle s) := by
  unfold stepIdle
  split
  · exact keeps_exec h _
  · split
    · exact keeps_stepTimer h (keeps_next.mpr h)
    · exact keeps_stepTurns h _

/-- One step of the device. -/
theorem keeps_step (h : s.storageWf = true) : Keeps (step s) := by
  unfold step
  split
  · exact keeps_exec ((State.storageWf_takeInput _).trans h) _
  · split
    · refine keeps_exec ?_ _
      exact h
    · exact keeps_stepIdle h

/-- Settles O59: each instruction, event and step of the device that ends in a state leaves its storage canonical, because
memory, the polder and the write-combining lines are only written through operations that keep them so. -/
theorem storageStaysCanonical : Obligations.StorageStaysCanonical := by
  intro s s' h hs
  exact keeps_step h s' hs

end Sys2Proof.Machine
end

section
/-! Proofs/LaneEngine.lean: the lane engine's own steps: the splits that wait at a CONV or a BAR go on, requests for registers
are granted or fail, a requested halt takes effect (03_group_state R72, R73, R81, R82; 19_debug_host R415). -/

namespace Sys2Proof.Machine

/-! Splits that go on. -/

theorem Group.mapSplits_get (g : Group) (f : Nat → Split → Split) (n : Nat) :
    (g.mapSplits f).splits.get n = (g.splits.get n).map (f n) := Tbl.get_map g.splits f n

theorem Group.wake_get (g : Group) (w : Wait) (n : Nat) : (g.wake w).splits.get n =
    (g.splits.get n).map (fun sp => if sp.wait = w then { sp with wait := .ready } else sp) := g.mapSplits_get _ n

/-- A split that waits at GROW is ready once it is woken. -/
theorem Group.wakeSplit_get (g : Group) (n : Nat) (sp : Split) (h : g.splits.get n = some sp) (hw : sp.wait = .grow) :
    (g.wakeSplit n).splits.get n = some { sp with wait := .ready } := by
  unfold Group.wakeSplit
  rw [Group.mapSplits_get, h, Option.map_some, if_pos ⟨rfl, hw⟩]

/-! BAR (R82). -/

theorem Group.passBar_eq {g : Group} {a : CAddr} (h : g.common = some (.bar a)) :
    g.passBar = { g.wake (.bar a) with barCount := g.barCount + 1 } := by
  unfold Group.passBar; rw [h]

theorem Group.arrived_bar {g : Group} {n : Nat} (h : g.arrived n = true) : ∃ a, g.common = some (.bar a) := by
  simp only [Group.arrived, Bool.and_eq_true] at h
  obtain ⟨-, hw⟩ := h
  split at hw
  · next a ha => exact ⟨a, ha⟩
  · exact absurd hw Bool.false_ne_true

/-- Where a team's BAR completes, each of its groups waits at a BAR. -/
theorem State.barReady_waits {s : State} {team gid : Nat} {g : Group} (h : s.barReady team = true)
    (hg : s.groups.get gid = some g) (ht : g.team = team) : ∃ a, g.common = some (.bar a) := by
  unfold State.barReady at h
  split at h
  · exact absurd h Bool.false_ne_true
  · simp only [Bool.and_eq_true, List.all_eq_true] at h
    obtain ⟨-, hall⟩ := h
    have hmem : (gid, g) ∈ s.teamGroups team := List.mem_filter.mpr ⟨Tbl.mem_of_get hg, by simp [ht]⟩
    exact Group.arrived_bar (hall _ hmem)

/-- The device after each group of a team has passed its BAR. -/
def State.passBars (s : State) (team : Nat) : State :=
  { s with groups := s.groups.map (fun x => if x.2.team = team then (x.1, x.2.passBar) else x) }

theorem State.passBars_get (s : State) (team gid : Nat) :
    (s.passBars team).groups.get gid = (s.groups.get gid).map (fun g => if g.team = team then g.passBar else g) := by
  rw [← Tbl.get_map s.groups (fun _ g => if g.team = team then g.passBar else g)]
  refine congrArg (fun t => Tbl.get t gid) (List.map_congr_left (fun x _ => ?_))
  split <;> rfl

theorem exec_barComplete {s : State} {team : Nat} (h : s.barReady team = true) :
    exec (.barComplete team) s = .next ((s.passBars team).updTeam team (fun t => { t with bars := t.bars + 1 })) := by
  show execBarComplete team s = _
  rw [execBarComplete, if_pos h]
  rfl

theorem barComplete_passes (s : State) (team : Nat) (tm : Team) (htm : s.teams.get team = some tm)
    (h : s.barReady team = true) :
    ∃ t, exec (.barComplete team) s = .next t ∧ t.teams.get team = some { tm with bars := tm.bars + 1 } ∧
      (∀ gid g, s.groups.get gid = some g → g.team ≠ team → t.groups.get gid = some g) ∧
      (∀ gid g, s.groups.get gid = some g → g.team = team → ∃ u a, t.groups.get gid = some u ∧
        g.common = some (.bar a) ∧ u.barCount = g.barCount + 1 ∧
        ∀ n, u.splits.get n = (g.splits.get n).map (fun sp =>
          if sp.wait = .bar a then { sp with wait := .ready } else sp)) := by
  refine ⟨_, exec_barComplete h, ?_, fun gid g hg hne => ?_, fun gid g hg ht => ?_⟩
  · simp [State.updTeam, State.passBars, Tbl.get_upd, htm]
  · exact (s.passBars_get team gid).trans (by rw [hg, Option.map_some, if_neg hne])
  · obtain ⟨a, ha⟩ := State.barReady_waits h hg ht
    refine ⟨g.passBar, a, (s.passBars_get team gid).trans (by rw [hg, Option.map_some, if_pos ht]), ha, ?_, ?_⟩
    · rw [Group.passBar_eq ha]
    · intro n
      rw [Group.passBar_eq ha]
      exact g.wake_get _ n

/-! CONV (R81). -/

theorem convComplete_wakes (s : State) (gid : Nat) (g : Group) (a : CAddr) (hg : s.groups.get gid = some g)
    (hc : g.common = some (.conv a)) :
    ∃ t u, exec (.convComplete gid) s = .next t ∧ { t with groups := s.groups } = s ∧ t.groups.get gid = some u ∧
      { u with splits := g.splits, frames := g.frames } = g ∧
      ∀ n, u.splits.get n = (g.splits.get n).map (fun sp => if sp.wait = .conv a then { sp with wait := .ready } else sp) := by
  have he : exec (.convComplete gid) s = .next (s.setGroup gid (g.wake (.conv a))) := by
    show execConvComplete gid s = _
    simp only [execConvComplete, hg, hc]
  exact ⟨_, _, he, rfl, s.setGroup_get gid _, rfl, g.wake_get _⟩

/-! Budgets (R72, R73). -/

theorem Group.grant_regs (g : Group) (split n : Nat) : (g.grant split n).regs = max g.regs n := by
  unfold Group.grant
  by_cases h : g.regs < n
  · simp only [if_pos h]
    split <;> exact (Nat.max_eq_right h.le).symm
  · simp only [if_neg h]
    split <;> exact (Nat.max_eq_left (Nat.not_lt.mp h)).symm

theorem Group.grant_v (g : Group) (split n : Nat) :
    (g.grant split n).v = if g.regs < n then g.v.clear (32 * g.regs) (32 * n) else g.v := by
  unfold Group.grant
  by_cases h : g.regs < n
  · simp only [if_pos h]; split <;> rfl
  · simp only [if_neg h]; split <;> rfl

/-- A grant changes neither the count nor a split. -/
theorem Group.grant_ic_splits (g : Group) (split n : Nat) :
    (g.grant split n).ic = g.ic ∧ (g.grant split n).splits = g.splits := by
  unfold Group.grant
  by_cases h : g.regs < n
  · simp only [if_pos h]; split <;> exact ⟨rfl, rfl⟩
  · simp only [if_neg h]; split <;> exact ⟨rfl, rfl⟩

/-- The registers below an old budget keep their values when those up to a new one are cleared. -/
theorem Cells.clear_below (v : Cells 32) (old new n l : Nat) (hn : n < old) (hl : l < 32) :
    (v.clear (32 * old) (32 * new)).get (32 * n + l) = v.get (32 * n + l) := by
  rw [Cells.get_clear, if_neg (by omega)]

theorem Cells.clear_added (v : Cells 32) (old new n l : Nat) (ho : old ≤ n) (hn : n < new) (hl : l < 32) :
    (v.clear (32 * old) (32 * new)).get (32 * n + l) = 0#32 := by
  rw [Cells.get_clear, if_pos (by omega)]

theorem Group.grant_kept (g : Group) (split want n l : Nat) (hn : n < g.regs) (hl : l < 32) :
    (g.grant split want).rdV (.own n) l = g.rdV (.own n) l := by
  show (g.grant split want).v.get _ = g.v.get _
  rw [Group.grant_v]
  split
  · exact Cells.clear_below _ _ _ _ _ hn hl
  · rfl

theorem Group.grant_zero (g : Group) (split want n l : Nat) (ho : g.regs ≤ n) (hn : n < want) (hl : l < 32) :
    (g.grant split want).rdV (.own n) l = 0#32 := by
  show (g.grant split want).v.get _ = 0#32
  rw [Group.grant_v, if_pos (by omega)]
  exact Cells.clear_added _ _ _ _ _ ho hn hl

theorem growGrant_grants (s : State) (core quad : Nat) (r : GrowReq) (g : Group)
    (h : s.growGrantable (4 * core + quad) = some (r, g)) :
    ∃ t u, exec (.growGrant core quad) s = .next t ∧ t.growQ = s.growQ.erase r ∧ t.groups.get r.gid = some u ∧
      u.regs = max g.regs r.want ∧ u.ic = g.ic ∧
      (∀ n l, n < g.regs → l < 32 → u.rdV (.own n) l = g.rdV (.own n) l) ∧
      (∀ n l, g.regs ≤ n → n < r.want → l < 32 → u.rdV (.own n) l = 0#32) ∧
      (∀ sp, g.splits.get r.split = some sp → sp.wait = .grow → u.splits.get r.split = some { sp with wait := .ready }) := by
  have he : exec (.growGrant core quad) s = .next
      { s.setGroup r.gid ((g.grant r.split r.want).wakeSplit r.split) with growQ := s.growQ.erase r } := by
    show execGrowGrant core quad s = _
    rw [execGrowGrant, h]
  obtain ⟨hic, hsplits⟩ := g.grant_ic_splits r.split r.want
  exact ⟨_, _, he, rfl, s.setGroup_get r.gid _, g.grant_regs _ _, hic, g.grant_kept _ _, g.grant_zero _ _,
    fun sp hsp hw => Group.wakeSplit_get _ _ sp (hsplits ▸ hsp) hw⟩

theorem growFail_wakes (s : State) (core : Nat) (r : GrowReq) (g : Group) (h : s.growVictim core = some r)
    (hg : s.groups.get r.gid = some g) :
    ∃ t u, exec (.growFail core) s = .next t ∧ t.growQ = s.growQ.erase r ∧ t.groups.get r.gid = some u ∧ u.regs = g.regs ∧
      u.growFail = some r.split ∧
      (∀ sp, g.splits.get r.split = some sp → sp.wait = .grow → u.splits.get r.split = some { sp with wait := .ready }) := by
  have he : exec (.growFail core) s = .next
      { s.updGroup r.gid (fun g => { g.wakeSplit r.split with growFail := some r.split }) with
        growQ := s.growQ.erase r } := by
    show execGrowFail core s = _
    rw [execGrowFail, h]
  refine ⟨_, { g.wakeSplit r.split with growFail := some r.split }, he, rfl, ?_, rfl, rfl, g.wakeSplit_get r.split⟩
  simp [Tbl.get_upd, hg]

/-! The halt (R415). -/

theorem groupHalt_halts (s : State) (gid : Nat) (g : Group) (hg : s.groups.get gid = some g) (hreq : g.haltReq = true)
    (hcl : g.clause = none) (hf : g.frames = []) (hd : g.dir = false) :
    ∃ t, exec (.groupHalt gid) s = .next t ∧ { t with groups := s.groups } = s ∧
      t.groups.get gid = some { g with halted := true, haltReq := false } := by
  refine ⟨_, rfl, rfl, ?_⟩
  simp [Tbl.get_upd, hg, hreq, hcl, hd, Group.inHandler, hf]

/-- Settles O40, one lemma for each of the five steps. -/
theorem laneEngineSteps : Obligations.LaneEngineSteps := fun s =>
  ⟨convComplete_wakes s, barComplete_passes s, growGrant_grants s, growFail_wakes s, groupHalt_halts s⟩

end Sys2Proof.Machine
end

section
/-! Proofs/Retire.lean: how an instruction that issues ends: with registers written, with the device changed, with its split
placed by itself, or stopped (Machine/Issue.lean; 02_encoding R38, 09_history R220, R251). -/

namespace Sys2Proof.Machine

/-- The group of an instruction that issues runs, and the split that issues is its current one. -/
theorem State.Issues.issuer_facts {s : State} {len : Nat} {gd : Guard} {c : Iss} (h : s.Issues len gd c) :
    c.g.halted = false ∧ c.g.cur = c.sn ∧ c.s = s ∧ c.len = len := by
  obtain ⟨g, sp, cl, hi, -, rfl⟩ := h
  refine ⟨?_, rfl, rfl, rfl⟩
  simp only [State.issuer, Option.bind_eq_bind, Option.bind_eq_some_iff, Option.ite_none_right_eq_some,
    Option.some.injEq, Prod.mk.injEq] at hi
  obtain ⟨g0, -, cl0, -, sp0, -, ⟨hr, -⟩, rfl, -, -⟩ := hi
  simp only [Group.runs, Bool.and_eq_true, Bool.not_eq_true'] at hr
  exact hr.1.1.1

/-- An instruction whose own part goes on in sequence with its group as `g'`, whose entries fit, completes with what its
group did. -/
theorem issue_completes {len : Nat} {gd : Guard} {s : State} {body : Iss → Run Fin} {c : Iss} {g' : Group} {e : Effect}
    {n : Nat} (h : s.Issues len gd c) (hr : c.Room n) (hb : body c = .ok (c.done g')) (hd : c.g.Did g' c.ex e)
    (hn : c.g.Within g' n) : ∃ t, issue len gd s body = .next t ∧ c.Completes e t := by
  have hm := c.fits (c.done g') g' n rfl hr hn.1 hd.hlim
  have hx := c.fits_buffer g' n hr hn hd.hbuf
  rw [issue_next h hb (c.done_get g') hm hx, ← regOp_next (body := fun _ => .ok g') h rfl hm hx]
  exact regOp_completes h hr rfl hd hn

/-- The same where the group changes in more than its registers. -/
theorem issue_retires {len : Nat} {gd : Guard} {s : State} {body : Iss → Run Fin} {c : Iss} {g' : Group} {n : Nat}
    (h : s.Issues len gd c) (hr : c.Room n) (hb : body c = .ok (c.done g')) (hn : c.g.Within g' n)
    (hlim : g'.hlim = c.g.hlim) (hbuf : g'.hbuf = c.g.hbuf) (hcur : g'.cur = c.g.cur) (hh : g'.halted = c.g.halted) :
    ∃ t, issue len gd s body = .next t ∧ c.Retires (c.s.setGroup c.gid g') g' t := by
  obtain ⟨hrun, hsn, -, -⟩ := h.issuer_facts
  refine ⟨_, issue_next h hb (c.done_get g') (c.fits _ g' n rfl hr hn.1 hlim) (c.fits_buffer g' n hr hn hbuf), ?_⟩
  exact c.retires (c.done g') g' rfl rfl (hcur.trans hsn) (hh.trans hrun)

/-- A fault that names no lanes and no details is Exec's. -/
theorem issue_raises {len : Nat} {gd : Guard} {s : State} {body : Iss → Run Fin} {c : Iss} {cause : Cause}
    (h : s.Issues len gd c) (hb : body c = raise cause) : issue len gd s body = .next (c.fault cause c.ex 0#64 0#64) :=
  issue_stop h hb

/-- An instruction that waits leaves the state that it waits in. -/
theorem issue_waits {len : Nat} {gd : Guard} {s t : State} {body : Iss → Run Fin} {c : Iss}
    (h : s.Issues len gd c) (hb : body c = .error (.wait t)) : issue len gd s body = .next t :=
  issue_stop h hb

/-! The registers of a group that has retired in sequence. -/

section
variable {c : Iss} {g' u : Group}

theorem Iss.Went.regs_eq (h : c.Went g' u) : u.regs = g'.regs := by
  have := congrArg Group.regs h.rest; exact this

theorem Iss.Went.rdV_own (h : c.Went g' u) (n l : Nat) : u.rdV (.own n) l = g'.rdV (.own n) l := by
  have := congrArg (fun x : Group => x.v.get (32 * n + l)) h.rest; exact this

theorem Iss.Went.rdP_eq (h : c.Went g' u) (n : Nat) : u.rdP n = g'.rdP n := by
  refine Group.rdP_frames (by have := congrArg Group.p h.rest; exact this) ?_ n
  have hf := congrArg (List.map HFrame.winP) h.frames
  rw [List.map_map, List.map_map] at hf
  exact hf

end

/-! Instructions that place their split themselves. -/

/-- A halt outside every clause changes nothing else. -/
theorem Group.haltNow_idle (g : Group) (h : g.clause = none) : g.haltNow = { g with halted := true } := by
  simp [Group.haltNow, h]

theorem Iss.gone_placed (c : Iss) (f : Fin) (g : Group) (h : f.jump = true) :
    { c.gone f g with ic := g.ic, frames := g.frames, hist := g.hist, lastSplit := g.lastSplit } = g := by
  have hr := g.retired_rest c.sn f.count f.sealed (f.count || !c.g.inHandler)
  unfold Iss.gone
  rw [if_pos h]
  exact hr

/-- It retires as it stands, halted or not. -/
theorem Iss.retire_placed (c : Iss) (f : Fin) (g : Group) (hj : f.jump = true) (hcl : g.clause = none) :
    ∃ b, (c.retire f g).groups.get c.gid = some { c.gone f g with halted := b } ∧ (g.stepBit = false → b = g.halted) := by
  have hp := c.gone_placed f g hj
  have hclause : (c.gone f g).clause = none := by have := congrArg Group.clause hp; exact this.trans hcl
  have hhalt : (c.gone f g).halted = g.halted := by have := congrArg Group.halted hp; exact this
  rw [c.retire_groups, if_pos rfl, Group.haltNow_idle _ hclause]
  split
  · next hs => exact ⟨true, rfl, fun h0 => by simp [c.gone_stepBit, h0] at hs⟩
  · exact ⟨(c.gone f g).halted, rfl, fun _ => hhalt⟩

/-- The retirement of an instruction that has placed its split itself, in the terms of the statements: its own part has left
the device as `s'` with the group as `g`, which is `g'` but for its splits, its parked paths and its history. -/
theorem Iss.jumps (c : Iss) (f : Fin) (s' : State) (g g' : Group) (hj : f.jump = true) (hc : f.count = c.counts)
    (hs : f.s = s'.setGroup c.gid g) (hcl : g.clause = none)
    (hg : { g with splits := g'.splits, parked := g'.parked, clause := g'.clause, hsp := g'.hsp, hist := g'.hist } = g') :
    ∃ u, c.Jumps s' g' u (c.retire f g) ∧ u.splits = g.splits ∧ u.parked = g.parked := by
  have hp := c.gone_placed f g hj
  obtain ⟨b, hget, hb⟩ := c.retire_placed f g hj hcl
  have hstep : g.stepBit = g'.stepBit := by have := congrArg Group.stepBit hg; exact this
  have hic : g.ic = g'.ic := by have := congrArg Group.ic hg; exact this
  have hframes : g.frames = g'.frames := by have := congrArg Group.frames hg; exact this
  refine ⟨_, ⟨?device, fun i hi => ?others, fun h0 => ⟨?ctxs, ?halted, ?resume⟩, hget, ?clause, ?count, ?frames, ?rest⟩,
    ?splits, ?parked⟩
  case device =>
    have := congrArg (fun t : State => { t with groups := s'.groups, ctxs := s'.ctxs }) (c.retire_device f g)
    rw [hs] at this
    exact this
  case others => rw [c.retire_groups, if_neg hi, hs, State.setGroup_other _ _ _ _ hi]
  case ctxs => rw [c.retire_ctxs f g (hstep.trans h0), hs]; rfl
  case halted => have := congrArg Group.halted hg; exact (hb (hstep.trans h0)).trans this
  case resume =>
    have h1 := congrArg Group.resume hp
    have h2 := congrArg Group.resume hg
    exact h1.trans h2
  case clause => have := congrArg Group.clause hp; exact this.trans hcl
  case count => rw [← hc, ← hic]; exact c.gone_ic f g
  case frames => rw [← hframes]; exact c.gone_frames f g
  case rest =>
    have h1 := congrArg (fun x : Group => { x with
      ic := g'.ic, splits := g'.splits, parked := g'.parked, clause := g'.clause, halted := g'.halted, resume := g'.resume,
      frames := g'.frames, hsp := g'.hsp, hist := g'.hist, lastSplit := g'.lastSplit }) hp
    have h2 := congrArg (fun x : Group => { x with
      ic := g'.ic, halted := g'.halted, resume := g'.resume, frames := g'.frames, lastSplit := g'.lastSplit }) hg
    exact h1.trans h2
  case splits => have := congrArg Group.splits hp; exact this
  case parked => have := congrArg Group.parked hp; exact this

/-! Instructions that commit first (R24, R251). -/

/-- A commit completes every MEMW entry of its group. -/
theorem State.commit_hold {s s1 : State} {gid : Nat} {g1 : Group} (h : s.commit gid = .ok s1)
    (hg : s1.groups.get gid = some g1) : g1.hist.hold = none := by
  unfold State.commit at h
  split at h
  · next hnone => cases h; rw [hnone] at hg; cases hg
  · split at h
    · cases h
    · cases h
      rw [State.updGroup_groups, Tbl.get_upd, if_pos rfl, Option.map_eq_some_iff] at hg
      obtain ⟨g0, -, rfl⟩ := hg
      rfl

theorem Iss.sealing_commits {c c1 : Iss} {effect : Iss → Run State} {t : State} (hex : c.ex ≠ 0#32) (hc : c.Commits c1)
    (he : effect c1 = .ok t) : c.sealing effect = .ok { s := t, count := c.counts, sealed := true, jump := false } := by
  obtain ⟨s1, g1, hs, hg, rfl⟩ := hc
  simp only [Iss.sealing, if_neg hex, hs, hg, he, bind, Except.bind, pure, Except.pure]

/-- What follows the commit of its own instruction is recorded nowhere, so that it finds room. -/
theorem issue_sealed {len : Nat} {gd : Guard} {s : State} {body : Iss → Run Fin} {c c1 : Iss} {f : Fin} {g : Group}
    (h : s.Issues len gd c) (hb : body c = .ok f) (hf : f.sealed = true) (hg : f.s.groups.get c.gid = some g)
    (hc : c.Commits c1) (hhold : g.hist.hold = c1.g.hist.hold) : issue len gd s body = .next (c.retire f g) := by
  obtain ⟨s1, g1, hs, hg1, rfl⟩ := hc
  refine issue_next h hb hg ?_ ?_
  · simp [Iss.misfit, hf]
  · have := State.commit_hold hs hg1
    simp [Iss.crowded, Group.overfull, hhold, this]

end Sys2Proof.Machine
end

section
/-! Proofs/Budgets.lean: BAR, GROW and YIELD, and what handler mode refuses (03_group_state R72, R82, R90;
04_lane_integer_control R133; 14_task_engine R362; 17_traps_emulation R385). -/

namespace Sys2Proof.Machine

/-! BAR (R82, R362). -/

theorem Iss.notInHandler_ok {c : Iss} (h : c.g.inHandler = false) : c.notInHandler = .ok () := by
  simp [Iss.notInHandler, need, h]

theorem Iss.notInHandler_raises {c : Iss} (h : c.g.inHandler = true) : c.notInHandler = raise 0x0907#16 := by
  simp [Iss.notInHandler, need, h, raise]

theorem Iss.satTest_ok {c : Iss} (h : c.g.sat &&& c.g.satarm = 0#8) : c.satTest = .ok () := by
  simp [Iss.satTest, h]

/-- The group at its BAR: the clause over, the split behind the instruction, waiting. -/
def Iss.atBar (c : Iss) : Group :=
  { c.g.advance c.sn c.len with
    clause := none
    splits := (c.g.advance c.sn c.len).splits.upd c.sn (fun sp => { sp with wait := .bar c.sp.pc }) }

theorem Iss.atBar_splits (c : Iss) (n : Nat) : c.atBar.splits.get n = if n = c.sn then
    (c.g.splits.get n).map (fun sp => { sp with pc := sp.pc + BitVec.ofNat 57 (4 * c.len), wait := .bar c.pc })
    else c.g.splits.get n := by
  by_cases hn : n = c.sn
  · subst hn
    simp [Iss.atBar, Group.advance, Tbl.get_upd, Function.comp_def, Iss.pc]
  · simp [Iss.atBar, Group.advance, Tbl.get_upd, hn]

theorem Iss.atBar_rest (c : Iss) : { c.atBar with
    splits := c.g.splits, parked := c.g.parked, clause := c.g.clause, hsp := c.g.hsp, hist := c.g.hist } = c.g := rfl

theorem Iss.bar_commits {c c1 : Iss} (hh : c.g.inHandler = false) (hs : c.g.sat &&& c.g.satarm = 0#8) (hex : c.ex ≠ 0#32)
    (hc : c.Commits c1) :
    c.bar = .ok { s := c1.s.setGroup c1.gid c1.atBar, count := c.counts, sealed := true, jump := true } := by
  unfold Iss.bar
  rw [Iss.notInHandler_ok hh, Iss.satTest_ok hs]
  simp only [bind, Except.bind]
  rw [Iss.sealing_commits hex hc (t := c1.s.setGroup c1.gid c1.atBar) rfl]
  rfl

theorem bar_waits (s : State) (c c1 : Iss) (h : s.Issues 1 always c) (hex : c.ex ≠ 0#32) (hh : c.g.inHandler = false)
    (hs : c.g.sat &&& c.g.satarm = 0#8) (hc : c.Commits c1) :
    ∃ t u, exec .bar s = .next t ∧ c.Jumps c1.s c1.g u t ∧
      u.splits.get c.sn = (c1.g.splits.get c.sn).map (fun sp => { sp with pc := sp.pc + 4#57, wait := .bar c.pc }) ∧
      ∀ n, n ≠ c.sn → u.splits.get n = c1.g.splits.get n := by
  have hb := Iss.bar_commits hh hs hex hc
  obtain ⟨-, -, -, hlen⟩ := h.issuer_facts
  have hsame : c1.gid = c.gid ∧ c1.sn = c.sn ∧ c1.sp = c.sp ∧ c1.len = c.len := by
    obtain ⟨s1, g1, -, -, rfl⟩ := hc
    exact ⟨rfl, rfl, rfl, rfl⟩
  obtain ⟨hgid, hsn, hsp, hlen1⟩ := hsame
  obtain ⟨u, hj, hu, -⟩ := c.jumps { s := c1.s.setGroup c1.gid c1.atBar, count := c.counts, sealed := true, jump := true }
    c1.s c1.atBar c1.g rfl rfl (by rw [hgid]) rfl c1.atBar_rest
  have ht := issue_sealed (g := c1.atBar) h hb rfl (by rw [hgid]; exact State.setGroup_get _ _ _) hc rfl
  refine ⟨_, u, ht, hj, ?_, fun n hn => ?_⟩
  · rw [hu, Iss.atBar_splits, if_pos hsn.symm, hlen1, hlen, Iss.pc, hsp]
    rfl
  · rw [hu, Iss.atBar_splits, if_neg (by rwa [hsn])]

/-! GROW (R72, R73, R75). -/

/-- The group with a larger budget granted at once. -/
def Group.granted (g : Group) (n : Nat) : Group := ((g.pushBoth (.growrec g.regs n)).setRegs n).withGrants n []

section
variable {c : Iss} {n : Nat} (hf : c.g.growFail ≠ some c.sn)
include hf

theorem Iss.askGrow_has (hg : c.g.grants = []) (hn : n ≤ c.g.regs) : c.askGrow n = .yes c.g := by
  have hb : ¬ c.g.baseRegs < n := by simp [Group.baseRegs, hg]; exact hn
  simp [Iss.askGrow, hf, hn, Group.takeGrant, hg, Tbl.get, hb]

theorem Iss.askGrow_beyond (hn : c.g.regs < n) (hl : c.g.regLimit < n) : c.askGrow n = .no c.g := by
  simp [Iss.askGrow, hf, hn, hl]

theorem Iss.askGrow_free (hg : c.g.grants = []) (hn : c.g.regs < n) (hl : n ≤ c.g.regLimit)
    (hq : ∀ r ∈ c.s.growQ, r.quad ≠ c.g.quad) (hr : n - c.g.regs ≤ c.s.quadFree c.g.quad) : c.askGrow n = .yes (c.g.granted n) := by
  have hany : c.s.growQ.any (fun x => x.quad == c.g.quad) = false := by simpa using hq
  have hfree : ¬ c.s.quadFree c.g.quad < n - c.g.regs := by omega
  simp [Iss.askGrow, hf, hn, Nat.not_lt.mpr hl, hany, hfree, Group.granted, Group.baseRegs, hg, Tbl.del]

theorem Iss.askGrow_short (hn : c.g.regs < n) (hl : n ≤ c.g.regLimit)
    (hq : (∃ r ∈ c.s.growQ, r.quad = c.g.quad) ∨ c.s.quadFree c.g.quad < n - c.g.regs) : c.askGrow n = .wait := by
  have hany : (c.s.growQ.any (fun x => x.quad == c.g.quad) || decide (c.s.quadFree c.g.quad < n - c.g.regs)) = true := by
    simpa using hq
  simp only [Iss.askGrow, if_neg hf, if_neg (Nat.not_le.mpr hn), if_neg (Nat.not_lt.mpr hl), hany, if_true]

end

theorem Iss.grow_empty {c : Iss} (d : PReg) (n : Nat) (hh : c.g.inHandler = false) (hex : c.ex = 0#32) :
    c.grow d n = .ok (c.done c.g) := by
  simp [Iss.grow, Iss.notInHandler_ok hh, bind, Except.bind, pure, Except.pure, hex]

/-! GROW answers as its request is answered. -/

section
variable {c : Iss} (d : PReg) {n : Nat} {g : Group} (hh : c.g.inHandler = false) (hex : c.ex ≠ 0#32)
include hh hex

theorem Iss.grow_yes (ha : c.askGrow n = .yes g) : c.grow d n = .ok (c.done (g.setP c.ex d.toNat fullMask false)) := by
  simp only [Iss.grow, Iss.notInHandler_ok hh, bind, Except.bind, pure, Except.pure, if_neg hex, ha]

theorem Iss.grow_no (ha : c.askGrow n = .no g) : c.grow d n = .ok (c.done (g.setP c.ex d.toNat 0#32 false)) := by
  simp only [Iss.grow, Iss.notInHandler_ok hh, bind, Except.bind, pure, Except.pure, if_neg hex, ha]

theorem Iss.grow_wait (ha : c.askGrow n = .wait) : c.grow d n = .error (.wait (c.waitGrow n)) := by
  simp only [Iss.grow, Iss.notInHandler_ok hh, bind, Except.bind, pure, Except.pure, if_neg hex, ha]

end

/-! What a grant does. -/

theorem Group.pushBoth_rec (g : Group) (k : HKind) : g.Rec (g.pushBoth k) k.size := by
  unfold Group.pushBoth
  split
  · exact .refl _ _
  · next h => exact g.push_rec k _ h

/-- A grant records one entry of 16 bytes and changes the budget, the registers added and what stands about grants. -/
theorem Group.granted_rest (g : Group) (n : Nat) :
    { g.granted n with regs := g.regs, v := g.v, grants := g.grants, growOld := g.growOld, relied := g.relied, hsp := g.hsp,
                       hist := g.hist } = g := by
  have h := (g.pushBoth_rec (.growrec g.regs n)).rest
  exact congrArg (fun x : Group => { x with
    regs := g.regs, v := g.v, grants := g.grants, growOld := g.growOld, relied := g.relied }) h

theorem Group.granted_within (g : Group) (n : Nat) : g.Within (g.granted n) 16 :=
  (g.pushBoth_rec (.growrec g.regs n)).room

theorem Group.granted_v (g : Group) (n : Nat) : (g.granted n).v = g.v.clear (32 * g.regs) (32 * n) := by
  have h := congrArg (fun x : Group => x.v.clear (32 * x.regs) (32 * n)) (g.pushBoth_rec (.growrec g.regs n)).rest
  exact h

theorem Group.Within.trans {a b c : Group} {m n : Nat} (h : a.Within b m) (k : b.Within c n) : a.Within c (m + n) :=
  ⟨by have := h.1; have := k.1; omega, h.2.trans k.2⟩

/-- A predicate written true in the lanes of a mask is true there. -/
theorem written_true (x m : Mask) : ((x &&& ~~~m) ||| (fullMask &&& m)) &&& m = m := by
  have hfull : fullMask = BitVec.allOnes 32 := by decide
  rw [hfull, BitVec.allOnes_and]
  ext i hi
  simpa using Or.inr

/-- A budget granted at once: D is true in the lanes of Exec, the registers added read zero, the others keep their values. -/
theorem grow_grants (s : State) (c : Iss) (g : Guard) (d : PReg) (n : Nat) (h : s.Issues 2 g c) (hr : c.Room 32)
    (hh : c.g.inHandler = false) (hex : c.ex ≠ 0#32) (ha : c.askGrow n = .yes (c.g.granted n)) :
    ∃ t u, issue 2 g s (fun c => c.grow d n) = .next t ∧ t.groups.get c.gid = some u ∧ u.regs = n ∧
      (∀ r l, r < c.g.regs → l < 32 → u.rdV (.own r) l = c.g.rdV (.own r) l) ∧
      (∀ r l, c.g.regs ≤ r → r < n → l < 32 → u.rdV (.own r) l = 0#32) ∧
      (d.toNat < 63 → u.rdP d.toNat &&& c.ex = c.ex) := by
  have hb := Iss.grow_yes d hh hex ha
  have hrest := c.g.granted_rest n
  have hdid := (c.g.granted n).setP_did c.ex d.toNat fullMask false
  have hwithin := (c.g.granted_within n).trans ((c.g.granted n).setP_within c.ex d.toNat fullMask false)
  obtain ⟨t, ht, hret⟩ := issue_retires (body := fun c => c.grow d n) h hr hb hwithin
    (hdid.hlim.trans (by have := congrArg Group.hlim hrest; exact this))
    (hdid.hbuf.trans (by have := congrArg Group.hbuf hrest; exact this))
    (by have h1 := congrArg Group.cur hdid.rest; have h2 := congrArg Group.cur hrest; exact h1.trans h2)
    (by have h1 := congrArg Group.halted hdid.rest; have h2 := congrArg Group.halted hrest; exact h1.trans h2)
  obtain ⟨u, hu, hwent⟩ := hret.group
  have hv (r l : Nat) (hl : l < 32) : u.rdV (.own r) l = (c.g.v.clear (32 * c.g.regs) (32 * n)).get (32 * r + l) := by
    rw [hwent.rdV_own, hdid.lanesKept (.own r) (by simp) l hl, ← Group.granted_v]
    rfl
  refine ⟨t, u, ht, hu, ?_, fun r l hrr hl => ?_, fun r l ho hrn hl => ?_, fun hd => ?_⟩
  · rw [hwent.regs_eq]
    have := congrArg Group.regs hdid.rest
    exact this
  · rw [hv r l hl]; exact Cells.clear_below _ _ _ _ _ hrr hl
  · rw [hv r l hl]; exact Cells.clear_added _ _ _ _ _ ho hrn hl
  · rw [hwent.rdP_eq, hdid.preds (d.toNat, fullMask) (by simp), if_neg (by omega)]
    exact written_true _ _

/-- The split waits at its GROW and keeps its clause; its request is the last of the queue. -/
theorem Iss.waitGrow_waits (c : Iss) (n : Nat) :
    ∃ u sp, (c.waitGrow n).growQ = c.s.growQ ++ [⟨c.g.quad, c.gid, c.sn, n⟩] ∧ (c.waitGrow n).groups.get c.gid = some u ∧
      u.regs = c.g.regs ∧ u.ic = c.g.ic ∧ u.splits.get c.sn = some sp ∧ sp.pc = c.pc ∧ sp.wait = .grow ∧
      sp.mid = c.g.clause :=
  ⟨_, _, rfl, State.setGroup_get _ _ _, rfl, rfl, Tbl.get_put_self _ _ _, rfl, rfl, rfl⟩

/-- GROW answered at once without a change of the budget. -/
theorem grow_ends {s : State} {c : Iss} {g : Guard} {d : PReg} {n : Nat} {x : Mask} (h : s.Issues 2 g c) (hr : c.Room 32)
    (hb : c.grow d n = .ok (c.done (c.g.setP c.ex d.toNat x false))) :
    ∃ t, issue 2 g s (fun c => c.grow d n) = .next t ∧ c.Completes (predEffect d x) t :=
  issue_completes h hr hb (c.g.setP_did c.ex d.toNat x false)
    ⟨by have := (c.g.setP_within c.ex d.toNat x false).1; omega, (c.g.setP_within c.ex d.toNat x false).2⟩

theorem grow_answered (s : State) (c : Iss) (g : Guard) (d : PReg) (k : BitVec 4) (h : s.Issues 2 g c)
    (hh : c.g.inHandler = false) (hf : c.g.growFail ≠ some c.sn) (hg : c.g.grants = []) (hr : c.Room 32) :
    let want := 16 * (k.toNat + 1)
    (c.ex = 0#32 → c.Ends (.grow g d k) s {}) ∧
    (c.ex ≠ 0#32 → want ≤ c.g.regs → c.Ends (.grow g d k) s (predEffect d fullMask)) ∧
    (c.ex ≠ 0#32 → c.g.regs < want → c.g.regLimit < want → c.Ends (.grow g d k) s (predEffect d 0#32)) ∧
    (c.ex ≠ 0#32 → c.g.regs < want → want ≤ c.g.regLimit → (∀ r ∈ c.s.growQ, r.quad ≠ c.g.quad) →
      want - c.g.regs ≤ c.s.quadFree c.g.quad →
      ∃ t u, exec (.grow g d k) s = .next t ∧ t.groups.get c.gid = some u ∧ u.regs = want ∧
        (∀ r l, r < c.g.regs → l < 32 → u.rdV (.own r) l = c.g.rdV (.own r) l) ∧
        (∀ r l, c.g.regs ≤ r → r < want → l < 32 → u.rdV (.own r) l = 0#32) ∧
        (d.toNat < 63 → u.rdP d.toNat &&& c.ex = c.ex)) := by
  intro want
  refine ⟨fun hex => ?_, fun hex hn => ?_, fun hex hn hl => ?_, fun hex hn hl hq hfree => ?_⟩
  · exact issue_completes h hr (Iss.grow_empty d want hh hex) (.same c.g c.ex) (.refl c.g 32)
  · exact grow_ends h hr (Iss.grow_yes d hh hex (Iss.askGrow_has hf hg hn))
  · exact grow_ends h hr (Iss.grow_no d hh hex (Iss.askGrow_beyond hf hn hl))
  · exact grow_grants s c g d want h hr hh hex (Iss.askGrow_free hf hg hn hl hq hfree)

theorem grow_queues (s : State) (c : Iss) (g : Guard) (d : PReg) (k : BitVec 4) (h : s.Issues 2 g c)
    (hh : c.g.inHandler = false) (hf : c.g.growFail ≠ some c.sn) (hex : c.ex ≠ 0#32)
    (hn : c.g.regs < 16 * (k.toNat + 1)) (hl : 16 * (k.toNat + 1) ≤ c.g.regLimit)
    (hq : (∃ r ∈ c.s.growQ, r.quad = c.g.quad) ∨ c.s.quadFree c.g.quad < 16 * (k.toNat + 1) - c.g.regs) :
    ∃ t u sp, exec (.grow g d k) s = .next t ∧ t.growQ = s.growQ ++ [⟨c.g.quad, c.gid, c.sn, 16 * (k.toNat + 1)⟩] ∧
      t.groups.get c.gid = some u ∧ u.regs = c.g.regs ∧ u.ic = c.g.ic ∧ u.splits.get c.sn = some sp ∧ sp.pc = c.pc ∧
      sp.wait = .grow ∧ sp.mid = c.g.clause := by
  obtain ⟨-, -, hs, -⟩ := h.issuer_facts
  obtain ⟨u, sp, hgrowQ, hu⟩ := c.waitGrow_waits (16 * (k.toNat + 1))
  exact ⟨_, u, sp, issue_waits (body := fun c => c.grow d (16 * (k.toNat + 1))) h
    (Iss.grow_wait d hh hex (Iss.askGrow_short hf hn hl hq)), hs ▸ hgrowQ, hu⟩

/-! YIELD (R90). -/

theorem yield_retires (s : State) (c : Iss) (h : s.Issues 1 always c) (hr : c.Room 0) :
    c.EndsIn .yield_ s (c.s.setGroup c.gid { c.g with yielded := true }) := by
  obtain ⟨t, ht, hret⟩ := issue_retires (body := fun c => .ok (c.done { c.g with yielded := true })) h hr rfl
    (.refl c.g 0) rfl rfl rfl rfl
  exact ⟨t, _, ht, State.setGroup_get _ _ _, hret⟩

/-! Handler mode (R133, R385). -/

section
variable {s : State} {c : Iss} (hh : c.g.inHandler = true)
include hh

theorem handler_refuses_short (h : s.Issues 1 always c) :
    exec .bar s = .next (c.fault 0x0907#16 c.ex 0#64 0#64) ∧ exec .waitpred s = .next (c.fault 0x0907#16 c.ex 0#64 0#64) ∧
      exec .exit s = .next (c.fault 0x0206#16 c.ex 0#64 0#64) := by
  refine ⟨issue_raises h ?_, issue_raises h ?_, issue_raises h ?_⟩
  · rw [Iss.bar, Iss.notInHandler_raises hh]; rfl
  · rw [Iss.waitpred, Iss.notInHandler_raises hh]; rfl
  · simp [need, hh, raise, bind, Except.bind]

theorem handler_refuses_grow {g : Guard} (h : s.Issues 2 g c) (d : PReg) (k : BitVec 4) :
    exec (.grow g d k) s = .next (c.fault 0x0907#16 c.ex 0#64 0#64) := by
  refine issue_raises h ?_
  rw [Iss.grow, Iss.notInHandler_raises hh]; rfl

theorem handler_refuses_evwait {g : Guard} (h : s.Issues 2 g c) (cnt : Bool) (bind : Bind) (a : KReg) (b : VReg)
    (k : BitVec 5) : exec (.evwait cnt bind g a b k) s = .next (c.fault 0x0907#16 c.ex 0#64 0#64) := by
  refine issue_raises h ?_
  rw [Iss.evwait, Iss.notInHandler_raises hh]; rfl

theorem handler_refuses_unseal {g : Guard} (h : s.Issues 2 g c) (a : KReg) :
    exec (.unseal g a) s = .next (c.fault 0x0907#16 c.ex 0#64 0#64) := by
  refine issue_raises h ?_
  simp [need, hh, raise, bind, Except.bind]

end

/-- Settles O29: BAR by the commit that it makes (`bar_waits`), GROW by the answer to its request (`grow_answered`,
`grow_queues`), and in handler mode by the check that comes first. -/
theorem barriersAndBudgets : Obligations.BarriersAndBudgets := by
  refine ⟨fun s c => ⟨bar_waits s c, grow_answered s c, yield_retires s c⟩,
    fun s c g d k h hh hf _ => grow_queues s c g d k h hh hf, fun s c n g h hh => ⟨?_, ?_⟩⟩
  · rintro rfl rfl
    exact handler_refuses_short hh h
  · rintro rfl
    exact ⟨handler_refuses_grow hh h, handler_refuses_evwait hh h, handler_refuses_unseal hh h⟩

end Sys2Proof.Machine
end

section
/-! Proofs/Transfers.lean: a transfer that stops at a check, by a split to which a budget has been granted (03_group_state R72,
R75; 04_lane_integer_control R128). -/

namespace Sys2Proof.Machine

/-! One target (R126). -/

theorem getLsbD_maskUpTo (f : Nat → Bool) (n l : Nat) (hl : l < 32) :
    (maskUpTo f n).getLsbD l = (decide (l < n) && f l) := by
  induction n with
  | zero => simp [maskUpTo]
  | succ n ih =>
    have hbit : (if f n then BitVec.twoPow 32 n else 0).getLsbD l = (decide (l = n) && f n) := by
      cases f n <;> simp [hl]
    rw [maskUpTo, BitVec.getLsbD_or, ih, hbit]
    rcases Nat.lt_trichotomy l n with h | rfl | h
    · simp [h, h.ne, Nat.lt_succ_of_lt h]
    · simp
    · have h1 : ¬ l < n := by omega
      have h2 : ¬ l < n + 1 := by omega
      simp [h1, h2, h.ne']

/-- A mask is the mask of its lanes. -/
theorem maskOf_lanesOf (m : Mask) : maskOf (fun l => (lanesOf m).contains l) = m := by
  refine BitVec.eq_of_getLsbD_eq (fun l hl => ?_)
  rw [maskOf, getLsbD_maskUpTo _ _ _ hl]
  simp [lanesOf, hl]

theorem lanesOf_ne_nil {m : Mask} (h : m ≠ 0#32) : lanesOf m ≠ [] := by
  intro h0
  apply h
  rw [← maskOf_lanesOf m, h0]
  decide

theorem groupTargets_const (a : CAddr) {m : Mask} (h : m ≠ 0#32) : groupTargets (fun _ => a) (lanesOf m) = [(a, m)] := by
  have hdups : ((lanesOf m).map (fun _ => a)).eraseDups = [a] := by
    obtain ⟨l, t, ht⟩ := List.exists_cons_of_ne_nil (lanesOf_ne_nil h)
    have hrest : (t.map (fun _ => a)).filter (fun b => !b == a) = [] := by simp
    rw [ht, List.map_cons, List.eraseDups_cons, hrest, List.eraseDups_nil]
  simp only [groupTargets, hdups, List.map_cons, List.map_nil, beq_self_eq_true, Bool.and_true, maskOf_lanesOf]

/-! The fault of a target that is no header (R128 item 1). -/

/-- The branch to `a` of the lanes of Exec, with or without BRU's check. -/
def Iss.branchTo (c : Iss) (a : CAddr) (unif : Bool) : Transfer :=
  { t := fun _ => a, m := c.ex, unif := unif, link := none, budget := 0 }

theorem Iss.transferOf_no_header {c : Iss} {a : CAddr} {unif : Bool} (hex : c.ex ≠ 0#32)
    (ha : c.s.isHeader c.g.ctx a = .ok false) :
    c.transferOf (c.branchTo a unif) = .error (.berm 0x0101#16 (some c.ex) (a.setWidth 64) 0#64) := by
  have hlanes : maskOf (fun l => c.ex.getLsbD l) = c.ex := by
    refine BitVec.eq_of_getLsbD_eq (fun l hl => ?_)
    rw [maskOf, getLsbD_maskUpTo _ _ _ hl]
    simp [hl]
  have hcheck : c.checkTargets [(a, c.ex)] = .error (.berm 0x0101#16 (some c.ex) (a.setWidth 64) 0#64) := by
    simp [Iss.checkTargets, List.filterM, List.filterAuxM, ha, raiseL, hlanes, bind, Except.bind, pure, Except.pure]
  simp [Iss.transferOf, Iss.branchTo, need, hex, groupTargets_const a hex, hcheck, bind, Except.bind]

/-- A transfer that stops at a check gives back the budget granted to its split (R128). -/
theorem Iss.transfer_gives_back {c : Iss} {x : Transfer} {cause : Cause} {m : Mask} {a b : DWord}
    (h : c.transferOf x = .error (.berm cause (some m) a b)) (hh : c.g.inHandler = false)
    (hg : (c.g.grants.get c.sn).isSome = true) :
    c.transfer x = .error (.wait (c.withoutGrant.fault cause m a b)) := by
  simp [Iss.transfer, h, Iss.ungranted, hh, hg, Iss.stopWith]

theorem bra_gives_back {s : State} {c : Iss} {g : Guard} {off : Word} (h : s.Issues 3 g c) (hex : c.ex ≠ 0#32)
    (ha : c.s.isHeader c.g.ctx (c.pc + (off.signExtend 64).setWidth 57) = .ok false) (hh : c.g.inHandler = false)
    (hg : (c.g.grants.get c.sn).isSome = true) :
    exec (.bra g off) s = .next (c.withoutGrant.fault 0x0101#16 c.ex
      ((c.pc + (off.signExtend 64).setWidth 57).setWidth 64) 0#64) :=
  issue_stop (body := fun c => c.branch off false) h (Iss.transfer_gives_back (Iss.transferOf_no_header hex ha) hh hg)

/-- The group of a fault keeps the budgets granted. -/
theorem Iss.fault_grants (c : Iss) (cause : Cause) (m : Mask) (a b : DWord) :
    ((c.fault cause m a b).groups.get c.gid).map (·.grants) = some c.g.grants := by
  rw [Iss.fault, State.toBerm_group]
  rfl

/-! A group of which one split has a budget granted and does not go on with a GROW. -/

/-- Split 0 was granted 80 registers above the group's 64, and stands at an instruction of its clause. -/
def grantedGroup : Group := { loadGroup with regs := 80, grants := [(0, 80)], growOld := 64 }

def grantedState : State := { State.reset.loaded with groups := [(3, grantedGroup)] }

/-- A branch of three parcels issues in it. -/
def grantedIss : Iss :=
  grantedState.iss grantedGroup (initialSplit 0x1004#57 fullMask)
    { hdr := 0x1000#57, fa := none, fb := none, left := 1, yld := false } always 3

theorem grantedIss_issues : grantedState.Issues 3 always grantedIss := ⟨_, _, _, by decide, by decide, rfl⟩

/-- Refutes O13: a transfer that stops at a check gives back the budget that its split was granted while it waited (R128), so
that the group which parks is not the group that issued, as the statement has it for BRA to an address that is no header. It
asks of CALLI alone that no grant stands; one stands for a BRA where the code under a waiting GROW has been overwritten before
the split goes on. Here the BRA goes to PC + 1, and the group before it holds a grant for its split 0. -/
theorem not_transfers : ¬ Obligations.Transfers := by
  unfold Obligations.Transfers
  rintro ⟨-, -, hfaults, -⟩
  have hex : grantedIss.ex ≠ 0#32 := by decide
  have hno : grantedIss.s.isHeader grantedIss.g.ctx (grantedIss.pc + ((1#32).signExtend 64).setWidth 57) = .ok false := by
    decide
  obtain ⟨hbad, -⟩ := hfaults grantedState grantedIss always 1#32 grantedIss_issues hex
  obtain ⟨hkept, -⟩ := hbad hno
  have hgiven := bra_gives_back grantedIss_issues hex hno (by decide) (by decide)
  have heq := Host.Outcome.next.inj (hkept.symm.trans hgiven)
  have hgrants := congrArg (fun t : State => (t.groups.get 3).map (·.grants)) heq
  have h1 := grantedIss.fault_grants 0x0101#16 grantedIss.ex
    ((grantedIss.pc + ((1#32).signExtend 64).setWidth 57).setWidth 64) 0#64
  have h2 := grantedIss.withoutGrant.fault_grants 0x0101#16 grantedIss.ex
    ((grantedIss.pc + ((1#32).signExtend 64).setWidth 57).setWidth 64) 0#64
  have hsame : some grantedIss.g.grants = some grantedIss.withoutGrant.g.grants := h1.symm.trans (hgrants.trans h2)
  exact absurd hsame (by decide)

end Sys2Proof.Machine
end
